-- ==== Sys2Proof/Word.lean ====
section
/-! DEFINITION. The plain words of the module: bytes, 32- and 64-bit words, and the sparse table type.
A table holds (key, value) pairs with strictly rising keys; an absent key reads as the table's default. -/

namespace Sys2Proof

/-- A byte of memory, of a message or of a packet. -/
abbrev Byte := BitVec 8

/-- A 32-bit register or an FP32 encoding (R76). -/
abbrev Word := BitVec 32

/-- A 64-bit register (R17: addresses use its low 48 bits). -/
abbrev Long := BitVec 64

/-- A sparse table by natural-number key, keys strictly rising. -/
abbrev Table (α : Type) := List (Nat × α)

end Sys2Proof
end

