-- ==== Sys2Proof/Syntax.lean ====
section
/-! DEFINITION. The commands of the module: one constructor of `Instr` for each row of the table of operations and
events, and the types of their operands. An operand is what the outside supplies with the command: an address, a value,
a packet's bytes, a reading, or the physical outcome (a memory error, a training result) that the module observes. -/

/-! ### Records of a context

Brood entries, super entries, pages, versions, adapters and learner state. They stand here because a capping image carries them. -/

namespace Sys2Proof.Machine

/-- Table 7.2. -/
inductive SlotState where
  | free | prefill | decode | held | parked | closing
  deriving DecidableEq, Repr

/-- A Brood Table entry (Table 7.1) with the model's record of what the Keeper holds beside it: the prompt, the pages a
handle gave and their tag until binding (R322), the consumer word's place (R289), the slot's list number (R302), DRAWN (Table 13.7), the consumer value
below which a restored ring's room is 256 (`rewind`, R535), the steps waited through (R269), the stamp of its last commit (R293), and its
last poll (R290). `stops` are the STOP words, of which the first `nstop` count; `kvList` is the address word of KV_LIST. -/
structure Slot where
  seqId : Long
  ctx : Nat
  state : SlotState
  lc : Bool
  mirror : Bool
  cancel : Bool
  vchg : Bool
  depth : Nat
  version : Nat
  adapter : Nat
  adapterVer : Nat
  status : Nat
  promptLen : Nat
  prefilled : Nat
  length : Nat
  maxNew : Nat
  temp : Word
  topP : Word
  topK : Nat
  package : Nat
  stops : List Nat
  nstop : Nat
  admitTick : Nat
  kvList : Nat
  supEntry : Nat
  ringProd : Nat
  ringCons : Nat
  mirrorReg : Nat
  mirrorOffset : Nat
  consOffset : Nat
  lastToken : Nat
  scoreTarget : Option Long
  prompt : List Nat
  held : List Nat
  heldTag : Nat
  list : Option Nat
  drawn : Nat
  ringOff : Bool
  rewind : Option Nat
  tag : Long
  waits : Nat
  lastStamp : Word
  commitStamp : Word
  pollAt : Nat
  polling : Bool
  deriving DecidableEq, Repr

/-- A token record (Table 7.6, KIND 0). -/
structure TokenRec where
  token : Nat
  vchg : Bool
  logp : Word
  entropy : Word
  version : Nat
  pos : Nat
  deriving DecidableEq, Repr

/-- A super entry (Table 7.7) with its place in the super (R294). -/
structure SupEntry where
  seqId : Long
  addr : Nat
  start : Nat
  bytes : Nat
  status : Nat
  ready : Bool
  vchg : Bool
  rewardState : Nat
  released : Bool
  versionFirst : Nat
  versionLast : Nat
  promptLen : Nat
  genLen : Nat
  adapter : Nat
  adapterVer : Nat
  reward : Word
  endStamp : Word
  prompt : List Nat
  records : List TokenRec
  deriving DecidableEq, Repr

/-- A page tag (Table 8.3). -/
structure PageTag where
  package : Nat
  version : Nat
  adapter : Nat
  adapterVer : Nat
  deriving DecidableEq, Repr

/-- A page descriptor (Table 8.2) with its token block (R303). -/
structure Page where
  refs : Nat
  free : Bool
  mixed : Bool
  hashed : Bool
  damaged : Bool
  tag : PageTag
  tokens : Table Nat
  deriving DecidableEq, Repr

/-- A hash table entry (Table 8.7); its key in the table is its way number. -/
structure HashEntry where
  hash : BitVec 128
  page : Nat
  tag : PageTag
  used : Word
  deriving DecidableEq, Repr

/-- A prefix handle's table entry (Table 8.6). -/
structure Handle where
  serial : Word
  length : Nat
  tag : PageTag
  list : Nat
  damaged : Bool
  deriving DecidableEq, Repr

/-- Table 10.1. -/
inductive VersionState where
  | free | loading | current | retained
  deriving DecidableEq, Repr

/-- A shard entry (Table 6.9). -/
structure ShardPlace where
  shard : Nat
  tensor : Nat
  position : Nat
  tier : Nat
  format : Nat
  dest : Nat
  length : Nat
  offset : Nat
  deriving DecidableEq, Repr

/-- A scale-table entry (Table 6.8). -/
structure ScaleEntry where
  tensor : Nat
  format : Nat
  j : Int
  deriving DecidableEq, Repr

/-- A version record (Table 10.2, R382), or a version of an adapter index (Table 10.8); `record` is its number. -/
structure Version where
  record : Nat
  tag : Nat
  state : VersionState
  shelved : Bool
  shared : Bool
  damaged : Bool
  fromPack : Bool
  package : Nat
  source : Nat
  scales : List ScaleEntry
  grans : List (Nat × Nat)
  dispSram : Nat
  dispLp : Nat
  switchStamp : Word
  shards : List ShardPlace
  owner : Option (Nat × Nat)
  askedShared : Bool
  deriving DecidableEq, Repr

/-- An adapter index (R404 to R408, Table 10.8). -/
structure Adapter where
  ctx : Nat
  lastTag : Nat
  rank : Nat
  basePack : Nat
  versions : List Version
  deriving DecidableEq, Repr

/-- The learner state of a context (R333 to R337, R398, R518). Histories are keyed by tensor, and `scales` holds the j that each learning-only
tensor had last (R90). -/
structure Learner where
  package : Nat
  cur : Bool
  lastStep : Nat
  startedStep : Nat
  damaged : Bool
  histories : Table (List Word)
  masterMax : Table Word
  scales : Table Int
  deriving DecidableEq, Repr

end Sys2Proof.Machine

namespace Sys2Proof

/-- A core register window of Table 1.4: by logical core, or by physical core (R20). -/
inductive CoreWin where
  | logical (c : Nat)
  | physical (p : Nat)
  deriving DecidableEq, Repr

/-- Who makes a register access (R166, R19, R589). -/
inductive Agent where
  | keeper
  | comb
  | debugPath
  deriving DecidableEq, Repr

/-- What the codes of a memory say of a read, with the device address of an error (R226, R227). -/
inductive MemOutcome where
  | ok
  | corrected (addr : Nat)
  | uncorrectable (addr : Nat)
  deriving DecidableEq, Repr

/-- What the code of one word says of its read (R226, R228). -/
inductive ReadCheck where
  | ok
  | corrected
  | uncorrectable
  deriving DecidableEq, Repr

/-- What a flash read of an extent meets (R244): how many of its codewords decode only by soft-decision reads, and how many not at all. -/
structure FlashRead where
  soft : Nat
  bad : Nat
  deriving DecidableEq, Repr

/-- A fill of a core window: the window, and what the codes of the memory it reads say (R168, R210). -/
structure FillOf where
  win : CoreWin
  read : MemOutcome
  deriving DecidableEq, Repr

/-- A core's frame that reads memory: the physical core, and what the codes of what it reads say. -/
structure CoreRead where
  core : Nat
  read : MemOutcome
  deriving DecidableEq, Repr

/-- A core that may be retired: the physical core, and the words that the copy of its slice cannot read (R165). -/
structure CoreLoss where
  core : Nat
  lost : List Nat
  deriving DecidableEq, Repr

/-- The engines of Table 4.1 that have a queue, and the sequencer. -/
inductive Engine where
  | load | store | xfer | fme | bme | veu | seq
  deriving DecidableEq, Repr

/-- Header facts of an inbound RoCEv2 packet: the module's QPN it names and whether its ICRC and FCS hold (Table 12.2). -/
structure Roce where
  qpn : Nat
  intact : Bool
  deriving DecidableEq, Repr

/-- An inbound RDMA READ: its packet's header facts, and what the codes of the memory it reads say. -/
structure RoceRead where
  head : Roce
  read : MemOutcome
  deriving DecidableEq, Repr

/-- A UDP source: address and port (R471). -/
structure UdpSource where
  addr : BitVec 128
  port : BitVec 16
  deriving DecidableEq, Repr

/-- The kinds of a compiled graph package (Table 12.12, ARG of PACKAGE_LOAD). -/
inductive PkgKind where
  | generation | learning | reward
  deriving DecidableEq, Repr

/-- The KV geometry that a package declares (R299) and that a context holds (BRD_KV_CTXn_GEOM). -/
structure KvGeom where
  format : Nat
  layers : Nat
  tcols : Nat
  deriving DecidableEq, Repr

/-- How a learning package declares a tensor (R336). -/
inductive TensorKind where
  | frozen | full | partlyTrained
  deriving DecidableEq, Repr

/-- A tensor of a learning package: its number, layer, kind, matrix shape (R334, R140) and row mask (R336). -/
structure Tensor where
  number : Nat
  layer : Nat
  kind : TensorKind
  rows : Nat
  cols : Nat
  rowMask : List Bool
  deriving DecidableEq, Repr

/-- A frame table of a package: the logical core it is for, its index, its bytes (R120), and the tensors that its frames name: by 64-byte
unit of the table, the tensor number whose scale the frame's SCALE_J is (Table 4.10). -/
structure TableImage where
  core : Nat
  index : Nat
  bytes : List Byte
  named : List (Nat × Nat)
  deriving DecidableEq, Repr

/-- A unit of a step's unit map (R520): the operation, the unit number, the table bytes its template gives, and the tensors that its frames
name, by 64-byte unit of the template. -/
structure UnitImage where
  op : Nat
  unit : Nat
  bytes : List Byte
  named : List (Nat × Nat)
  deriving DecidableEq, Repr

/-- The areas a package declares (Table 9.1, R363, R365, R367, R525): a bank's masters with their compensation words and its optimizer
state, frozen masters, histories, bucket running values and receive area, micro-batch inputs, working copies, send area, scratch, the
update values u of R112, the forward passes' log-probabilities, the norm chains' results, logits buffers and spill areas. -/
inductive RegionKind where
  | masters (bank : Bool)
  | optState (bank : Bool)
  | frozen | histories | running | receive | inputs | working | send | scratch | updates | logProbs | norms | logits | spills
  deriving DecidableEq, Repr

/-- A declared area: a range of context addresses. -/
structure Region where
  kind : RegionKind
  base : Nat
  bytes : Nat
  deriving DecidableEq, Repr

/-- A bucket (R335): a run of a layer's parameter element index. -/
structure Bucket where
  layer : Nat
  first : Nat
  size : Nat
  deriving DecidableEq, Repr

/-- A user function table of a package (R197, R198). -/
structure UserFunc where
  slot : Nat
  lo : Word
  cfg : Word
  crc : Word
  vinf : Long
  dinf : Long
  bytes : List Byte
  deriving DecidableEq, Repr

/-- What a compiled graph package holds (R41, R120, R179, R198, R299, R333 to R336, R348, R520). The manual states these contents and
not the package's byte layout, so a window that carries a package delivers this record. `regions` are the areas of Table 9.1 and R525, and
`stash` the stash units, base and bytes, in unit order with those in SRAM first; `learnOnly` are the tensors that exist only in learning,
each with its format and initial j (R90); `extended` says that masters carry compensation words, `stateBytes` how many bytes of optimizer
state an element has; `adapter` is the index that a learning package trains (R404); `kvTensors` are the key-value tensors of R399. -/
structure Package where
  packageId : Nat
  contract : Nat
  kind : PkgKind
  tables : List TableImage
  chains : List (Nat × List Byte)
  userFuncs : List UserFunc
  units : List UnitImage
  geom : Option KvGeom
  maxSeqs : Nat
  maxTokens : Nat
  chunk : Nat
  ctxLimit : Nat
  draftDepth : Nat
  vocab : Nat
  logitsFormat : Nat
  logitsBase : Nat
  logitsStride : Nat
  draftBase : Nat
  rewardBase : Nat
  rowLimit : Nat
  tokenLimit : Nat
  stash : List (Nat × Nat)
  stashLayers : Nat
  bCombs : BitVec 32
  plausibility : Option Nat
  tensors : List Tensor
  kvTensors : List Nat
  learnOnly : List Machine.ScaleEntry
  regions : List Region
  buckets : List Bucket
  extended : Bool
  stateBytes : Nat
  adapter : Option Nat
  deriving DecidableEq, Repr

/-- A granule list entry of a capping image (Table 13.8). -/
structure CapEntry where
  addr : Nat
  ref : Nat
  kind : Nat
  arg : Nat
  deriving DecidableEq, Repr

/-- The context settings of metadata record 0x01 (Table 13.7). `fields` are the bytes of CTX_CREATE from offset 48; the packages are
slot, PACKAGE_ID and kind. -/
structure CapSettings where
  fields : List Byte
  weight : Nat
  lcAllowed : Bool
  continueMode : Bool
  fraction : Nat
  packages : List (Nat × Nat × Nat)
  deriving DecidableEq, Repr

/-- A capping image (Tables 13.6 to 13.8): its header's fields, its records, its granule list and the data of the copied entries, 64 KiB
each. The manual does not give the byte layout of most record bodies, so an image that is read back delivers this record; `sound`
says that its header is valid and every CRC holds. -/
structure CapImage where
  sound : Bool
  ctx : Nat
  position : Nat
  groupSize : Nat
  contract : Nat
  stamp : Nat
  lastStep : Nat
  settings : CapSettings
  slots : List Machine.Slot
  lists : Table (Table Nat)
  pages : Table Machine.Page
  hashes : Table Machine.HashEntry
  handles : Table Machine.Handle
  serial : Word
  versions : List Machine.Version
  lastTag : Nat
  adapters : Table Machine.Adapter
  learner : Option Machine.Learner
  supHead : Nat
  supTail : Nat
  supers : List Machine.SupEntry
  entries : List CapEntry
  data : List (List Byte)
  deriving DecidableEq, Repr

/-- What the response to an outbound RDMA READ brings (R453): the bytes, a package (see `Package`), a capping image, or a failure. -/
inductive ReadData where
  | bytes (b : List Byte)
  | package (p : Package)
  | image (i : CapImage)
  | failed
  deriving DecidableEq, Repr

/-- A Keeper message on a CONTROL packet (R427, R439, R441, R444, R446): its kind with the fields the manual gives it. `lossReport` names
the link its sender reports down, `order` carries the queen's command that every module carries out with the manifest or turn map it
names, `orderEnd` the end of one, `successor` the set of R433 with its other items by context, record kind and ITEM, `capHold` a capping image to hold for
the sender and `capImage` an image sent back for a restore (R528, R532). -/
inductive ControlKind where
  | stepStart | stepEnd | staged | replay | replayResult | commit | rollback | ack | ready | active | heartbeat
  | refuse | other
  | clip (ctx : Nat) (factor : Word)
  | scales (entries : List Machine.ScaleEntry)
  | inputs (ctx addr : Nat) (data : List Byte)
  | replayInputs (ctx micro offset : Nat) (data : List Byte)
  | lossReport (link : Nat)
  | suspects (ctx : Nat)
  | order (message body : List Byte)
  | orderEnd (tag : Long) (command ctx status : Nat)
  | successor (entries : List Byte) (items : List (Nat × Nat × Nat))
  | capHold (image : CapImage)
  | capImage (image : CapImage)
  deriving DecidableEq, Repr

/-- A watch summary of one tensor (R207, Table 5.8). -/
structure WatchSum where
  tag : Nat
  elems : Nat
  zeros : Nat
  sats : Nat
  nonfin : Nat
  recomp : Nat
  fallback : Nat
  amax : Word
  deriving DecidableEq, Repr

/-- The norm values of one layer (R365, Table 9.7). -/
structure LayerNorm where
  layer : Nat
  elems : Nat
  wSumsq : Word
  gSumsq : Word
  uSumsq : Word
  wAmax : Word
  gAmax : Word
  uAmax : Word
  nonfin : Nat
  deriving DecidableEq, Repr

/-- What a member's STAGED report says of one of its micro-batches (R510). -/
structure MicroReport where
  micro : Nat
  fp : Long
  flags : BitVec 7
  flagged : Bool
  deriving DecidableEq, Repr

/-- A member's STAGED report (R369, R441, R510): cleanness, the status of a fault that no redo follows (Table 13.4; 0 where there is none),
the non-finite condition of R372, flags, watch summaries, the norms of the layers whose chain ends there, micro-batches, the largest master
magnitudes of R398 by tensor, the log-probabilities of R367 by micro-batch, and whether the module's learner is DAMAGED. -/
structure StagedReport where
  clean : Bool
  status : Nat
  nonfinite : Bool
  flags : BitVec 7
  watches : List WatchSum
  norms : List LayerNorm
  micros : List MicroReport
  masterMax : Table Word
  logps : Table (List Word)
  damaged : Bool
  deriving DecidableEq, Repr

/-- One entry of a work list (R270): the slot, whether it decodes, its first position and its rows. -/
structure WorkItem where
  slot : Nat
  decode : Bool
  first : Nat
  rows : Nat
  deriving DecidableEq, Repr

/-- A row of a work-list descriptor: its segment, which is the place of its sequence in the list (R307), its position and input token
(R274), no token for a draft that the step itself proposes, and its destination key row (R305). -/
structure WorkRow where
  segment : Nat
  pos : Nat
  token : Option Nat
  keyRow : Nat
  deriving DecidableEq, Repr

/-- A page order of a build (R439): the list and index, the page the entry names from now on (none: cleared), and the page it
replaces by copy-on-write. -/
structure PageOrder where
  list : Nat
  index : Nat
  page : Option Nat
  copyOf : Option Nat
  deriving DecidableEq, Repr

/-- What a step start message orders (R439, R437): a generation step with its class, run, package slot, version, work list, rows, the page
numbers of its sequences, and the page orders of its build; or a learning step by its class and plan. -/
inductive StepOrder where
  | generation (lc : Bool) (run package version : Nat) (items : List WorkItem) (rows : List WorkRow) (tables : List (List Nat))
      (pages : List PageOrder)
  | learning (lc : Bool) (plan : List Byte)
  deriving DecidableEq, Repr

/-- A member's STEP_END report (R439, R440, R506): whether a core faulted, fingerprint, flags and watch summaries; the status of a fault that
no run follows (Table 13.4), 0 where there is none; and the page lists and version tags that an uncorrectable read has hit (Table 13.5). -/
structure StepEndReport where
  faulted : Bool
  suspect : Bool
  fp : Long
  flags : BitVec 7
  watches : List WatchSum
  status : Nat
  lists : List Nat
  versions : List Nat
  deriving DecidableEq, Repr

/-- How a source of Table 10.10 delivers a shard (R412, R413). -/
inductive Delivery where
  | delivered (source : Nat) (peer : Option Nat)
  | corrupt (source : Nat)
  | absent (source : Nat)
  | deviceLost
  | roleStale
  deriving DecidableEq, Repr

/-- The end of an attempt at a shard: how its source delivered it, and the reads of this module's store that it took. -/
structure ShardReport where
  delivery : Delivery
  reads : List FlashRead
  deriving DecidableEq, Repr

/-- The body of a COMMIT: the base stamp of its step, and the step's maxima over every module (R92, R370, R444). -/
structure CommitBody where
  base : Nat
  maxima : Table Word
  deriving DecidableEq, Repr

/-- What built-in self-test finds (R162, R229 to R231, R522). -/
structure BistReport where
  failedCores : List Nat
  failedRows : List (Nat × Nat)
  failedComb : Option Nat
  deriving DecidableEq, Repr

/-- One Power Guard window's readings (R563): highest junction reading in 1/16 °C with its sensor, mean input power in W,
measured VCORE in mV, rail currents in A, and whether every rail stayed below 90 % of its clamp. -/
structure PowerReadings where
  tj : Int
  sensor : Nat
  watts : Nat
  railMv : List Nat
  railAmps : List Nat
  railsCalm : Bool
  deriving DecidableEq, Repr

/-- Why main power is lost (R628). -/
inductive PowerLossCause where
  | pwrGoodFalls
  | mainSag
  | vauxSag
  deriving DecidableEq, Repr

/-- Why a connection enters ERROR (R454). -/
inductive QpErrorCause where
  | retriesExhausted
  | remoteAccess
  deriving DecidableEq, Repr

/-- Who writes to a protected granule (R219, R526). -/
inductive Writer where
  | engine (core : Nat) (e : Engine)
  | rdma (qpn : Nat)
  | keeper
  deriving DecidableEq, Repr

/-- The outcome of one background or first-touch capping copy (R527, R531). -/
inductive CopyOutcome where
  | visible
  | uncorrectable (addr : Nat)
  | linkFailed
  | deviceLost
  | tooSmall
  deriving DecidableEq, Repr

/-- The instructions of the test access port (R621, R589). -/
inductive JtagOp where
  | bypass | idcode | samplePreload | extest | clamp | highz
  | keeperHalt | keeperRelease
  | read (addr : Nat)
  | write (addr : Nat) (value : Long)
  deriving DecidableEq, Repr

/-- The commands of the module, one for each row of the table of operations and events. The commands from `identify` to
`slotQuery` name the mailbox whose next message the Keeper consumes; the message itself lies in that mailbox's submission
ring (R462, R472). -/
inductive Instr where
  | identify (mb : Nat)
  | netConfig (mb : Nat)
  | qpCreate (mb : Nat)
  | qpDestroy (mb : Nat)
  | mboxBind (mb : Nat)
  | memRegister (mb : Nat)
  | memDeregister (mb : Nat)
  | lock (mb : Nat)
  | ctxCreate (mb : Nat)
  | ctxRelease (mb : Nat)
  | ctxSet (mb : Nat)
  | shareMode (mb : Nat)
  | packageLoad (mb : Nat)
  | packageUnload (mb : Nat)
  | groupForm (mb : Nat)
  | queenMove (mb : Nat)
  | groupDissolve (mb : Nat)
  | packWrite (mb : Nat)
  | packDelete (mb : Nat)
  | packQuery (mb : Nat)
  | load (mb : Nat)
  | turnLearn (mb : Nat)
  | turnGen (mb : Nat)
  | switchMode (mb : Nat)
  | versionRetire (mb : Nat)
  | versionGrant (mb : Nat)
  | versionRevoke (mb : Nat)
  | adapterRelease (mb : Nat)
  | shardSupply (mb : Nat)
  | learnStep (mb : Nat)
  | cancel (mb : Nat)
  | guardSet (mb : Nat)
  | capTake (mb : Nat)
  | capRestore (mb : Nat)
  | fwLoad (mb : Nat)
  | fwActivate (mb : Nat)
  | powerSet (mb : Nat)
  | logRead (mb : Nat)
  | traceSet (mb : Nat)
  | ledgerRead (mb : Nat)
  | debugUnlock (mb : Nat)
  | admission (mb : Nat)
  | handleRegister (mb : Nat)
  | handleRelease (mb : Nat)
  | setReward (mb : Nat)
  | superRelease (mb : Nat)
  | slotQuery (mb : Nat)
  | doorbell (h : Roce) (body : List Byte)
  | udpSubmit (src : UdpSource) (sumOk : Bool) (datagram : List Byte)
  | udpPoll (src : UdpSource) (sumOk : Bool) (datagram : List Byte)
  | rdmaWriteInbound (h : Roce) (addr rkey : Nat) (data : List Byte)
  | rdmaReadInbound (h : RoceRead) (addr rkey len : Nat)
  | ceMarkedPacket (h : Roce)
  | cnpReceived (h : Roce)
  | rateRecoverExpiry (qpn : Nat)
  | roceAckTimeout (qpn : Nat)
  | qpError (qpn : Nat) (cause : QpErrorCause)
  | ethLinkWaitExpiry
  | ethLinkUp (lanes : BitVec 8)
  | ethLinkDown
  | ethCtrlWrite (v : Word)
  | promptReadComplete (qpn : Nat) (data : Option (List Byte))
  | coreStart (w : CoreWin)
  | coreAbort (w : CoreWin)
  | frameStoreFill (w : FillOf)
  | frameStoreFillDone (p : Nat)
  | coreTokenWrite (w : CoreWin) (n : Nat) (v : Word)
  | veuFill (w : FillOf)
  | veuFillDone (p : Nat)
  | memInval (v : Word)
  | memInvalDone
  | memZero (v : Word)
  | memZeroDone
  | trnModeWrite (v : Word)
  | dlFence
  | dlEnable
  | wdogKick (v : Word)
  | wdogCfgWrite (v : Word)
  | prpLockWrite (v : Word)
  | brdSlotWrite (agent : Agent) (slot : Nat) (entry : List Byte)
  | clkDvfsWrite (v : Word)
  | registerWrite (agent : Agent) (addr : Nat) (v : Long)
  | reservedAddressRead (agent : Agent) (addr : Nat)
  | frameDispatch (p : Nat)
  | loadTile (p : Nat) (m : MemOutcome)
  | loadGather (p : Nat) (m : MemOutcome)
  | loadLinear (p : Nat) (m : MemOutcome)
  | storeTile (p : CoreRead)
  | storeScatter (p : Nat) (m : MemOutcome)
  | storeScatterAdd (p : Nat) (m : MemOutcome)
  | storeLinear (p : Nat)
  | copy (p : Nat) (m : MemOutcome)
  | linkCopy (p : Nat) (m : MemOutcome)
  | mma (p : Nat) (e : Engine)
  | fin (p : Nat) (e : Engine)
  | chain (p : Nat)
  | frameComplete (p : Nat) (e : Engine)
  | waitTimeout (p : Nat) (e : Engine)
  | stepCoresDone (ctx : Nat)
  | cfgMismatch (addr : Nat)
  | cfgLost (addr : Nat)
  | wpWriteHeld (w : Writer) (ctx addr : Nat) (data : List Byte)
  | capFirstTouchCopyDone (ctx addr : Nat) (o : CopyOutcome)
  | capGranuleCopyDone (o : CopyOutcome)
  | scrubRead (lp : Bool) (n : Nat) (m : ReadCheck) (raced : Bool)
  | patrolRead (extent : Nat) (o : FlashRead)
  | relocationDone (extent : Nat)
  | shareWindowEnd
  | buildWorkList (mask : Word)
  | stepStart (ctx : Nat)
  | sampleRow (sampler slot row : Nat)
  | stepCommit (ctx : Nat)
  | stepBoundary (ctx : Nat)
  | consumerPoll (slot : Nat)
  | stepStartMessage (epoch stamp ctx : Nat) (order : StepOrder)
  | stepEnd (pos epoch stamp : Nat) (r : StepEndReport)
  | clipFactor (ctx : Nat) (gSumsq : Table Word)
  | staged (pos epoch ctx step : Nat) (r : StagedReport)
  | replay (epoch ctx micro run : Nat)
  | replayResult (pos epoch ctx micro run : Nat) (faulted : Bool) (fp : Long) (flags : BitVec 7)
  | commit (epoch ctx step : Nat) (base : CommitBody)
  | rollback (epoch ctx step base : Nat)
  | ack (pos epoch ctx step : Nat)
  | generationGuardDecision (ctx : Nat)
  | coreSelfTest (p : CoreLoss)
  | coreSelfTestDone (p : CoreLoss) (pass : Bool)
  | turnMemberReady (pos : Nat)
  | turnShardsPresent
  | shardEnd (packId shard : Nat) (d : ShardReport)
  | hostWaitExpiry (request : Nat)
  | loadEnd (packId : Nat)
  | capturePoint
  | captureEnd (pos : Nat)
  | restoreEnd (pos : Nat)
  | data (link : Nat) (packet : List Byte)
  | signal (link : Nat) (packet : List Byte)
  | control (link : Nat) (packet : List Byte) (kind : ControlKind)
  | done (link : Nat) (packet : List Byte)
  | stale (link : Nat) (packet : List Byte)
  | hello (link : Nat) (packet : List Byte)
  | lack (link : Nat) (packet : List Byte)
  | ready (pos epoch : Nat)
  | active (epoch : Nat)
  | formWaitExpiry
  | heartbeat (pos : Nat)
  | heartbeatLoss (pos : Nat)
  | linkDown (link : Nat) (cause : Nat)
  | modResetNRelease
  | pllLock
  | propolisSelfCheck (pass : Bool)
  | builtInSelfTest (r : BistReport)
  | lpddr5xTraining (fail9600 fail8533 : Option Nat)
  | directoryRead
  | firmwareEntry
  | watchdogExpiry (core : Nat)
  | keeperCoreException (core : Nat)
  | keeperSramUncorrectable (core : Nat)
  | keeperRestart
  | keeperResume
  | pgdWindowEnd (r : PowerReadings)
  | railCurrentClamp (rail amps : Nat)
  | thermalStop (sensor : Nat)
  | railVoltageStop (rail : Nat)
  | emergencyClose
  | vcoreReached (mv : Nat)
  | dvfsRaiseTimeout
  | selfRefreshIdle
  | vauxApplied
  | pwrGoodRise
  | railsInRegulation
  | powerLoss (cause : PowerLossCause)
  | modResetNAssert (lowNs : Nat)
  | refclkLoss
  | mctpControl (request : List Byte)
  | pldmRequest (request : List Byte)
  | mgmtLedgerRead (request : List Byte)
  | occurrence (code : Nat) (value : Long) (unit : Word)
  | summaryWindowEnd
  | operatingSecond
  | operatingMinuteSave
  | wipeComplete
  | deviceLinkTrained (link : Nat)
  | packWriteComplete (packId : Nat)
  | heartbeatSend
  | refclkReturn
  | railClampRelease (rail amps : Nat)
  | pfcPauseFrame (enable : BitVec 8) (quanta : List Nat)
  | arpRequest (target sender : BitVec 32) (senderMac : BitVec 48)
  | neighborSolicitation (target sender : BitVec 128)
  | echoRequest (dest source : BitVec 128) (v6 : Bool) (payload : List Byte)
  | roceAckReceived (qpn psn : Nat) (nak : Bool)
  | rdmaReadResponse (qpn : Nat) (d : ReadData)
  | jtagInstruction (op : JtagOp)
  deriving DecidableEq, Repr

end Sys2Proof
end

