-- ==== Sys2Proof/Decode.lean ====
section
/-! DEFINITION. Decoding of table words. No row of the table of operations and events gives any bits, so no word spells a
command; commands enter by the queue. -/

namespace Sys2Proof

/-- The command a word of `nbits` bits spells by the table's bits: none, as the table gives its rows no bits. -/
def decodeTableWord (_nbits _w : Nat) : Option Instr := none

end Sys2Proof
end

