-- ==== Sys2Proof/Config.lean ====
section
/-! DEFINITION. What one module or one implementation fixes and the manual does not state: free values with no body, and the
functions of published standards whose keys the manual does not give. -/

namespace Sys2Proof.Config

/-- A value the manual leaves open, fresh at each counter value: an R_Key, an index among those free, and the like. -/
opaque freeValue : Nat → Nat

/-- Contents that no rule states: the payload of a published-protocol answer, by request. -/
opaque freeBytes : Nat → List Byte → List Byte

/-- Whether an ML-DSA-65 signature verifies under key `k` of R579 (0 KFW, 1 KTEST, 2 KDBG): FIPS 204 over key bytes that only
the Propolis ROM holds. -/
opaque mldsaVerify (k : Nat) (message signature : List Byte) : Bool

/-- The device secret S, 32 bytes, of the PUF array (R575): no register, command or instruction reads it. -/
opaque deviceSecret : List Byte

/-- The public key, 1,952 bytes, of the ML-DSA-65 key pair generated from a seed (FIPS 204). -/
opaque mldsaPublic (seed : List Byte) : List Byte

/-- The ML-DSA-65 signature of a message by the key pair generated from a seed (FIPS 204). -/
opaque mldsaSign (seed message : List Byte) : List Byte

/-- The JTAG identification code of the FRU data (R620), which the manual does not state. -/
opaque idcode : BitVec 32

/-- The real value of a table function where the working precision of the model's interval evaluation is exhausted (R195): a
result encoding by function, input and format. -/
opaque hardCase : Nat → Nat → Nat → Nat

/-- T_c of the destination of a STORE SCATTER or SCATTER_ADD frame, which Table 4.10 gives no field for. -/
opaque scatterTcols : List Byte → Nat

/-- The lengths of the single writes in which a STORE frame issues a run of bytes, by its first address and length: R500 forms a
term for each write and no rule states how a frame splits its bytes. -/
opaque writeSplit : Nat → Nat → List Nat

/-- How often the write of a Ledger record fails verification (R611), by the number it is first written under. -/
opaque norFailures : Nat → Nat

/-- INV_TEMP of a padding record, which Table 9.6 states for no padding. -/
opaque paddingInvTemp : Word

/-- The manifest of a PACK_ID that the lowest group position whose store holds it gives at a tick (R411); empty where no other store of the
group holds the pack. -/
opaque peerManifest : Nat → Nat → List Byte

/-- A byte of a pack that this module's store does not hold, by PACK_ID and offset in its stream. -/
opaque packByte : Nat → Nat → Byte

/-- Where the scale table of a version lies in the Keeper's region (Tables 10.2 and 10.8), by context, adapter index or 4,096, and tag. -/
opaque scaleTableAt : Nat → Nat → Nat → Nat

/-- Whether the copy of a package's tables, chains or user tables in the Keeper's region lies at a device address, by PACKAGE_ID: no rule
lays that region out. -/
opaque packageHolds : Nat → Nat → Bool

/-- A step parameter that a work-list or micro-batch descriptor gives (Table 7.4): by the descriptor's numbers, the logical core
and the parameter's number. -/
opaque stepParam : List Nat → Nat → Nat → Nat

/-- A comb scalar that a micro-batch descriptor gives beyond the draw Step value: by the descriptor's numbers, the comb and the
scalar's number. -/
opaque stepScalar : List Nat → Nat → Nat → Nat

/-- The offset of an element's master in its bank, or of a frozen master in its area (Table 9.1): by learning package, tensor and element. The
package fixes the layout inside an area and the manual does not state it. -/
opaque masterOffset : Nat → Nat → Nat → Nat

/-- The offset of an element's compensation word in a bank (Table 9.1): by learning package, tensor and element. -/
opaque compensationOffset : Nat → Nat → Nat → Nat

/-- The offset of an element's optimizer state in its bank (Table 9.1): by learning package, tensor and element. -/
opaque stateOffset : Nat → Nat → Nat → Nat

/-- The program-erase cycles that writing a number of extents takes, at a count of cycles already used (R247). -/
opaque eraseCount : Nat → Nat → Nat

/-- Whether a DATA packet carries the last byte of its transfer: a destination answers DONE then (R424), and no header field
marks it. -/
opaque lastPacket : List Byte → Bool

/-- What memory holds after a reset or a loss of power, by count (R629): address and byte pairs. -/
opaque freeMemory : Nat → List (Nat × Byte)

end Sys2Proof.Config
end

