-- ==== Sys2Proof/Machine/State.lean ====
section
/-! DEFINITION. The state of the module as plain data: every register, table, ring, buffer, counter, mode and pin the manual
names, the queue of waiting commands, and the reasons a step can stop. Records follow the blocks of Table 1.1. -/

namespace Sys2Proof.Machine

/-- Why a command stops the block. -/
inductive Fault where
  /-- Raised by MOD_RESET_N_ASSERT for a low level between 1 µs and 10 µs, which R629 forbids and gives no effect. Safe: the
  hardware does something, the model stops. -/
  | undefinedResetPulse
  deriving DecidableEq, Repr

/-- Why a command has no meaning here. -/
inductive Refusal where
  /-- Raised by an arm of `exec` whose row has no meaning yet, with the row's mnemonic. Safe. -/
  | notModelled (mnemonic : String)
  deriving DecidableEq, Repr

/-! ### Cores (chapters 4 and 5) -/

/-- CORE_STATE.STATE (Table 4.14). -/
inductive CoreMode where
  | idle | running | done | aborting | faulted | retired
  deriving DecidableEq, Repr

/-- One element beside its row-segment exponent (R119, R158) and FP4 block exponent (R85); `format` is a code of Table 3.1. -/
structure Elem where
  format : Nat
  bits : Nat
  exponent : Int
  block : Nat
  deriving DecidableEq, Repr

/-- An engine buffer (R119, R175): the format tag of the unit that last wrote it, its rows, and whether any row is a BF16 row
segment of a short format (R150). -/
structure Buf where
  format : Nat
  rows : List (List Elem)
  deriving DecidableEq, Repr

/-- An accumulator (R119, R157 to R159): FP32 encodings, or exact integers while `int` holds; the next expected sub-block
index; whether a segment is complete; whether FIN has run; and the reference exponents of its rows and columns (R158). -/
structure Acc where
  cells : List (List Int)
  int : Bool
  next : Nat
  complete : Bool
  finished : Bool
  refA : List Int
  refB : List Int
  deriving DecidableEq, Repr

/-- A frame in a queue or started: its frame-store slot, its 64 bytes, and the loop indices at its dispatch (R125). -/
structure QFrame where
  slot : Nat
  bytes : List Byte
  idx : List Word
  deriving DecidableEq, Repr

/-- A frame that has started and not completed, with what its completion will record: lane flags (R201), its watch count
(R206), and whether an XFER still waits for its DONE packet (R424). -/
structure Started where
  frame : QFrame
  flags : BitVec 7
  watch : Option WatchSum
  awaits : Option Nat
  deriving DecidableEq, Repr

/-- An open loop level (R127): its level, count, and the slot of its LOOP frame. -/
structure OpenLoop where
  level : Nat
  count : Nat
  slot : Nat
  deriving DecidableEq, Repr

/-- The registers of one user function slot (Table 5.10). -/
structure UserRegs where
  lo : Word
  cfg : Word
  crc : Word
  vinf : Long
  dinf : Long
  deriving DecidableEq, Repr

/-- A physical core with its VEU (chapters 4 and 5). Engine tables are keyed by the engine code of Table 4.1. `stopping` holds
from a fault until the frames that have started are complete (R170). `slotCtx` is the context whose table a frame-store slot holds, no
entry for a Keeper-owned one (R123, R126); `veuCtx` is the context whose chains and user functions stand in the VEU store (R209). -/
structure Core where
  mode : CoreMode
  fillBusy : Bool
  context : Word
  entry : Word
  stepSeq : Word
  waitLimit : Word
  params : Table Long
  tokens : Table (BitVec 16)
  queues : Table (List QFrame)
  started : Table (List Started)
  pc : Nat
  dispatching : Bool
  stopping : Bool
  loops : List OpenLoop
  idx : List Word
  headSince : Table Nat
  fault : Word
  faultAt : Word
  busy : Nat
  fsSrc : Long
  fsDst : Word
  fsLen : Word
  frameStore : Table (List Byte)
  bufs : Table Buf
  accs : Table Acc
  veuFillBusy : Bool
  veuFlags : Word
  veuFlagsStep : Word
  veuFault : Word
  chainValid : Long
  veuFillSrc : Long
  veuFillDst : Word
  veuFillLen : Word
  userRegs : Table UserRegs
  veuStore : Table (List Byte)
  slotCtx : Table Nat
  veuCtx : Option Nat
  scalars : Table Long
  watch : List WatchSum
  deriving DecidableEq, Repr

/-- A core after module reset (Tables 4.14 and 5.10). -/
def Core.reset : Core where
  mode := .idle
  fillBusy := false
  context := 0
  entry := 0
  stepSeq := 0
  waitLimit := 0x00989680
  params := []
  tokens := []
  queues := []
  started := []
  pc := 0
  dispatching := false
  stopping := false
  loops := []
  idx := [0, 0, 0, 0]
  headSince := []
  fault := 0
  faultAt := 0
  busy := 0
  fsSrc := 0
  fsDst := 0
  fsLen := 0
  frameStore := []
  bufs := []
  accs := []
  veuFillBusy := false
  veuFlags := 0
  veuFlagsStep := 0
  veuFault := 0
  chainValid := 0
  veuFillSrc := 0
  veuFillDst := 0
  veuFillLen := 0
  userRegs := []
  veuStore := []
  slotCtx := []
  veuCtx := none
  scalars := []
  watch := []

/-! ### Memory tiers (chapter 6) -/

/-- The MEM_ registers and the Keeper's granule lists (R224, R231, R236 to R238, Table 6.10). `uncorrectable` are the code words with
an uncorrectable error (R228), `soft` those that a scrub read has corrected and written back and nothing has read since (R232).
`scrubAt` is the next word or block of each scrub unit, `scrubFrom` the tick its present pass began at (R233, R235): units 0 to 511 are
the slices by logical position, 512 + 16 s + c is channel c of stack s. -/
structure MemCtl where
  lpSlow : Bool
  bistDone : Bool
  scrubPaused : Bool
  ptBase : Long
  layout : Word
  staging : Nat
  inval : Word
  scrubCfg : Word
  ceCount : Long
  ueCount : Long
  errAddr : Long
  errInfo : Word
  poolFree : Nat
  withdrawn : Nat
  zeroAddr : Long
  zeroCtrl : Word
  uncorrectable : List Nat
  soft : List Nat
  scrubAt : Table Nat
  scrubFrom : Table Nat
  sramWithdrawn : List Nat
  lpRetired : List Nat
  lpPending : List Nat
  sramUsed : List Nat
  lpUsed : List Nat
  hardPending : List Nat
  deriving DecidableEq, Repr

/-- The message that an operation will answer (R475): mailbox, tag, command code and context. -/
structure Ticket where
  mb : Nat
  tag : Long
  command : Nat
  ctx : Nat
  deriving DecidableEq, Repr

/-- A pack in the weight store's directory (R242, R243, R249): its manifest and data bytes, its primary and mirror extents,
and the deletes that wait (R245). -/
structure Pack where
  manifest : List Byte
  mirrorManifest : List Byte
  data : List Byte
  primary : List Nat
  mirror : List Nat
  deleting : List Ticket
  deriving DecidableEq, Repr

/-- A pack write in progress (R242). -/
structure PackWriting where
  packId : Nat
  pack : Pack
  ticket : Ticket
  deriving DecidableEq, Repr

/-- The weight store (R241 to R248, Table 6.11). It survives a loss of power. -/
structure Store where
  ready : Bool
  packs : Table Pack
  writing : List PackWriting
  relocating : List (Nat × Nat)
  errCount : Long
  peUsed : Nat
  peBudget : Nat
  patrolCfg : Word
  reads : Table Nat
  patrolled : Table Nat
  deriving DecidableEq, Repr

/-! ### Generation (chapters 7 and 8) -/

/-- A free Brood Table slot: every field 0 (Table 7.9, BRD_SLOTs). -/
def Slot.reset : Slot where
  seqId := 0
  ctx := 0
  state := .free
  lc := false
  mirror := false
  cancel := false
  vchg := false
  depth := 0
  version := 0
  adapter := 0
  adapterVer := 0
  status := 0
  promptLen := 0
  prefilled := 0
  length := 0
  maxNew := 0
  temp := 0
  topP := 0
  topK := 0
  package := 0
  stops := []
  nstop := 0
  admitTick := 0
  kvList := 0
  supEntry := 0
  ringProd := 0
  ringCons := 0
  mirrorReg := 0
  mirrorOffset := 0
  consOffset := 0
  lastToken := 0
  scoreTarget := none
  prompt := []
  held := []
  heldTag := 0
  list := none
  drawn := 0
  ringOff := false
  rewind := none
  tag := 0
  waits := 0
  lastStamp := 0
  commitStamp := 0
  pollAt := 0
  polling := false

/-- A handle registration waiting for its step boundary (R321). -/
structure HandleWait where
  ticket : Ticket
  seqId : Long
  length : Nat
  deriving DecidableEq, Repr

/-- The KV pool of a context (R298 to R332). Lists are keyed by list number, their entries by index. -/
structure KvPool where
  lists : Table (Table Nat)
  listsUsed : List Nat
  pages : Table Page
  hashes : Table HashEntry
  handles : Table Handle
  serial : Word
  waiting : List HandleWait
  reused : Nat
  deriving DecidableEq, Repr

/-- A sampler's result for a row (R278, R279): no token when the row is non-finite. -/
structure Sample where
  slot : Nat
  row : Nat
  token : Option Nat
  logp : Word
  entropy : Word
  deriving DecidableEq, Repr

/-- One run of a guarded step (R500 to R502): whether a core faulted, its fingerprint and flags, and its physical cores. -/
structure Run where
  faulted : Bool
  fp : Long
  flags : BitVec 7
  cores : List Nat
  deriving DecidableEq, Repr

/-- The phases of a batch step (Table 7.4). -/
inductive StepPhase where
  | built | running | coresDone | decided | committed | failed
  deriving DecidableEq, Repr

/-- A batch step (Table 7.4, R267 to R285, R500 to R508). `items`, `rows` and `tables`, the page numbers of each sequence up to its highest
row position, are its work-list descriptor. `ends` are the members' reports on the present run and `past` those on
earlier runs; `ending` are slots that a memory error ends at phase 5, with their status (R517). -/
structure GenStep where
  ctx : Nat
  mask : Word
  package : Nat
  version : Nat
  stamp : Word
  firstStamp : Word
  lc : Bool
  phase : StepPhase
  items : List WorkItem
  rows : List WorkRow
  tables : List (List Nat)
  samples : List Sample
  runs : List Run
  fp : Long
  flags : BitVec 7
  faultBits : Word
  veuFaultBits : Word
  faultAt : Word
  ends : Table StepEndReport
  past : List (Table StepEndReport)
  ending : List (Nat × Nat)
  pages : List Nat
  adapters : List (Nat × Nat)
  status : Nat
  watches : List WatchSum
  deriving DecidableEq, Repr

/-! ### Versions, adapters, learning, turns and loads (chapters 9 and 10) -/

/-- Table 9.8. -/
inductive LearnState where
  | accepted | running | staged | committed | rolledBack
  deriving DecidableEq, Repr

/-- A segment of a plan (Table 9.4). -/
structure Segment where
  seqId : Long
  length : Nat
  row : Nat
  weight : Word
  temp : Word
  deriving DecidableEq, Repr

/-- A micro-batch of a plan (Table 9.3) with its segments. -/
structure MicroBatch where
  rows : Nat
  segments : List Segment
  deriving DecidableEq, Repr

/-- A learning step's plan (Table 9.2). -/
structure Plan where
  release : Bool
  clip : Bool
  logpOut : Bool
  step : Nat
  version : Nat
  package : Nat
  hypers : List Word
  clipAt : Word
  logpAddr : Nat
  micros : List MicroBatch
  table : List Segment
  deriving DecidableEq, Repr

/-- The guard's record of one guarded micro-batch (R509 to R511): its replay runs in order, how many have been ordered, and
whether it is decided clean. -/
structure GuardedMicro where
  micro : Nat
  runs : List Run
  asked : Nat
  clean : Bool
  deriving DecidableEq, Repr

/-- A learning step on the queen or a member (R368, R438, R441, R509 to R513). Its core steps are numbered from 0: `passes` passes,
then the optimizer pass; `lc` is the class it was submitted at (R31); `pass` is the one that runs or runs next. `slots` is K and `units` the
bases of the stash units mapped (R352); `scales` are the j of the learning-only tensors, fixed at its start (R91, R94); `inputsDue` counts the
input bytes that a member still awaits (R344); `fatal` is the status of a fault that no redo follows. `orders` are the replays
(micro-batch, run) this module still makes, `replayInputs` the inputs their orders bring, and `replaying` the one that runs. A nonzero
`status` ends the step once it is rolled back; `redoing` holds while a redo waits for the tests of R515. `origins` are the micro-batches marked
ORIGIN. -/
structure LearnStep where
  ctx : Nat
  lc : Bool
  ticket : Ticket
  plan : Plan
  state : LearnState
  base : Word
  passes : Nat
  slots : Nat
  units : List Nat
  scales : Table Int
  inputsDue : Nat
  fatal : Nat
  pass : Nat
  running : Bool
  replaying : Option (Nat × Nat)
  orders : List (Nat × Nat)
  replayInputs : Table (List Byte)
  flags : List (BitVec 7)
  fps : List Long
  watches : List (List WatchSum)
  fp : Long
  faulted : Bool
  faultAt : Word
  lastStamp : Word
  clipFactor : Option Word
  staged : Table StagedReport
  guarded : List GuardedMicro
  origins : List Nat
  redo : Bool
  redoing : Bool
  commitSent : Bool
  acks : List Nat
  status : Nat
  deriving DecidableEq, Repr

/-- The three kinds of turn to generation and the turn to learning (R392, R395). -/
inductive TurnKind where
  | learn | full | adapter | restore
  deriving DecidableEq, Repr

/-- A shard's progress in a load or turn (R412 to R414). -/
structure ShardProgress where
  shard : Nat
  position : Nat
  tried : BitVec 6
  corrupt : BitVec 6
  next : Nat
  status : Option Nat
  deriving DecidableEq, Repr

/-- A move entry of a turn map (Table 10.5). -/
structure Move where
  shard : Nat
  tensor : Nat
  elem : Nat
  runs : Nat
  dst : Nat
  deriving DecidableEq, Repr

/-- A turn accepted and not ended (Tables 10.3 and 10.6), with the class it was submitted at (R31). `grans` are the unmapped granules of
its new shards, each with its context address (R386); `reserve` is the shelf room reserved for the version it displaces (R385). -/
structure Turn where
  kind : TurnKind
  ticket : Ticket
  lc : Bool
  package : Nat
  adapter : Nat
  begun : Bool
  started : Nat
  ready : List Nat
  tag : Nat
  shelvedNow : List Nat
  report : Nat
  shards : List ShardProgress
  places : List ShardPlace
  moves : List Move
  scales : List ScaleEntry
  grans : List (Nat × Nat)
  reserve : Option (Nat × Nat)
  deriving DecidableEq, Repr

/-- A load accepted and not ended, or, with `waitsSwitch`, ended DONE and waiting for its switch (R411 to R415). `grans` and
`reserve` are as in `Turn`; `restore` marks the reload of staged shards by a restore (R533). -/
structure Loading where
  ticket : Ticket
  packId : Nat
  package : Nat
  master : Bool
  adapter : Option Nat
  tag : Nat
  shared : Bool
  report : Nat
  started : Nat
  shards : List ShardProgress
  places : List ShardPlace
  scales : List ScaleEntry
  grans : List (Nat × Nat)
  reserve : Option (Nat × Nat)
  waitsSwitch : Bool
  mirrored : Bool
  restore : Bool
  deriving DecidableEq, Repr

/-- A request to host software for a shard (R412 code 3, R490). -/
structure ShardRequest where
  request : Nat
  packId : Nat
  shard : Nat
  asked : Nat
  ended : Bool
  deriving DecidableEq, Repr

/-- The turn engine (Table 10.12): group-wide switch mode, phase, turn, loads and shard requests. `boundaryWaits` are the grants and adapter
releases that wait for their contexts to stop (R221), with their messages. -/
structure TurnCtl where
  continueMode : Bool
  learning : Option (Nat × Nat)
  turn : Option Turn
  loads : List Loading
  requests : List ShardRequest
  nextRequest : Nat
  vtBase : Long
  atBase : Long
  turnCount : Long
  lastTicks : Nat
  shardCount : Long
  retryCount : Long
  hostWait : Word
  fault : Word
  modeWait : Option (Bool × Ticket)
  boundaryWaits : List (Ticket × List Byte)
  deriving DecidableEq, Repr

/-! ### Contexts (chapters 12 and 13) -/

/-- The per-context registers (Tables 7.9, 7.10, 8.11, 13.10), which exist whether or not the context does. -/
structure CtxRegs where
  cfg : Word
  combs : Word
  usage : Nat
  usagePrev : Nat
  supBase : Long
  supBytes : Long
  supHead : Nat
  supTail : Nat
  kvBase : Long
  kvGeom : Word
  kvPages : Word
  kvLists : Word
  kvMeta : Long
  kvPrefix : Word
  guardCfg : Word
  deriving DecidableEq, Repr

/-- Reset values of Tables 7.9, 7.10, 8.11 and 13.10. -/
def CtxRegs.reset : CtxRegs where
  cfg := 1
  combs := 0xFFFFFFFF
  usage := 0
  usagePrev := 0
  supBase := 0
  supBytes := 0
  supHead := 0
  supTail := 0
  kvBase := 0
  kvGeom := 0
  kvPages := 0
  kvLists := 0
  kvMeta := 0
  kvPrefix := 0
  guardCfg := 0

/-- A package in a package slot (R487); `unloading` waits for the context's step boundary. -/
structure Loaded where
  package : Package
  unloading : Option Ticket
  deriving DecidableEq, Repr

/-- A key's scheduling record (R269): package, version, and the context's step count when it last ran. -/
structure KeyRun where
  package : Nat
  version : Nat
  lastRun : Nat
  deriving DecidableEq, Repr

/-- An existing context (R482): key slot (R581), regions, packages, versions, pool, super, learner, and the CTX_RELEASE that waits
for its items to end (R483). -/
structure Ctx where
  key : BitVec 128
  dataBytes : Nat
  granules : List Nat
  shelfBase : Nat
  shelfBytes : Nat
  watchBase : Nat
  watchRecords : Nat
  watchCount : Nat
  normBase : Nat
  normRecords : Nat
  normCount : Nat
  packages : Table Loaded
  versions : List Version
  lastTag : Nat
  pool : KvPool
  supers : List SupEntry
  learner : Option Learner
  keyRuns : List KeyRun
  stepCount : Nat
  releasing : Option Ticket
  deriving DecidableEq, Repr

/-! ### Cascades (chapter 11) -/

/-- DL_STATUS.STATE (Table 11.9). -/
inductive GroupState where
  | none | forming | active | fenced
  deriving DecidableEq, Repr

/-- A device link (R418 to R424, Table 11.9). `waiting` are the packets of its transmit queue with their arrival ticks, in the order of
R29. -/
structure Link where
  up : Bool
  matched : Bool
  peer : Nat
  peerLink : Nat
  cause : Nat
  downs : Nat
  ce : Nat
  retry : Nat
  bytes : Nat
  nextSeq : Nat
  expectSeq : Nat
  unacked : List (List Byte)
  waiting : List (Nat × List Byte)
  replays : Nat
  credits : List Nat
  deriving DecidableEq, Repr

/-- A link after module reset: down, with credit for six empty buffers of 32 KiB in units of 256 bytes (R421). -/
def Link.reset : Link where
  up := false
  matched := false
  peer := 0
  peerLink := 0
  cause := 0
  downs := 0
  ce := 0
  retry := 0
  bytes := 0
  nextSeq := 0
  expectSeq := 0
  unacked := []
  waiting := []
  replays := 0
  credits := [128, 128, 128, 128, 128, 128]

/-- An outbound LINK_COPY transfer (R424): its tag, the core whose XFER frame waits for DONE, and the link. -/
structure Transfer where
  tag : Nat
  core : Nat
  link : Nat
  deriving DecidableEq, Repr

/-- A successor's record of a slot of the queen (R433). -/
structure SuccessorEntry where
  seqId : Long
  ctx : Nat
  state : SlotState
  version : Nat
  deriving DecidableEq, Repr

/-- The device-link block and the group (R425 to R449, Table 11.9). `asked` are the tags of step messages with their contexts (R437),
`down` the links reported down, by position and link, `formTick` the tick of the formation, then of ACTIVE, and `successorItems` the
learning steps, turns and loads of R433, by context, record kind and ITEM. -/
structure Cascade where
  enable : Bool
  state : GroupState
  group : Long
  epoch : Word
  current : Word
  next : Word
  hbCfg : Word
  formWait : Word
  fault : Word
  links : Table Link
  readyFrom : List Nat
  formTicket : Option Ticket
  formTick : Nat
  beats : Table Nat
  lost : List Nat
  held : List (Nat × List Byte)
  successorSet : List SuccessorEntry
  successorItems : List (Nat × Nat × Nat)
  transfers : List Transfer
  asked : List (Nat × Nat)
  nextTag : Nat
  down : List (Nat × Nat)
  deriving DecidableEq, Repr

/-! ### Ethernet and mailboxes (chapter 12) -/

/-- What the Keeper will do with the response to an RDMA READ it has posted (R453, R478, R480, R289, R490, R535); `abandoned` once
the message or restore that asked for it has ended. -/
inductive ReadPurpose where
  | consumer (slot : Nat)
  | prompt (slotMb : Nat)
  | window (mb : Nat)
  | firmware (mb : Nat)
  | image
  | abandoned
  deriving DecidableEq, Repr

/-- A message whose handling waits for a read (R465, R478, R480): the mailbox's message, still at its ring head. -/
structure Reading where
  mb : Nat
  message : List Byte
  deriving DecidableEq, Repr

/-- An outbound RoCEv2 operation (R453). -/
inductive OutOp where
  | write (addr rkey : Nat) (data : List Byte)
  | read (addr rkey len : Nat) (why : ReadPurpose)
  deriving DecidableEq, Repr

/-- An outbound operation not yet acknowledged, with its PSN (R453). -/
structure Unacked where
  psn : Nat
  op : OutOp
  sentAt : Nat
  deriving DecidableEq, Repr

/-- A RoCEv2 connection (R453 to R455, QP_CREATE of Table 12.12). `mtu` is in bytes, `rate` is the send rate in 1/65,536 of line
rate, and `queued` are operations behind the limit of 16 outstanding reads (Table 12.2). -/
structure Qp where
  mb : Nat
  mtu : Nat
  ackT : Nat
  retry : Nat
  peerQpn : Nat
  peerPsn : Nat
  psn : Nat
  peerIp : BitVec 128
  peerMac : BitVec 48
  vlan : BitVec 16
  dscp : Nat
  rkey : Nat
  error : Bool
  unacked : List Unacked
  tries : Nat
  rate : Nat
  lastCnp : Option Nat
  calm : Nat
  queued : List OutOp
  deriving DecidableEq, Repr

/-- A registration of remote memory (R485, MEM_REGISTER of Table 12.12). -/
structure Registration where
  qpn : Nat
  canWrite : Bool
  canRead : Bool
  addr : Nat
  rkey : Nat
  length : Nat
  deriving DecidableEq, Repr

/-- A completion record before it is numbered (Table 12.8). -/
structure Completion where
  tag : Long
  item : Long
  value0 : Long
  value1 : Long
  status : Nat
  kind : Nat
  origin : Bool
  final : Bool
  command : Nat
  ctx : Nat
  stamp : Word
  fault : Word
  tick : Nat
  deriving DecidableEq, Repr

/-- A mailbox's binding to a connection (R466, MBOX_BIND of Table 12.12). -/
structure Binding where
  qpn : Nat
  cqAddr : Nat
  cqRkey : Nat
  entries : Nat
  sqcAddr : Nat
  sqcRkey : Nat
  deriving DecidableEq, Repr

/-- A mailbox (R461 to R471). Counts are modulo 2³². `arrivals` are the counts of slots announced and not consumed, each with the tick it
was announced at (R29). `records` are the completions numbered from `written` back that a UDP
owner has not acknowledged; `pend` are the completions not yet written. `busy` holds while a message waits for a read, `closing`
while the mailbox of a released context still has records to write (R483). -/
structure Mailbox where
  ring : Table (List Byte)
  prod : Word
  cons : Word
  arrivals : List (Word × Nat)
  cqCons : Word
  written : Word
  records : List (List Byte)
  pend : List Completion
  binding : Option Binding
  udp : Option UdpSource
  stopped : Bool
  lost : Nat
  busy : Bool
  closing : Bool
  deriving DecidableEq, Repr

/-- A mailbox after module reset. -/
def Mailbox.reset : Mailbox where
  ring := []
  prod := 0
  cons := 0
  arrivals := []
  cqCons := 0
  written := 0
  records := []
  pend := []
  binding := none
  udp := none
  stopped := false
  lost := 0
  busy := false
  closing := false

/-- An address slot of the port (NET_CONFIG of Table 12.12). -/
structure NetSlot where
  len : Nat
  vlan : BitVec 16
  addr : BitVec 128
  deriving DecidableEq, Repr

/-- A frame the port has sent, in sending order: the model's view of its transmit side. -/
inductive EthFrame where
  | roce (qpn psn : Nat) (op : OutOp)
  | readResponse (qpn : Nat) (data : List Byte)
  | roceAck (qpn : Nat)
  | remoteAccessNak (qpn : Nat)
  | cnp (qpn : Nat)
  | udp (dst : UdpSource) (datagram : List Byte)
  | arpReply (addr dst : BitVec 32) (dstMac : BitVec 48)
  | neighborAdvert (addr dst : BitVec 128)
  | echoReply (source dst : BitVec 128) (v6 : Bool) (payload : List Byte)
  deriving DecidableEq, Repr

/-- A frame that waits in the Ethernet transmit queue, with its class, its arrival tick, and the third key of Table 1.7: 0 for admin and
debug traffic and frames of no connection, a context's number plus 1. -/
structure WaitingFrame where
  lc : Bool
  tick : Nat
  owner : Nat
  frame : EthFrame
  deriving DecidableEq, Repr

/-- The Ethernet port (R451 to R459, Table 12.17). `waiting` are the frames that a pause holds, in the order of R29, and `trainAt` is the
tick at which the present training began (R452). -/
structure Port where
  ctrl : Word
  up : Bool
  slow : Bool
  lanes : BitVec 8
  training : Bool
  trainAt : Nat
  mac : BitVec 48
  udpPort : Word
  pfc : Word
  cc : Word
  linkWait : Word
  fault : Word
  fec : Long
  drop : Long
  nets : Table NetSlot
  paused : BitVec 8
  qps : Table Qp
  waiting : List WaitingFrame
  sent : List EthFrame
  deriving DecidableEq, Repr

/-! ### Guard and capping (chapter 13) -/

/-- CAP_STATUS.STATE (Table 13.10). -/
inductive CapState where
  | idle | capturing | restoring
  deriving DecidableEq, Repr

/-- A capture or restore in progress (R523 to R536): its target, the peer's position, and the window. `entries` is the image's granule
list, `left` the context addresses of granules still protected, `metaBytes` the metadata section's length, `headers` the positions whose
part is done, `mapped` the granules that a restore has mapped here and `restored` the SEQ_IDs of the slots it has put here (R533). -/
structure Capping where
  state : CapState
  ctx : Nat
  ticket : Ticket
  toPeer : Bool
  peer : Nat
  reg : Nat
  offset : Nat
  length : Nat
  begun : Bool
  left : List Nat
  entries : List CapEntry
  metaBytes : Nat
  stamp : Word
  lastStep : Nat
  headers : List Nat
  mapped : List Nat
  restored : List Long
  deriving DecidableEq, Repr

/-- A write from outside that waits for a capping copy (R526), with the packet or connection it came on. -/
structure HeldWrite where
  ctx : Nat
  addr : Nat
  data : List Byte
  packet : Option (List Byte)
  qpn : Option Nat
  deriving DecidableEq, Repr

/-- The guard and capping blocks (Table 13.10). `cfgLost` holds from CFG_LOST to module reset (R496);
`heldImages` is the peer image held here, in the granules `heldGrans` (R528). -/
structure Guard where
  fp : Long
  runs : Long
  decided : Long
  cfgFixes : Nat
  cfgLost : Bool
  fault : Word
  suspects : List Nat
  suspicions : Table Nat
  testing : List Nat
  degraded : Bool
  run : Nat
  cap : Option Capping
  touch : Nat
  heldImages : Table CapImage
  heldGrans : List Nat
  heldWrites : List HeldWrite
  capFault : Word
  deriving DecidableEq, Repr

/-! ### Keeper, power, clocks (chapter 14) -/

/-- KPR_STATUS.MODE (Table 14.9), with the start steps of Table 14.1 that precede service. -/
inductive KeeperMode where
  | bootRom | running | restarting | halted
  deriving DecidableEq, Repr

/-- A firmware image in a slot (R542, R544, Table 14.3): the fields of its header that the Keeper reads later, its measurement, whether
KTEST verified it, and its length. Its bytes lie in the slot. -/
structure Image where
  version : Long
  secVersion : Word
  interface : Nat
  points : Nat
  measurement : BitVec 512
  testKey : Bool
  length : Nat
  deriving DecidableEq, Repr

/-- The Keeper complex (R539 to R558, Table 14.9). `startStep` is the last step of Table 14.1 that has ended; during a restart it is 6
until the image has been verified, then 7. `wdogArmed` is the first tick of the present watchdog window and `kicks` its kicks. `journal`
holds the commits in progress, by context and step (R549). `loadTicket` is the FW_LOAD in progress (R544), and `loadWaits` holds while
it waits for step 5. -/
structure Keeper where
  mode : KeeperMode
  startStep : Nat
  startFail : Nat
  failUnit : Nat
  active : Option Image
  pendingImage : Option Image
  deferred : List Ticket
  activating : List Ticket
  loadTicket : Option Ticket
  loadWaits : Bool
  coresRun : BitVec 4
  fwBase : Long
  wdogCfg : Word
  wdogArmed : Option Nat
  kicks : BitVec 4
  restarts : Nat
  restartTicks : List Nat
  cause : Word
  logBase : Long
  logCount : Nat
  logLost : Nat
  logStaging : List (List Byte)
  lostSince : Nat
  fault : Word
  trace : Table Long
  journal : List (Nat × Nat)
  keptDoorbells : List (Nat × List Byte)
  powerState : Nat
  selfRefresh : Bool
  lastP2Access : Nat
  deriving DecidableEq, Repr

/-- Power Guard and the clocks (R562 to R570, Table 14.10). `target` is the code of a raise in progress, begun at `raiseAt`; after an
abandoned raise `raiseHeld` holds until the next window ends (R569). `clamped` are the rails above their clamp. -/
structure Power where
  ceiling : Nat
  clamped : List Nat
  emergency : Bool
  causeCode : Nat
  zeroTick : Nat
  temp : Word
  watts : Word
  railMv : List Nat
  railAmps : List Nat
  rises : Nat
  clamps : Nat
  stopped : Option Nat
  request : Nat
  hostCeil : Nat
  divider : Nat
  target : Option Nat
  raiseAt : Nat
  raiseHeld : Bool
  dvfsCount : Nat
  rootLock : Bool
  serdesLock : Bool
  lpLock : Bool
  timebase : Long
  deriving DecidableEq, Repr

/-! ### Propolis, Ledger, pins (chapters 15 to 17) -/

/-- Propolis (R573 to R598, Table 15.12). The protected area (`lifecycle`, `floor`, `helper`, `certificate`) survives a loss
of power. -/
structure Propolis where
  lifecycle : Nat
  level : Nat
  selfOk : Bool
  testKey : Bool
  wiping : Option Ticket
  wipeTo : Option Nat
  lock : BitVec 3
  partitioned : Bool
  floor : Word
  starts : Nat
  measure : BitVec 512
  sigFail : Nat
  tokens : Nat
  fault : Word
  enrolled : Bool
  certificate : List Byte
  deriving DecidableEq, Repr

/-- An open summary of one code (R604). -/
structure Summary where
  code : Nat
  count : Nat
  suppressed : Nat
  first : Nat
  last : Nat
  pcFirst : Nat
  pcLast : Nat
  min : Nat
  max : Nat
  maxUnit : Word
  hist : List Nat
  deriving DecidableEq, Repr

/-- The Ledger (R599 to R615). Everything but READY, DROPPED and FAULT survives a loss of main power. `auxDown` holds from a loss of
auxiliary power to the next power-up (R608). -/
structure Ledger where
  ready : Bool
  carried : Bool
  auxLost : Bool
  auxDown : Bool
  powerCycles : Nat
  seconds : Nat
  summaries : Table Summary
  flushed : Table Nat
  windowStart : Nat
  partialWindow : Bool
  written : Nat
  records : Table (List Byte)
  dropped : Nat
  droppedWindow : Nat
  intake : List (Nat × Nat × Nat)
  fault : Word
  sramRows : List (Nat × Nat × Nat)
  retiredCores : List (Nat × Nat)
  lpGranules : List (Nat × Bool)
  savedCycles : Nat
  savedSeconds : Nat
  savedSummaries : Table Summary
  savedFlushed : Table Nat
  deriving DecidableEq, Repr

/-- The sideband pins and supplies (R618 to R630). Open-drain outputs are true when asserted (low). -/
structure Pins where
  vaux : Bool
  pwrGood : Bool
  rails : Bool
  modReset : Bool
  refclk : Bool
  refclkHold : Bool
  present : Bool
  alert : Bool
  thermtrip : Bool
  transmit : Bool
  mgmtSel : BitVec 2
  jtag : JtagOp
  jtagOut : Option Long
  mgmtSent : List (List Byte)
  deriving DecidableEq, Repr

/-- The state of the module. `brdStamp` is the last step stamp that the queen has assigned (R438), `brdStarted` that of the last step started
(BRD_STEP_STAMP). -/
structure State where
  pending : List Instr
  free : Nat
  mem : List Host.Cell
  spillOf : Table Nat
  memCtl : MemCtl
  store : Store
  coreMap : Table Nat
  cores : Table Core
  combScalars : Table Long
  brdCtrl : Word
  brdStamp : Word
  brdStarted : Word
  brdFault : Word
  shareWindow : Nat
  cowCount : Nat
  evictCount : Nat
  necPoll : Word
  necRingBase : Long
  slots : Table Slot
  steps : List GenStep
  learnSteps : List LearnStep
  ctxRegs : Table CtxRegs
  ctxs : Table Ctx
  adapters : Table Adapter
  turns : TurnCtl
  cascade : Cascade
  dlSent : List (Nat × List Byte)
  port : Port
  regs : Table (Table Registration)
  mailboxes : Table Mailbox
  readings : List Reading
  guard : Guard
  keeper : Keeper
  power : Power
  propolis : Propolis
  ledger : Ledger
  pins : Pins
  deriving DecidableEq, Repr

/-- MEM_ at module reset (Table 6.10); the granule lists are empty when the Ledger lists none. -/
def MemCtl.reset : MemCtl where
  lpSlow := false
  bistDone := false
  scrubPaused := false
  ptBase := 0
  layout := 0x4000
  staging := 0x4000
  inval := 0
  scrubCfg := 0x01E0003C
  ceCount := 0
  ueCount := 0
  errAddr := 0
  errInfo := 0
  poolFree := 2621
  withdrawn := 0
  zeroAddr := 0
  zeroCtrl := 0
  uncorrectable := []
  soft := []
  scrubAt := []
  scrubFrom := []
  sramWithdrawn := []
  lpRetired := []
  lpPending := []
  sramUsed := []
  lpUsed := []
  hardPending := []

/-- WST_ at module reset (Table 6.11) over an empty store. -/
def Store.reset : Store where
  ready := false
  packs := []
  writing := []
  relocating := []
  errCount := 0
  peUsed := 0
  peBudget := 3000
  patrolCfg := 0xA8
  reads := []
  patrolled := []

/-- TRN_ at module reset (Table 10.12). -/
def TurnCtl.reset : TurnCtl where
  continueMode := false
  learning := none
  turn := none
  loads := []
  requests := []
  nextRequest := 0
  vtBase := 0
  atBase := 0
  turnCount := 0
  lastTicks := 0
  shardCount := 0
  retryCount := 0
  hostWait := 0x05F5E100
  fault := 0
  modeWait := none
  boundaryWaits := []

/-- DL_ at module reset (Table 11.9). -/
def Cascade.reset : Cascade where
  enable := false
  state := .none
  group := 0
  epoch := 0
  current := 0
  next := 0
  hbCfg := 0x000A03E8
  formWait := 0x05F5E100
  fault := 0
  links := []
  readyFrom := []
  formTicket := none
  formTick := 0
  beats := []
  lost := []
  held := []
  successorSet := []
  successorItems := []
  transfers := []
  asked := []
  nextTag := 0
  down := []

/-- ETH_ at module reset (Table 12.17). -/
def Port.reset : Port where
  ctrl := 1
  up := false
  slow := false
  lanes := 0
  training := false
  trainAt := 0
  mac := 0
  udpPort := 0x7C38
  pfc := 0x6308
  cc := 0x00063232
  linkWait := 0x05F5E100
  fault := 0
  fec := 0
  drop := 0
  nets := []
  paused := 0
  qps := []
  waiting := []
  sent := []

/-- GRD_ and CAP_ at module reset (Table 13.10). -/
def Guard.reset : Guard where
  fp := 0
  runs := 0
  decided := 0
  cfgFixes := 0
  cfgLost := false
  fault := 0
  suspects := []
  suspicions := []
  testing := []
  degraded := false
  run := 0
  cap := none
  touch := 0
  heldImages := []
  heldGrans := []
  heldWrites := []
  capFault := 0

/-- KPR_ at module reset (Table 14.9): boot-ROM mode, no start step ended, P0. -/
def Keeper.reset : Keeper where
  mode := .bootRom
  startStep := 0
  startFail := 0
  failUnit := 0
  active := none
  pendingImage := none
  deferred := []
  activating := []
  loadTicket := none
  loadWaits := false
  coresRun := 0
  fwBase := 0
  wdogCfg := 0x00989680
  wdogArmed := none
  kicks := 0
  restarts := 0
  restartTicks := []
  cause := 0
  logBase := 0
  logCount := 0
  logLost := 0
  logStaging := []
  lostSince := 0
  fault := 0
  trace := []
  journal := []
  keptDoorbells := []
  powerState := 0
  selfRefresh := false
  lastP2Access := 0

/-- PGD_ and CLK_ at module reset (Table 14.10). -/
def Power.reset : Power where
  ceiling := 0
  clamped := []
  emergency := false
  causeCode := 0
  zeroTick := 0
  temp := 0
  watts := 0
  railMv := [0, 0, 0, 0, 0, 0]
  railAmps := [0, 0, 0, 0, 0, 0]
  rises := 0
  clamps := 0
  stopped := none
  request := 0
  hostCeil := 0
  divider := 0
  target := none
  raiseAt := 0
  raiseHeld := false
  dvfsCount := 0
  rootLock := false
  serdesLock := false
  lpLock := false
  timebase := 0

/-- PRP_ at module reset (Table 15.12) over a protected area as at manufacture: BLANK, floor 0 (R580). -/
def Propolis.reset : Propolis where
  lifecycle := 0
  level := 0
  selfOk := false
  testKey := false
  wiping := none
  wipeTo := none
  lock := 0
  partitioned := false
  floor := 0
  starts := 0
  measure := 0
  sigFail := 0
  tokens := 0
  fault := 0
  enrolled := false
  certificate := []

/-- The Ledger at manufacture (R599 to R611). -/
def Ledger.reset : Ledger where
  ready := false
  carried := false
  auxLost := false
  auxDown := false
  powerCycles := 0
  seconds := 0
  summaries := []
  flushed := []
  windowStart := 0
  partialWindow := false
  written := 0
  records := []
  dropped := 0
  droppedWindow := 0
  intake := []
  fault := 0
  sramRows := []
  retiredCores := []
  lpGranules := []
  savedCycles := 0
  savedSeconds := 0
  savedSummaries := []
  savedFlushed := []

/-- The pins with the module powered and MOD_RESET_N low (the column "Main on, MOD_RESET_N low" of Table 17.3). -/
def Pins.reset : Pins where
  vaux := true
  pwrGood := true
  rails := true
  modReset := true
  refclk := true
  refclkHold := false
  present := false
  alert := false
  thermtrip := false
  transmit := false
  mgmtSel := 3
  jtag := .idcode
  jtagOut := none
  mgmtSent := []

/-- The module in reset: powered, every register at its reset value, nothing listed in memory, an empty queue. -/
def State.reset : State where
  pending := []
  free := 0
  mem := []
  spillOf := []
  memCtl := .reset
  store := .reset
  coreMap := []
  cores := []
  combScalars := []
  brdCtrl := 0
  brdStamp := 0
  brdStarted := 0
  brdFault := 0
  shareWindow := 0
  cowCount := 0
  evictCount := 0
  necPoll := 0x3E8
  necRingBase := 0
  slots := []
  steps := []
  learnSteps := []
  ctxRegs := []
  ctxs := []
  adapters := []
  turns := .reset
  cascade := .reset
  dlSent := []
  port := .reset
  regs := []
  mailboxes := []
  readings := []
  guard := .reset
  keeper := .reset
  power := .reset
  propolis := .reset
  ledger := .reset
  pins := .reset

end Sys2Proof.Machine
end

