-- ==== Sys2Proof/Machine/Ops.lean ====
section
/-! DEFINITION. Named operations over the plain data: tables, little-endian byte fields (R6), CRC-32C (R460), memory bytes, the
free-value counter, and the registers' shared reads and updates. -/

namespace Sys2Proof.Machine

/-! ### Tables -/

/-- The entry at key `k`, if present. -/
def tget {α : Type} : Table α → Nat → Option α
  | [], _ => none
  | (j, v) :: rest, k => if j = k then some v else tget rest k

/-- The entry at key `k`, or the table's default. -/
def tgetD {α : Type} (t : Table α) (k : Nat) (d : α) : α := (tget t k).getD d

/-- Set key `k` to `v`, keeping keys strictly rising. -/
def tset {α : Type} : Table α → Nat → α → Table α
  | [], k, v => [(k, v)]
  | (j, w) :: rest, k, v =>
    if k < j then (k, v) :: (j, w) :: rest
    else if k = j then (k, v) :: rest
    else (j, w) :: tset rest k v

/-- Remove key `k`. -/
def terase {α : Type} : Table α → Nat → Table α
  | [], _ => []
  | (j, w) :: rest, k => if j = k then rest else (j, w) :: terase rest k

/-- Keys strictly rising. -/
def twf {α : Type} : Table α → Bool
  | [] => true
  | [_] => true
  | (j, _) :: (k, w) :: rest => decide (j < k) && twf ((k, w) :: rest)

/-- The lowest number below `n` that is not among `used`. -/
def lowestFree (n : Nat) (used : List Nat) : Option Nat := (List.range n).find? fun k => !used.contains k

/-- Replace element `i` of a list. -/
def lset {α : Type} (l : List α) (i : Nat) (v : α) : List α := l.set i v

/-- Queue a request behind every one that it does not come before (R29, R30). -/
def enqueue {α : Type} (before : α → α → Bool) : List α → α → List α
  | [], x => [x]
  | y :: rest, x => if before x y then x :: y :: rest else y :: enqueue before rest x

/-- The order of R29 on class, arrival and third key: latency-critical first, then the older, then the lower index. -/
def grantsBefore (x y : Bool × Nat × Nat) : Bool :=
  if x.1 != y.1 then x.1 else if x.2.1 != y.2.1 then decide (x.2.1 < y.2.1) else decide (x.2.2 < y.2.2)

/-- Insert a number into a rising list without repeats. -/
def ninsert : List Nat → Nat → List Nat
  | [], k => [k]
  | j :: rest, k => if k < j then k :: j :: rest else if k = j then j :: rest else j :: ninsert rest k

/-! ### Bytes (R6) -/

/-- The number that little-endian bytes spell. -/
def leNat : List Byte → Nat
  | [] => 0
  | b :: rest => b.toNat + 256 * leNat rest

/-- The `n` little-endian bytes of a number. -/
def leBytes : Nat → Nat → List Byte
  | 0, _ => []
  | n + 1, v => BitVec.ofNat 8 v :: leBytes n (v / 256)

/-- `n` bytes from offset `o`, zeros past the end. -/
def slice (b : List Byte) (o n : Nat) : List Byte :=
  let part := (b.drop o).take n
  part ++ List.replicate (n - part.length) 0

/-- The unsigned field of `n` bytes at offset `o`. -/
def field (b : List Byte) (o n : Nat) : Nat := leNat (slice b o n)

/-- `n` zero bytes. -/
def zeros (n : Nat) : List Byte := List.replicate n 0

/-- Bits [hi:lo] of a number (R5). -/
def bits (v hi lo : Nat) : Nat := v / 2 ^ lo % 2 ^ (hi + 1 - lo)

/-- Bit `i` of a number. -/
def bitAt (v i : Nat) : Bool := v / 2 ^ i % 2 = 1

/-- A truth value as a number. -/
def b2n (b : Bool) : Nat := if b then 1 else 0

/-- A two's-complement field of `w` bits as an integer. -/
def signed (w v : Nat) : Int := if v % 2 ^ w < 2 ^ (w - 1) then (v % 2 ^ w : Nat) else ((v % 2 ^ w : Nat) : Int) - (2 ^ w : Nat)

/-- An integer as a two's-complement field of `w` bits. -/
def unsigned (w : Nat) (v : Int) : Nat := (v % (2 ^ w : Nat)).toNat

/-! ### CRC-32C (R460) -/

/-- One bit of the reflected division by polynomial 0x1EDC_6F41. -/
def crcBit (c : Nat) : Nat := if c % 2 = 1 then (c / 2) ^^^ 0x82F63B78 else c / 2

/-- One byte. -/
def crcByte (c : Nat) (b : Byte) : Nat :=
  crcBit (crcBit (crcBit (crcBit (crcBit (crcBit (crcBit (crcBit (c ^^^ b.toNat))))))))

/-- CRC-32C with initial value and final XOR of all ones. -/
def crc32c (bs : List Byte) : Nat := bs.foldl crcByte 0xFFFFFFFF ^^^ 0xFFFFFFFF

/-- The bytes with the four at offset `o` taken as 0. -/
def zeroField (bs : List Byte) (o : Nat) : List Byte := bs.take o ++ zeros 4 ++ bs.drop (o + 4)

/-- Whether the CRC field at offset `o` covers the bytes (the field itself taken as 0). -/
def crcOkAt (bs : List Byte) (o : Nat) : Bool := field bs o 4 == crc32c (zeroField bs o)

/-- Append the CRC of the bytes. -/
def withCrc (bs : List Byte) : List Byte := bs ++ leBytes 4 (crc32c bs)

/-! ### Memory bytes -/

/-- Set one byte of sparse memory; a zero byte is not listed. -/
def memSet (m : List Host.Cell) (a : Nat) (b : Byte) : List Host.Cell :=
  if b = 0 then terase m a else tset m a b

/-- One byte of memory; an unlisted address reads 0 (assumption 2). -/
def memGet (m : List Host.Cell) (a : Nat) : Byte := tgetD m a 0

/-- The canonical form of memory: rising addresses, no zero byte listed. -/
def memWf (m : List Host.Cell) : Bool := twf m && m.all fun c => c.2 != 0

/-- `n` bytes from `a`. -/
def memRead (m : List Host.Cell) (a : Nat) : Nat → List Byte
  | 0 => []
  | n + 1 => memGet m a :: memRead m (a + 1) n

/-- Write bytes from `a` on. -/
def memWrite (m : List Host.Cell) (a : Nat) : List Byte → List Host.Cell
  | [] => m
  | b :: rest => memWrite (memSet m a b) (a + 1) rest

/-- Remove every byte from `lo` to `hi - 1`: the range reads 0 (R223). -/
def memZeroRange (m : List Host.Cell) (lo hi : Nat) : List Host.Cell :=
  m.filter fun c => decide (c.1 < lo) || decide (hi ≤ c.1)

/-- The bytes at device address `a`. -/
def State.read (s : State) (a n : Nat) : List Byte := memRead s.mem a n

/-- Write bytes at device address `a`. -/
def State.write (s : State) (a : Nat) (b : List Byte) : State := { s with mem := memWrite s.mem a b }

/-! ### Device address map (Table 1.3) -/

/-- Base of the LPDDR5X range. -/
def lpBase : Nat := 0x8000000000

/-- One past the LPDDR5X range. -/
def lpEnd : Nat := 0x10000000000

/-- One past the SRAM range. -/
def sramEnd : Nat := 0x400000000

/-- Base of register space. -/
def regBase : Nat := 0x800000000

/-- One past register space. -/
def regEnd : Nat := 0x900000000

/-- Whether an address lies in SRAM or LPDDR5X. -/
def isMemory (a : Nat) : Bool := decide (a < sramEnd) || (decide (lpBase ≤ a) && decide (a < lpEnd))

/-! ### Time and free values -/

/-- CLK_TIMEBASE as a number of ticks. -/
def State.now (s : State) : Nat := s.power.timebase.toNat

/-- A free value, and the state with the counter advanced. -/
def State.fresh (s : State) : Nat × State := (Config.freeValue s.free, { s with free := s.free + 1 })

/-- A free choice among the numbers below `n` from `lo` on that are not among `used`. -/
def State.choose (s : State) (lo n : Nat) (used : List Nat) : Option Nat × State :=
  let open' := ((List.range n).drop lo).filter fun k => !used.contains k
  if open'.length = 0 then (none, s)
  else (open'[(Config.freeValue s.free) % open'.length]?, { s with free := s.free + 1 })

/-- The first number from `k` on, modulo `n`, that is not among `used`; `k` itself after `fuel` numbers. -/
def skipUsed (n : Nat) (used : List Nat) : Nat → Nat → Nat
  | k, 0 => k
  | k, fuel + 1 => if used.contains k then skipUsed n used ((k + 1) % n) fuel else k

/-- A free number below `n` that is not among `used`, from a number space larger than `used`. -/
def State.pickNumber (s : State) (n : Nat) (used : List Nat) : Nat × State :=
  (skipUsed n used (Config.freeValue s.free % n) used.length, { s with free := s.free + 1 })

/-! ### Units (Table 1.2) -/

/-- The physical core that serves logical position `j` of comb `k`, spares and retirements applied (R15, R163). -/
def State.positionCore (s : State) (c : Nat) : Nat := tgetD s.coreMap c (17 * (c / 16) + c % 16)

/-- Whether a physical core is retired. -/
def State.isRetired (s : State) (p : Nat) : Bool := s.ledger.retiredCores.any fun e => e.1 == p

/-- The working positions in increasing comb and position (R519). -/
def State.workingPositions (s : State) : List Nat := (List.range 512).filter fun c => !s.isRetired (s.positionCore c)

/-- The logical core count L (R519): 512 outside DEGRADED. -/
def State.coreCount (s : State) : Nat := if s.guard.degraded then s.workingPositions.length else 512

/-- The physical core of logical core `c` (R16; renumbered in DEGRADED by R519). -/
def State.logicalCore (s : State) (c : Nat) : Nat :=
  if s.guard.degraded then s.positionCore ((s.workingPositions[c]?).getD c) else s.positionCore c

/-- The logical core a physical core serves, if any. -/
def State.logicalOf (s : State) (p : Nat) : Option Nat :=
  (List.range s.coreCount).find? fun c => s.logicalCore c == p

/-- The comb of a physical core. -/
def combOf (p : Nat) : Nat := p / 17

/-- A physical core's state. -/
def State.core (s : State) (p : Nat) : Core := tgetD s.cores p .reset

/-- Update a physical core. -/
def State.setCore (s : State) (p : Nat) (c : Core) : State := { s with cores := tset s.cores p c }

/-- The physical core a window names. -/
def State.windowCore (s : State) : CoreWin → Nat
  | .logical c => s.logicalCore c
  | .physical p => p

/-! ### Contexts, slots, mailboxes -/

/-- The registers of context `n`. -/
def State.creg (s : State) (n : Nat) : CtxRegs := tgetD s.ctxRegs n .reset

/-- Update the registers of context `n`. -/
def State.setCreg (s : State) (n : Nat) (r : CtxRegs) : State := { s with ctxRegs := tset s.ctxRegs n r }

/-- Context `n`, if it exists. -/
def State.ctx (s : State) (n : Nat) : Option Ctx := tget s.ctxs n

/-- Update context `n`. -/
def State.setCtx (s : State) (n : Nat) (c : Ctx) : State := { s with ctxs := tset s.ctxs n c }

/-- Brood Table slot `n`. -/
def State.slot (s : State) (n : Nat) : Slot := tgetD s.slots n .reset

/-- Update Brood Table slot `n`. -/
def State.setSlot (s : State) (n : Nat) (e : Slot) : State := { s with slots := tset s.slots n e }

/-- Mailbox `mb`. -/
def State.mailbox (s : State) (mb : Nat) : Mailbox := tgetD s.mailboxes mb .reset

/-- Update mailbox `mb`. -/
def State.setMailbox (s : State) (mb : Nat) (b : Mailbox) : State := { s with mailboxes := tset s.mailboxes mb b }

/-- Connection `q`, if it exists. -/
def State.qp (s : State) (q : Nat) : Option Qp := tget s.port.qps q

/-- Update connection `q`. -/
def State.setQp (s : State) (q : Nat) (v : Qp) : State := { s with port := { s.port with qps := tset s.port.qps q v } }

/-- Device link `k`. -/
def State.link (s : State) (k : Nat) : Link := tgetD s.cascade.links k .reset

/-- Update device link `k`. -/
def State.setLink (s : State) (k : Nat) (l : Link) : State :=
  { s with cascade := { s.cascade with links := tset s.cascade.links k l } }

/-- The group's size G (DL_GROUP.SIZE + 1; 1 with no group). -/
def State.groupSize (s : State) : Nat :=
  if s.cascade.state = .none then 1 else bits s.cascade.group.toNat 55 50 + 1

/-- This module's group position. -/
def State.position (s : State) : Nat := if s.cascade.state = .none then 0 else bits s.cascade.group.toNat 37 32

/-- The queen's position. -/
def State.queenPos (s : State) : Nat := if s.cascade.state = .none then 0 else bits s.cascade.group.toNat 43 38

/-- The successor's position. -/
def State.successorPos (s : State) : Nat := bits s.cascade.group.toNat 49 44

/-- Whether this module is its group's queen; a module alone is its own queen (text before R27). -/
def State.isQueen (s : State) : Bool := s.position == s.queenPos

/-- A count that holds at 0xFFFF_FFFF. -/
def hold32 (n : Nat) : Nat := min n 0xFFFFFFFF

/-- Add to the low 32-bit half of a pair of holding counters. -/
def addLow (v : Long) (n : Nat) : Long :=
  BitVec.ofNat 64 (hold32 (v.toNat % 2 ^ 32 + n) + 2 ^ 32 * (v.toNat / 2 ^ 32))

/-- Add to the high 32-bit half of a pair of holding counters. -/
def addHigh (v : Long) (n : Nat) : Long :=
  BitVec.ofNat 64 (v.toNat % 2 ^ 32 + 2 ^ 32 * hold32 (v.toNat / 2 ^ 32 + n))

/-- Set bit `i` of a 32-bit register. -/
def setBit32 (v : Word) (i : Nat) : Word := v ||| BitVec.ofNat 32 (2 ^ i)

/-- Clear the bits of a W1C register that a write gives as 1 (Register maps, access codes). -/
def w1c (v written : Word) : Word := v &&& ~~~written

/-- Replace field [hi:lo] of a number. -/
def setBits (v hi lo x : Nat) : Nat := v - bits v hi lo * 2 ^ lo + (x % 2 ^ (hi + 1 - lo)) * 2 ^ lo

/-! ### Stamps of the group (R438) -/

/-- Write NEXT when the module learns the following stamp (R438). -/
def State.learnStamp (s : State) (stamp : Word) : State := { s with cascade := { s.cascade with next := stamp } }

end Sys2Proof.Machine
end

