-- ==== Sys2Proof/Machine/Ledger.lean ====
section
/-! DEFINITION. The Ledger (chapter 16): occurrences into the intake, summaries, early flushes, windows, records and saves. -/

namespace Sys2Proof.Machine

/-- The unit written where Table 16.4 gives none (R612). -/
def noUnit : Nat := 0xFFFFFFFF

/-- A block reports an occurrence: it enters the intake of 1,024, or is dropped and counted (R603). -/
def Ledger.report (l : Ledger) (code value unit : Nat) : Ledger :=
  if l.intake.length < 1024 then { l with intake := l.intake ++ [(code, value, unit)] }
  else { l with dropped := l.dropped + 1, droppedWindow := l.droppedWindow + 1, fault := setBit32 l.fault 1 }

/-- A block of the module reports an occurrence (R603). -/
def State.report (s : State) (code value unit : Nat) : State := { s with ledger := s.ledger.report code value unit }

/-- An access or write counted under REG_IGNORED with the access's device address (R612). -/
def State.ignored (s : State) (addr : Nat) (core : Option Nat) : State := s.report 0x0005 addr (core.getD noUnit)

/-- The codes marked F in Table 16.4. -/
def flushCodes : List Nat :=
  [0x0002, 0x0101, 0x0102, 0x0103, 0x0111, 0x0112, 0x0113, 0x0121, 0x0200, 0x0201, 0x0202, 0x0300, 0x0302, 0x0400,
   0x0401, 0x0403, 0x0500, 0x0501, 0x0601, 0x0700, 0x0702]

/-- The histogram bin of a value (R604). -/
def histBin (v : Nat) : Nat := if v = 0 then 0 else min 15 (Nat.log2 v + 1)

/-- An empty summary of a code. -/
def Summary.empty (code : Nat) : Summary where
  code := code
  count := 0
  suppressed := 0
  first := 0
  last := 0
  pcFirst := 0
  pcLast := 0
  min := 0
  max := 0
  maxUnit := 0
  hist := List.replicate 16 0

/-- One more occurrence at second `at'` in power cycle `pc` (R604). -/
def Summary.add (m : Summary) (value unit at' pc : Nat) : Summary :=
  let bin := histBin value
  { m with
    count := m.count + 1
    first := if m.count = 0 then at' else m.first
    last := at'
    pcFirst := if m.count = 0 then pc else m.pcFirst
    pcLast := pc
    min := if m.count = 0 then value else Nat.min m.min value
    max := if m.count = 0 then value else Nat.max m.max value
    maxUnit := if m.count = 0 || decide (m.max < value) then BitVec.ofNat 32 unit else m.maxUnit
    hist := m.hist.set bin ((m.hist[bin]?).getD 0 + 1) }

/-- The record of a summary (R609, Table 16.3). -/
def recordBytes (number : Nat) (m : Summary) (early partial' : Bool) (window : Nat) : List Byte :=
  withCrc (leBytes 4 number ++ leBytes 2 m.code ++
    leBytes 1 (b2n early + 2 * b2n (m.pcFirst != m.pcLast) + 4 * b2n partial') ++ zeros 1 ++ leBytes 8 window ++
    leBytes 4 m.pcFirst ++ leBytes 4 m.pcLast ++ leBytes 2 (m.first - window) ++ leBytes 2 (m.last - window) ++
    leBytes 4 (hold32 m.count) ++ leBytes 4 (hold32 m.suppressed) ++ leBytes 4 m.maxUnit.toNat ++ leBytes 8 m.min ++
    leBytes 8 m.max ++ (m.hist.flatMap fun h => leBytes 4 (hold32 h)) ++ zeros 4)

/-- The circulating sector of record `n` (R610). -/
def recordSector (n : Nat) : Nat := (n - 2048) % 8704 / 512

/-- The records that stay when number `n` is written: the first slot of a circulating sector erases that sector, and the slot written is
absent until its record verifies (R610, R611). -/
def recordsBefore (n : Nat) (rs : Table (List Byte)) : Table (List Byte) :=
  terase (if 2048 ≤ n && (n - 2048) % 512 == 0
    then rs.filter fun r => decide (r.1 < 2048) || recordSector r.1 != recordSector n else rs) n

/-- The records that stay when `k` numbers from `n` on are written. -/
def recordsAfter (n : Nat) (rs : Table (List Byte)) : Nat → Table (List Byte)
  | 0 => rs
  | k + 1 => recordsBefore (n + k) (recordsAfter n rs k)

/-- Write one summary as a record under the next number. A write that fails verification leaves its slot absent, consumes its number and
sets NOR_ERROR, and the record is written again under the next (R610, R611). -/
def Ledger.putSummary (l : Ledger) (m : Summary) (early : Bool) : Ledger :=
  let failed := Config.norFailures l.written
  let n := l.written + failed
  { l with
    records := tset (recordsAfter l.written l.records (failed + 1)) n (recordBytes n m early l.partialWindow l.windowStart)
    written := n + 1
    fault := if failed = 0 then l.fault else setBit32 l.fault 2 }

/-- Add one occurrence to its summary, a code beyond 512 summaries as SUMMARY_FULL (R604). -/
def Ledger.add (l : Ledger) (code value unit at' : Nat) : Ledger :=
  let fits := (tget l.summaries code).isSome || decide (l.summaries.length < 512)
  let c := if fits then code else 0x0004
  let v := if fits then value else code
  let u := if fits then unit else noUnit
  { l with summaries := tset l.summaries c ((tgetD l.summaries c (.empty c)).add v u at' l.powerCycles) }

/-- Whether the open summary window has ended at the present second (R38, Table 1.9). -/
def Ledger.windowDue (l : Ledger) : Bool := decide (l.windowStart + 600 ≤ l.seconds)

/-- End the open window (R603, R605): INTAKE_DROPPED where occurrences were dropped, one record for each summary in
increasing code order, then every summary and flush mark cleared. The new window is the one that holds the present second. -/
def Ledger.endWindow (l : Ledger) : Ledger :=
  let l1 := if l.droppedWindow = 0 then l else l.add 0x0003 l.droppedWindow noUnit (l.windowStart + 599)
  let l2 := l1.summaries.foldl (fun k e => if e.2.count = 0 then k else k.putSummary e.2 false) l1
  { l2 with
    summaries := []
    flushed := []
    droppedWindow := 0
    partialWindow := false
    windowStart := l2.seconds / 600 * 600 }

/-- End the open window where it is due. -/
def Ledger.settleWindow (l : Ledger) : Ledger := if l.windowDue then l.endWindow else l

/-- Take one occurrence at the present second: the window ends first where due (R605), then a code marked F flushes early
or counts a suppression (R606). -/
def Ledger.take (l : Ledger) (code value unit : Nat) : Ledger :=
  let l1 := l.settleWindow
  let l2 := l1.add code value unit l1.seconds
  if flushCodes.contains code then
    if tget l2.flushed code = some (l2.seconds / 60) then
      match tget l2.summaries code with
      | some m => { l2 with summaries := tset l2.summaries code { m with suppressed := m.suppressed + 1 } }
      | none => l2
    else
      match tget l2.summaries code with
      | some m =>
        let l3 := l2.putSummary m true
        { l3 with summaries := terase l3.summaries code, flushed := tset l3.flushed code (l3.seconds / 60) }
      | none => l2
  else l2

/-- The controller takes every occurrence in its intake, in order (R603). -/
def Ledger.drain (l : Ledger) : Ledger :=
  let waiting := l.intake
  waiting.foldl (fun k o => k.take o.1 o.2.1 o.2.2) { l with intake := [] }

/-- The save of the counts, the open summaries and the flush marks (R600, R607). -/
def Ledger.save (l : Ledger) : Ledger :=
  { l with
    savedCycles := l.powerCycles
    savedSeconds := l.seconds
    savedSummaries := l.summaries
    savedFlushed := l.flushed }

/-- OCCURRENCE: a block reports an occurrence and the controller takes what its intake holds (R603 to R606). -/
def execOccurrence (code : Nat) (value : Long) (unit : Word) (s : State) : Host.Outcome State Fault Refusal :=
  .next { s with ledger := (s.ledger.report code value.toNat unit.toNat).drain }

/-- SUMMARY_WINDOW_END: the open summary window has ended and its records are written (R605). -/
def execSummaryWindowEnd (s : State) : Host.Outcome State Fault Refusal :=
  .next { s with ledger := s.ledger.settleWindow }

/-- OPERATING_SECOND: operating seconds advance by one while main power is up, holding at the largest 40-bit value (R599).
Occurrences still in the intake are taken first, at the second that ends. -/
def execOperatingSecond (s : State) : Host.Outcome State Fault Refusal :=
  .next (if s.pins.pwrGood then
    let l := s.ledger.drain
    { s with ledger := { l with seconds := min (l.seconds + 1) (2 ^ 40 - 1) } }
  else s)

/-- The junction reading as R612's JUNCTION value. -/
def junctionValue (temp : Word) : Nat := (max 0 (signed 16 (bits temp.toNat 15 0) + 2048)).toNat

/-- OPERATING_MINUTE_SAVE: at an operating-minute boundary the junction is sampled (Table 16.4) and the counts, open summaries
and flush marks are saved (R600, R607). -/
def execOperatingMinuteSave (s : State) : Host.Outcome State Fault Refusal :=
  .next (if s.pins.pwrGood && s.ledger.seconds % 60 == 0 then
    let l := ((s.ledger.report 0x0600 (junctionValue s.power.temp) (bits s.power.temp.toNat 21 16)).drain).settleWindow
    { s with ledger := l.save }
  else s)

/-- Enter a newly failed SRAM row; a full table sets HISTORY_FULL (R602). -/
def Ledger.enterRow (l : Ledger) (p row : Nat) : Ledger :=
  if l.sramRows.length < 65536 then { l with sramRows := l.sramRows ++ [(p, row, l.powerCycles)] }
  else { l with fault := setBit32 l.fault 0 }

/-- Retire a core for the module's life (R162, R602). -/
def Ledger.retireCore (l : Ledger) (p : Nat) : Ledger :=
  if l.retiredCores.any fun e => e.1 == p then l else { l with retiredCores := l.retiredCores ++ [(p, l.powerCycles)] }

/-- The records a reader gets (R613): numbers from `start` on below the written count, absent ones skipped, at most `n`. -/
def Ledger.readRecords (l : Ledger) (start n : Nat) : List (List Byte) :=
  ((l.records.filter fun r => decide (start ≤ r.1) && decide (r.1 < l.written)).take n).map Prod.snd

/-- A history table's bytes (Table 16.2). The entries' byte forms are the model's (assumption 9). -/
def Ledger.tableBytes (l : Ledger) (table used : Nat) (suspicions : Table Nat) : List Byte :=
  match table with
  | 1 => l.sramRows.flatMap fun e => leBytes 2 e.1 ++ leBytes 2 e.2.1 ++ leBytes 4 e.2.2
  | 2 => (List.range 544).flatMap fun p =>
      match l.retiredCores.find? fun e => e.1 == p with
      | some e => leBytes 2 1 ++ leBytes 2 (tgetD suspicions p 0) ++ leBytes 4 e.2
      | none => leBytes 2 0 ++ leBytes 2 (tgetD suspicions p 0) ++ leBytes 4 0
  | 3 => l.lpGranules.flatMap fun e => leBytes 4 e.1 ++ leBytes 4 (b2n e.2)
  | 4 => leBytes 4 used
  | _ => []

end Sys2Proof.Machine
end

