-- ==== Sys2Proof/Machine/Port.lean ====
section
/-! DEFINITION. The transmit side of the Ethernet port and of its reliable connections (R451 to R455): frames sent or held by
priority flow control, and outbound operations with packet sequence numbers. -/

namespace Sys2Proof.Machine

/-- The priority a frame is sent at, where the manual gives one (ETH_PFC). -/
def Port.priority (p : Port) : EthFrame → Option Nat
  | .udp _ _ => some (bits p.pfc.toNat 14 12)
  | .roce _ _ _ => some (bits p.pfc.toNat 10 8)
  | .readResponse _ _ => some (bits p.pfc.toNat 10 8)
  | .roceAck _ => some (bits p.pfc.toNat 10 8)
  | .remoteAccessNak _ => some (bits p.pfc.toNat 10 8)
  | .cnp _ => some (bits p.pfc.toNat 10 8)
  | .arpReply _ _ _ => none
  | .neighborAdvert _ _ => none
  | .echoReply _ _ _ _ => none

/-- Whether priority flow control pauses a frame: only priorities that ETH_PFC.LOSSLESS names are paused (R451). -/
def Port.pauses (p : Port) (f : EthFrame) : Bool :=
  match p.priority f with
  | some k => bitAt p.paused.toNat k && bitAt p.pfc.toNat k
  | none => false

/-- Whether a frame comes before another in the transmit queue (R29, Table 1.7). -/
def WaitingFrame.before (x y : WaitingFrame) : Bool := grantsBefore (x.lc, x.tick, x.owner) (y.lc, y.tick, y.owner)

/-- Send a frame: a link that is down loses it, a paused priority holds it in the order of R29. -/
def Port.transmit (p : Port) (w : WaitingFrame) : Port :=
  if !p.up then p
  else if p.pauses w.frame then { p with waiting := enqueue WaitingFrame.before p.waiting w }
  else { p with sent := p.sent ++ [w.frame] }

/-- Send the held frames that no pause holds any more, in order. -/
def Port.release (p : Port) : Port :=
  { p with
    waiting := p.waiting.filter fun w => p.pauses w.frame
    sent := p.sent ++ (p.waiting.filter fun w => !p.pauses w.frame).map WaitingFrame.frame }

/-- Whether the work of a context is latency-critical: a generation step whose list holds such a sequence, or a learning step or turn
submitted so (R31). -/
def State.workLc (s : State) (c : Nat) : Bool :=
  (s.steps.any fun t => t.ctx == c && t.lc) || (s.learnSteps.any fun t => t.ctx == c && t.lc) ||
    s.turns.turn.any fun t => t.ticket.ctx == c && t.lc

/-- An access to the Keeper region: in P2 it brings the stacks out of self-refresh (R561). -/
def State.touchRegion (s : State) : State :=
  if s.keeper.powerState = 2 then { s with keeper := { s.keeper with selfRefresh := false, lastP2Access := s.now } } else s

/-- The connection a frame belongs to. -/
def EthFrame.qpn : EthFrame → Option Nat
  | .roce n _ _ => some n
  | .readResponse n _ => some n
  | .roceAck n => some n
  | .remoteAccessNak n => some n
  | .cnp n => some n
  | .udp _ _ => none
  | .arpReply _ _ _ => none
  | .neighborAdvert _ _ => none
  | .echoReply _ _ _ _ => none

/-- A frame as a request at the transmit queue: of a context where its connection serves a context's mailbox, at the class of that
context's work (R31, Table 1.7). -/
def State.frameRequest (s : State) (f : EthFrame) : WaitingFrame :=
  match f.qpn.bind s.qp with
  | some q => if 16 ≤ q.mb then ⟨s.workLc (q.mb - 16), s.now, q.mb - 15, f⟩ else ⟨false, s.now, 0, f⟩
  | none => ⟨false, s.now, 0, f⟩

/-- Send a frame from the module. -/
def State.transmit (s : State) (f : EthFrame) : State := { s with port := s.port.transmit (s.frameRequest f) }

/-- The bytes an outbound operation moves. -/
def OutOp.length : OutOp → Nat
  | .write _ _ data => data.length
  | .read _ _ len _ => len

/-- Whether an outbound operation is a read. -/
def OutOp.isRead : OutOp → Bool
  | .write _ _ _ => false
  | .read _ _ _ _ => true

/-- The packet sequence numbers an operation takes: one for each path-MTU unit of its data, at least one. -/
def Qp.packets (q : Qp) (op : OutOp) : Nat := max 1 ((op.length + q.mtu - 1) / max 1 q.mtu)

/-- Reads outstanding on a connection. -/
def Qp.reads (q : Qp) : Nat := (q.unacked.filter fun u => u.op.isRead).length

/-- Send the queued operations that the limit of 16 outstanding reads allows, in order, at tick `now`; the frames sent. -/
def Qp.flush (n now : Nat) (q : Qp) : Nat → Qp × List EthFrame
  | 0 => (q, [])
  | fuel + 1 =>
    match q.queued with
    | [] => (q, [])
    | op :: rest =>
      if op.isRead && decide (16 ≤ q.reads) then (q, [])
      else
        let q' := { q with
          queued := rest
          unacked := q.unacked ++ [⟨q.psn, op, now⟩]
          psn := (q.psn + q.packets op) % 2 ^ 24 }
        let r := Qp.flush n now q' fuel
        (r.1, .roce n q.psn op :: r.2)

/-- Let a connection send what it may. -/
def State.pump (s : State) (n : Nat) : State :=
  match s.qp n with
  | none => s
  | some q =>
    let r := q.flush n s.now q.queued.length
    r.2.foldl State.transmit (s.setQp n r.1)

/-- Post an outbound operation on a connection; a connection that is absent or in ERROR takes none (R454). -/
def State.postOp (s : State) (n : Nat) (op : OutOp) : State :=
  match s.qp n with
  | none => s
  | some q => if q.error then s else (s.setQp n { q with queued := q.queued ++ [op] }).pump n

/-- Whether a connection exists and is not in ERROR. -/
def State.qpUsable (s : State) (n : Nat) : Bool :=
  match s.qp n with
  | none => false
  | some q => !q.error

end Sys2Proof.Machine
end

