-- ==== Sys2Proof/WellFormed.lean ====
section
/-! DEFINITION. Well-formed commands: an operand that names a unit names one the module has. -/

namespace Sys2Proof

/-- A mailbox of Table 12.3. -/
def mailboxOk (mb : Nat) : Bool := decide (mb ≤ 11) || (decide (16 ≤ mb) && decide (mb ≤ 527))

/-- A physical core of Table 1.2: 32 combs of 17. -/
def coreOk (p : Nat) : Bool := decide (p < 544)

/-- A core window of Table 1.4. -/
def windowOk : CoreWin → Bool
  | .logical c => decide (c < 512)
  | .physical p => coreOk p

/-- Device links DL0 to DL3. -/
def linkOk (k : Nat) : Bool := decide (k < 4)

/-- A 24-bit queue pair number. -/
def qpnOk (q : Nat) : Bool := decide (q < 2 ^ 24)

/-- A group position: a group has up to 64 modules. -/
def positionOk (k : Nat) : Bool := decide (k < 64)

/-- A context number of R34. -/
def contextOk (c : Nat) : Bool := decide (c < 512)

/-- A Brood Table slot (Table 1.2). -/
def slotOk (i : Nat) : Bool := decide (i < 16384)

/-- A sampler, one in each comb (R279). -/
def samplerOk (i : Nat) : Bool := decide (i < 32)

/-- The matrix engines (Table 4.1). -/
def matrixOk : Engine → Bool
  | .fme => true
  | .bme => true
  | _ => false

/-- The rails of the Power Guard (R561). -/
def railOk (r : Nat) : Bool := decide (r < 6)

/-- A token register of a core (Table 4.1). -/
def tokenOk (n : Nat) : Bool := decide (n < 32)

/-- A field of a stated length. -/
def lengthOk (b : List Byte) (n : Nat) : Bool := b.length == n

/-- A device address outside memory: register space or reserved (Table 1.3). -/
def deviceOk (a : Nat) : Bool :=
  decide (0x400000000 ≤ a) && (decide (a < 0x8000000000) || decide (0x10000000000 ≤ a)) && decide (a < 0x1000000000000)

/-- An address of register space (Table 1.3). -/
def registerOk (a : Nat) : Bool := decide (0x800000000 ≤ a) && decide (a < 0x900000000)

/-- Every operand that names a unit names one the module has. -/
def Instr.wf : Instr → Bool
  | .identify mb => mailboxOk mb
  | .netConfig mb => mailboxOk mb
  | .qpCreate mb => mailboxOk mb
  | .qpDestroy mb => mailboxOk mb
  | .mboxBind mb => mailboxOk mb
  | .memRegister mb => mailboxOk mb
  | .memDeregister mb => mailboxOk mb
  | .lock mb => mailboxOk mb
  | .ctxCreate mb => mailboxOk mb
  | .ctxRelease mb => mailboxOk mb
  | .ctxSet mb => mailboxOk mb
  | .shareMode mb => mailboxOk mb
  | .packageLoad mb => mailboxOk mb
  | .packageUnload mb => mailboxOk mb
  | .groupForm mb => mailboxOk mb
  | .queenMove mb => mailboxOk mb
  | .groupDissolve mb => mailboxOk mb
  | .packWrite mb => mailboxOk mb
  | .packDelete mb => mailboxOk mb
  | .packQuery mb => mailboxOk mb
  | .load mb => mailboxOk mb
  | .turnLearn mb => mailboxOk mb
  | .turnGen mb => mailboxOk mb
  | .switchMode mb => mailboxOk mb
  | .versionRetire mb => mailboxOk mb
  | .versionGrant mb => mailboxOk mb
  | .versionRevoke mb => mailboxOk mb
  | .adapterRelease mb => mailboxOk mb
  | .shardSupply mb => mailboxOk mb
  | .learnStep mb => mailboxOk mb
  | .cancel mb => mailboxOk mb
  | .guardSet mb => mailboxOk mb
  | .capTake mb => mailboxOk mb
  | .capRestore mb => mailboxOk mb
  | .fwLoad mb => mailboxOk mb
  | .fwActivate mb => mailboxOk mb
  | .powerSet mb => mailboxOk mb
  | .logRead mb => mailboxOk mb
  | .traceSet mb => mailboxOk mb
  | .ledgerRead mb => mailboxOk mb
  | .debugUnlock mb => mailboxOk mb
  | .admission mb => mailboxOk mb
  | .handleRegister mb => mailboxOk mb
  | .handleRelease mb => mailboxOk mb
  | .setReward mb => mailboxOk mb
  | .superRelease mb => mailboxOk mb
  | .slotQuery mb => mailboxOk mb
  | .doorbell h body => qpnOk h.qpn && lengthOk body 16
  | .udpSubmit _ _ _ => true
  | .udpPoll _ _ _ => true
  | .rdmaWriteInbound h _ _ _ => qpnOk h.qpn
  | .rdmaReadInbound h _ _ _ => qpnOk h.head.qpn
  | .ceMarkedPacket h => qpnOk h.qpn
  | .cnpReceived h => qpnOk h.qpn
  | .rateRecoverExpiry qpn => qpnOk qpn
  | .roceAckTimeout qpn => qpnOk qpn
  | .qpError qpn _ => qpnOk qpn
  | .ethLinkWaitExpiry => true
  | .ethLinkUp _ => true
  | .ethLinkDown => true
  | .ethCtrlWrite _ => true
  | .promptReadComplete qpn _ => qpnOk qpn
  | .coreStart w => windowOk w
  | .coreAbort w => windowOk w
  | .frameStoreFill w => windowOk w.win
  | .frameStoreFillDone p => coreOk p
  | .coreTokenWrite w n _ => windowOk w && tokenOk n
  | .veuFill w => windowOk w.win
  | .veuFillDone p => coreOk p
  | .memInval _ => true
  | .memInvalDone => true
  | .memZero _ => true
  | .memZeroDone => true
  | .trnModeWrite _ => true
  | .dlFence => true
  | .dlEnable => true
  | .wdogKick _ => true
  | .wdogCfgWrite _ => true
  | .prpLockWrite _ => true
  | .brdSlotWrite _ slot entry => slotOk slot && lengthOk entry 128
  | .clkDvfsWrite _ => true
  | .registerWrite _ addr _ => deviceOk addr
  | .reservedAddressRead _ addr => deviceOk addr
  | .frameDispatch p => coreOk p
  | .loadTile p _ => coreOk p
  | .loadGather p _ => coreOk p
  | .loadLinear p _ => coreOk p
  | .storeTile p => coreOk p.core
  | .storeScatter p _ => coreOk p
  | .storeScatterAdd p _ => coreOk p
  | .storeLinear p => coreOk p
  | .copy p _ => coreOk p
  | .linkCopy p _ => coreOk p
  | .mma p e => coreOk p && matrixOk e
  | .fin p e => coreOk p && matrixOk e
  | .chain p => coreOk p
  | .frameComplete p _ => coreOk p
  | .waitTimeout p _ => coreOk p
  | .stepCoresDone ctx => contextOk ctx
  | .cfgMismatch addr => registerOk addr
  | .cfgLost addr => registerOk addr
  | .wpWriteHeld _ ctx _ _ => contextOk ctx
  | .capFirstTouchCopyDone ctx _ _ => contextOk ctx
  | .capGranuleCopyDone _ => true
  | .scrubRead lp n _ _ => decide (n < if lp then 128 else 512)
  | .patrolRead _ _ => true
  | .relocationDone _ => true
  | .shareWindowEnd => true
  | .buildWorkList _ => true
  | .stepStart ctx => contextOk ctx
  | .sampleRow sampler slot _ => samplerOk sampler && slotOk slot
  | .stepCommit ctx => contextOk ctx
  | .stepBoundary ctx => contextOk ctx
  | .consumerPoll slot => slotOk slot
  | .stepStartMessage _ _ ctx _ => contextOk ctx
  | .stepEnd pos _ _ _ => positionOk pos
  | .clipFactor ctx _ => contextOk ctx
  | .staged pos _ ctx _ _ => positionOk pos && contextOk ctx
  | .replay _ ctx _ _ => contextOk ctx
  | .replayResult pos _ ctx _ _ _ _ _ => positionOk pos && contextOk ctx
  | .commit _ ctx _ _ => contextOk ctx
  | .rollback _ ctx _ _ => contextOk ctx
  | .ack pos _ ctx _ => positionOk pos && contextOk ctx
  | .generationGuardDecision ctx => contextOk ctx
  | .coreSelfTest p => coreOk p.core
  | .coreSelfTestDone p _ => coreOk p.core
  | .turnMemberReady pos => positionOk pos
  | .turnShardsPresent => true
  | .shardEnd _ _ _ => true
  | .hostWaitExpiry _ => true
  | .loadEnd _ => true
  | .capturePoint => true
  | .captureEnd pos => positionOk pos
  | .restoreEnd pos => positionOk pos
  | .data link _ => linkOk link
  | .signal link _ => linkOk link
  | .control link _ _ => linkOk link
  | .done link _ => linkOk link
  | .stale link _ => linkOk link
  | .hello link _ => linkOk link
  | .lack link _ => linkOk link
  | .ready pos _ => positionOk pos
  | .active _ => true
  | .formWaitExpiry => true
  | .heartbeat pos => positionOk pos
  | .heartbeatLoss pos => positionOk pos
  | .linkDown link _ => linkOk link
  | .modResetNRelease => true
  | .pllLock => true
  | .propolisSelfCheck _ => true
  | .builtInSelfTest _ => true
  | .lpddr5xTraining _ _ => true
  | .directoryRead => true
  | .firmwareEntry => true
  | .watchdogExpiry _ => true
  | .keeperCoreException _ => true
  | .keeperSramUncorrectable _ => true
  | .keeperRestart => true
  | .keeperResume => true
  | .pgdWindowEnd _ => true
  | .railCurrentClamp rail _ => railOk rail
  | .thermalStop _ => true
  | .railVoltageStop rail => railOk rail
  | .emergencyClose => true
  | .vcoreReached _ => true
  | .dvfsRaiseTimeout => true
  | .selfRefreshIdle => true
  | .vauxApplied => true
  | .pwrGoodRise => true
  | .railsInRegulation => true
  | .powerLoss _ => true
  | .modResetNAssert _ => true
  | .refclkLoss => true
  | .mctpControl _ => true
  | .pldmRequest _ => true
  | .mgmtLedgerRead _ => true
  | .occurrence _ _ _ => true
  | .summaryWindowEnd => true
  | .operatingSecond => true
  | .operatingMinuteSave => true
  | .wipeComplete => true
  | .deviceLinkTrained link => linkOk link
  | .packWriteComplete _ => true
  | .heartbeatSend => true
  | .refclkReturn => true
  | .railClampRelease rail _ => railOk rail
  | .pfcPauseFrame _ _ => true
  | .arpRequest _ _ _ => true
  | .neighborSolicitation _ _ => true
  | .echoRequest _ _ _ _ => true
  | .roceAckReceived qpn _ _ => qpnOk qpn
  | .rdmaReadResponse qpn _ => qpnOk qpn
  | .jtagInstruction _ => true

end Sys2Proof
end

