-- ==== Sys2Proof/Machine/Operands.lean ====
section
/-! DEFINITION. Command operands: the message header and bodies of Tables 12.6, 12.12, 12.14 and 12.15 as fields of bytes, their
lengths (Table 12.18), windows (R478), and the checks of fields and reserved bytes that check 2 of Table 12.7 makes. -/

namespace Sys2Proof.Machine

/-! ### Command codes (Table 12.10) -/

/-- One row of Table 12.10: code, mailboxes that accept it (admin, debug, context), whether it is marked Q, and its bound. -/
structure CommandRow where
  code : Nat
  admin : Bool
  debug : Bool
  context : Bool
  queen : Bool
  bound : Nat
  deriving DecidableEq, Repr

/-- Table 12.10, first part. -/
def commandsAdmin : List CommandRow :=
  [⟨0x0001, true, true, false, false, 1⟩, ⟨0x0002, true, false, false, false, 1⟩, ⟨0x0003, true, false, false, false, 1⟩,
   ⟨0x0004, true, false, false, false, 1⟩, ⟨0x0005, true, false, false, false, 1⟩, ⟨0x0006, true, false, true, false, 1⟩,
   ⟨0x0007, true, false, true, false, 1⟩, ⟨0x0008, true, false, false, false, 1⟩, ⟨0x0010, true, false, false, false, 1⟩,
   ⟨0x0011, true, false, false, false, 1⟩, ⟨0x0012, true, false, false, false, 1⟩, ⟨0x0013, true, false, false, false, 1⟩,
   ⟨0x0014, true, false, false, false, 1⟩, ⟨0x0015, true, false, false, false, 1⟩, ⟨0x0020, true, false, false, false, 1⟩,
   ⟨0x0021, true, false, false, false, 1⟩, ⟨0x0022, true, false, false, false, 1⟩, ⟨0x0030, true, false, false, false, 1⟩,
   ⟨0x0031, true, false, false, false, 1⟩, ⟨0x0032, true, false, false, false, 1⟩]

/-- Table 12.10, second part. -/
def commandsRun : List CommandRow :=
  [⟨0x0040, true, false, false, true, 1⟩, ⟨0x0041, true, false, false, true, 1⟩, ⟨0x0042, true, false, false, true, 1⟩,
   ⟨0x0043, true, false, false, true, 1⟩, ⟨0x0044, true, false, false, true, 1⟩, ⟨0x0045, true, false, false, true, 1⟩,
   ⟨0x0046, true, false, false, true, 1⟩, ⟨0x0047, true, false, false, true, 1⟩, ⟨0x0048, true, false, false, false, 1⟩,
   ⟨0x0050, true, false, false, true, 8193⟩, ⟨0x0051, true, false, true, true, 1⟩, ⟨0x0052, true, false, false, true, 1⟩,
   ⟨0x0053, true, false, false, true, 1⟩, ⟨0x0054, true, false, false, true, 1⟩]

/-- Table 12.10, third part. -/
def commandsRest : List CommandRow :=
  [⟨0x0060, true, false, false, false, 1⟩, ⟨0x0061, true, false, false, false, 1⟩, ⟨0x0062, true, false, false, false, 1⟩,
   ⟨0x0063, true, true, false, false, 1⟩, ⟨0x0064, true, true, false, false, 1⟩, ⟨0x0065, true, true, false, false, 1⟩,
   ⟨0x0066, false, true, false, false, 1⟩, ⟨0x0101, false, false, true, true, 1⟩, ⟨0x0102, false, false, true, true, 1⟩,
   ⟨0x0103, false, false, true, true, 1⟩, ⟨0x0104, true, false, true, true, 1⟩, ⟨0x0105, true, false, true, true, 1⟩,
   ⟨0x0106, true, false, true, true, 1⟩]

/-- The row of a command code. -/
def commandRow (code : Nat) : Option CommandRow :=
  (commandsAdmin ++ commandsRun ++ commandsRest).find? fun r => r.code == code

/-! ### Header (Table 12.6) -/

/-- LENGTH. -/
def msgLength (m : List Byte) : Nat := field m 0 4
/-- COMMAND. -/
def msgCommand (m : List Byte) : Nat := field m 4 2
/-- FLAGS. -/
def msgFlags (m : List Byte) : Nat := field m 6 2
/-- TAG. -/
def msgTag (m : List Byte) : Nat := field m 8 8
/-- CONTEXT. -/
def msgContext (m : List Byte) : Nat := field m 16 2
/-- INTERFACE. -/
def msgInterface (m : List Byte) : Nat := field m 18 2

/-- Slots a message takes (R462). -/
def msgSlots (m : List Byte) : Nat := (msgLength m + 255) / 256

/-- The domain whose registrations a mailbox's messages name (R478, R485): 0 for admin, n + 1 for context n. -/
def domainOf (mb : Nat) : Nat := if 16 ≤ mb then mb - 15 else 0

/-- The inline marker of PROMPT_REG. -/
def inlinePrompt : Nat := 0xFFFFFFFF

/-- The LENGTH of a command (R638, Table 12.18). -/
def commandLength (m : List Byte) : Nat :=
  match msgCommand m with
  | 0x0011 => 32 | 0x0022 => 32 | 0x0061 => 32
  | 0x0008 => 33 | 0x0013 => 33 | 0x0043 => 33 | 0x0052 => 33 | 0x0062 => 33 | 0x0015 => 33 | 0x0041 => 33
  | 0x0047 => 34
  | 0x0064 => 35
  | 0x0004 => 36 | 0x0007 => 36 | 0x0012 => 36
  | 0x0021 => 38 | 0x0044 => 38 | 0x0045 => 38 | 0x0046 => 38
  | 0x0031 => 40 | 0x0032 => 40 | 0x0050 => 40 | 0x0103 => 40 | 0x0105 => 40
  | 0x0102 => 44 | 0x0104 => 44
  | 0x0020 => 46
  | 0x0051 => 48
  | 0x0040 => 52
  | 0x0002 => 56 | 0x0042 => 56
  | 0x0005 => 72
  | 0x0003 => 80
  | 0x0101 => if field m 136 4 = inlinePrompt then 152 + 4 * field m 48 4 else 152
  | 0x0010 => 160
  | _ => 64

/-! ### Windows (R478) -/

/-- A 24-byte window field. -/
structure Window where
  reg : Nat
  offset : Nat
  length : Nat
  deriving DecidableEq, Repr

/-- The window at an offset of a message. -/
def windowAt (m : List Byte) (o : Nat) : Window := ⟨field m o 4, field m (o + 8) 8, field m (o + 16) 8⟩

/-- Whether a byte range of a message is all zero. -/
def zeroAt (m : List Byte) (o n : Nat) : Bool := field m o n == 0

/-- A registration of a domain. -/
def State.registration (s : State) (dom reg : Nat) : Option Registration := tget (tgetD s.regs dom []) reg

/-- Whether a window is fit (R478): inside a registration of the domain that grants the access, and long enough. -/
def State.windowFit (s : State) (dom : Nat) (w : Window) (write read : Bool) (least : Nat) : Bool :=
  match s.registration dom w.reg with
  | none => false
  | some r => decide (w.offset + w.length ≤ r.length) && (!write || r.canWrite) && (!read || r.canRead) && decide (least ≤ w.length)

/-- Whether a number is a power of two from 64 to 65,536 (R466). -/
def ringSizeOk (n : Nat) : Bool := (List.range 11).any fun k => n == 2 ^ (k + 6)

/-- The window of the message at offset 32 is fit, with its reserved bytes zero. -/
def State.windowOk (s : State) (mb : Nat) (m : List Byte) (o : Nat) (write read : Bool) (least : Nat) : Bool :=
  zeroAt m (o + 4) 4 && s.windowFit (domainOf mb) (windowAt m o) write read least

/-- Whether the Keeper runs from the boot ROM. -/
def State.bootRom (s : State) : Bool := s.keeper.mode == .bootRom

/-- The smallest window of an attesting IDENTIFY (R582). -/
def attestLength : Nat := 16384

/-- The ranges that Tables 7.10 and 8.11 give the fields of CTX_CREATE. -/
def createFieldsOk (m : List Byte) : Bool :=
  let geom := field m 88 4
  field m 64 8 % 0x200000 == 0 && field m 72 8 % 0x200000 == 0 && field m 80 8 % 0x200000 == 0 &&
  (field m 80 8 == 0 || (decide (2 ≤ bits geom 3 0) && decide (bits geom 3 0 ≤ 5))) && bits geom 7 4 == 0 && bits geom 31 23 == 0 &&
  decide (field m 92 4 ≤ 1048576) && decide (field m 96 4 ≤ 32768) && decide (bits (field m 100 4) 4 0 ≤ 18) &&
  bits (field m 100 4) 7 6 == 0 && decide (bits (field m 100 4) 31 8 ≤ 16384)

/-- Reserved bytes, field ranges and codes of each body, and window fitness (Tables 12.12, 12.14, 12.15; check 2). -/
def State.bodyOk (s : State) (mb : Nat) (m : List Byte) : Bool :=
  match msgCommand m with
  | 0x0001 => zeroAt m 56 8 && if s.bootRom then decide (256 ≤ field m 48 8) else s.windowOk mb m 32 true false 256
  | 0x0002 => decide (field m 32 1 ≤ 7) && decide (field m 33 1 ≤ (if field m 32 1 ≤ 3 then 128 else 32)) && zeroAt m 36 4
  | 0x0003 => mailboxOk (field m 32 2) && decide (field m 34 1 ≤ 2) && decide (field m 36 4 < 2 ^ 24) &&
      decide (field m 40 4 < 2 ^ 24) && decide (field m 44 4 < 2 ^ 24) && decide (field m 72 1 < 64) && zeroAt m 73 7
  | 0x0005 => mailboxOk (field m 32 2) && zeroAt m 34 2 && ringSizeOk (field m 52 4) && zeroAt m 68 4
  | 0x0006 => decide (field m 36 1 ≤ 3) && zeroAt m 37 3 && zeroAt m 52 4
  | 0x0008 => decide (field m 32 1 ≤ 7)
  | 0x0010 => decide (msgContext m < 512) && decide (1 ≤ field m 52 2) && decide (field m 54 2 ≤ 1) && field m 56 8 % 2 ^ 21 == 0 &&
      field m 112 8 % 2 ^ 21 == 0 && zeroAt m 144 16 && createFieldsOk m
  | 0x0012 => decide (1 ≤ field m 32 2) && decide (field m 34 2 ≤ 7)
  | 0x0013 => decide (field m 32 1 ≤ 1)
  | 0x0014 => decide (field m 57 1 ≤ 2) && zeroAt m 58 6 && s.windowOk mb m 32 false true 0
  | 0x0020 => decide (field m 40 1 ≤ 3) && decide (field m 41 1 ≤ 63) && decide (field m 42 1 ≤ 63) &&
      decide (field m 43 1 ≤ 63) && decide (field m 44 1 ≤ 63) && decide (field m 45 1 ≤ 63)
  | 0x0021 => decide (field m 36 1 ≤ 63) && decide (field m 37 1 ≤ 63)
  | 0x0030 => s.windowOk mb m 32 false true 0
  | 0x0040 => decide (field m 50 2 ≤ 1)
  | 0x0042 => decide (field m 32 1 ≤ 2) && zeroAt m 36 4
  | 0x0043 => decide (field m 32 1 ≤ 1)
  | 0x0044 => zeroAt m 33 1
  | 0x0045 => zeroAt m 33 1
  | 0x0046 => zeroAt m 33 1
  | 0x0048 => decide (field m 36 4 ≤ 1) && zeroAt m 44 4 && (field m 36 4 == 1 || s.windowOk mb m 40 false true 0)
  | 0x0051 => decide (1 ≤ field m 32 1) && decide (field m 32 1 ≤ 4) && zeroAt m 33 7
  | 0x0052 => decide (field m 32 1 ≤ 3)
  | 0x0053 => decide (field m 32 1 ≤ 1) && decide (field m 33 1 ≤ 63) && zeroAt m 34 6 && zeroAt m 44 4 &&
      (field m 32 1 == 1 || s.windowOk mb m 40 true false 0)
  | 0x0054 => decide (field m 32 1 ≤ 1) && decide (field m 33 1 ≤ 63) && zeroAt m 34 6 && zeroAt m 44 4 &&
      (field m 32 1 == 1 || s.windowOk mb m 40 false true 0)
  | 0x0060 => if s.bootRom then zeroAt m 36 4 && zeroAt m 62 2 else zeroAt m 56 8 && s.windowOk mb m 32 false true 0
  | 0x0062 => decide (field m 32 1 < 16) && decide (field m 32 1 % 4 ≤ 2)
  | 0x0063 => s.windowOk mb m 32 true false 0
  | 0x0064 => decide (field m 32 2 ≤ 4095) && decide (field m 34 1 ≤ 1)
  | 0x0065 => s.windowOk mb m 32 true false 0
  | 0x0066 => zeroAt m 56 8 && s.windowOk mb m 32 false true 0
  | 0x0101 => decide (field m 40 2 < 16) && decide (field m 42 1 ≤ 7) && decide (field m 46 1 ≤ 8) && zeroAt m 47 1 &&
      zeroAt m 66 2 && zeroAt m 140 4
  | 0x0106 => s.windowOk mb m 40 true false 128
  | _ => true

/-- The commands that address the context of their header (Table 12.10): check 3 asks that it exists. -/
def addressesContext (code : Nat) : Bool :=
  [0x0011, 0x0012, 0x0014, 0x0015, 0x0040, 0x0041, 0x0042, 0x0044, 0x0045, 0x0046, 0x0047, 0x0050, 0x0051, 0x0052, 0x0053,
   0x0054, 0x0101, 0x0102, 0x0103, 0x0104, 0x0105, 0x0106].contains code

/-! ### Numbers in bodies -/

/-- A 128-bit field. -/
def field128 (m : List Byte) (o : Nat) : BitVec 128 := BitVec.ofNat 128 (field m o 16)

/-- An FP32 field's encoding. -/
def field32 (m : List Byte) (o : Nat) : Word := BitVec.ofNat 32 (field m o 4)

/-- A list of 4-byte token ids. -/
def tokensAt (m : List Byte) (o : Nat) : Nat → List Nat
  | 0 => []
  | n + 1 => field m o 4 :: tokensAt m (o + 4) n

end Sys2Proof.Machine
end

