-- ==== Sys2Proof/Machine/Flags.lean ====
section
/-! DEFINITION. Flags and status codes: terminal statuses (Table 12.11), completion FLAGS (Table 12.8), lane flags (Table 5.7),
and the fault bits of a core and its vector engine (Tables 4.14 and 5.10). -/

namespace Sys2Proof.Machine

/-! ### Terminal statuses (Table 12.11) -/

/-- DONE. -/
def stDone : Nat := 0x0000
/-- DONE_LENGTH. -/
def stDoneLength : Nat := 0x0001
/-- DONE_STOP. -/
def stDoneStop : Nat := 0x0002
/-- CANCELLED. -/
def stCancelled : Nat := 0x0100
/-- FAILED_DEVICE_LOST. -/
def stDeviceLost : Nat := 0x0200
/-- FAILED_LINK_DOWN. -/
def stLinkDown : Nat := 0x0201
/-- FAILED_ROLE_STALE. -/
def stRoleStale : Nat := 0x0202
/-- FAILED_MEM_UNCORRECTABLE. -/
def stMem : Nat := 0x0300
/-- FAILED_CAPACITY. -/
def stCapacity : Nat := 0x0301
/-- FAILED_STASH_OVERFLOW. -/
def stStash : Nat := 0x0302
/-- FAILED_REPLAY_DISAGREE. -/
def stDisagree : Nat := 0x0400
/-- FAILED_NONFINITE. -/
def stNonfinite : Nat := 0x0401
/-- FAILED_SHARD_MISSING. -/
def stShardMissing : Nat := 0x0500
/-- FAILED_SHARD_CORRUPT. -/
def stShardCorrupt : Nat := 0x0501
/-- FAILED_VERSION_GONE. -/
def stVersionGone : Nat := 0x0600
/-- FAILED_FIRMWARE_RESTART. -/
def stRestart : Nat := 0x0700
/-- REJECTED_BAD_COMMAND. -/
def stBad : Nat := 0x0800
/-- REJECTED_LOCKED. -/
def stLocked : Nat := 0x0801
/-- REJECTED_NOT_PERMITTED. -/
def stNotPermitted : Nat := 0x0802

/-- The FLAGS byte of a completion record (Table 12.8). -/
def completionFlags (origin final phase : Bool) : Nat := b2n origin + 2 * b2n final + 128 * b2n phase

/-! ### Core faults (CORE_FAULT and VEU_FAULT) -/

/-- FRAME_BAD. -/
def faultFrameBad : Nat := 0
/-- TABLE_CRC. -/
def faultTableCrc : Nat := 1
/-- CONTEXT_MISMATCH of CORE_FAULT. -/
def faultContext : Nat := 2
/-- TOKEN_OVERFLOW. -/
def faultToken : Nat := 3
/-- WAIT_TIMEOUT. -/
def faultWait : Nat := 4
/-- ADDR_FAULT. -/
def faultAddr : Nat := 5
/-- MEM_UNCORRECTABLE. -/
def faultMem : Nat := 6
/-- KSEQ. -/
def faultKseq : Nat := 7
/-- SPILL_FULL. -/
def faultSpill : Nat := 8
/-- ROLE_STALE. -/
def faultRole : Nat := 9
/-- CFG_MISMATCH of CORE_FAULT. -/
def faultCfg : Nat := 10
/-- LINK_DOWN. -/
def faultLink : Nat := 11

/-- CHAIN_BAD. -/
def veuChainBad : Nat := 0
/-- CHAIN_CRC. -/
def veuChainCrc : Nat := 1
/-- CONTEXT_MISMATCH of VEU_FAULT. -/
def veuContext : Nat := 2
/-- BUF_FORMAT. -/
def veuBufFormat : Nat := 3
/-- WATCH_FULL. -/
def veuWatchFull : Nat := 4
/-- CFG_MISMATCH of VEU_FAULT. -/
def veuCfg : Nat := 5

/-- Whether a core holds a fault bit. -/
def Core.faulting (c : Core) : Bool := c.fault != 0 || c.veuFault != 0

/-- Whether no frame of a core has started and not completed. -/
def Core.quiet (c : Core) : Bool := c.started.all fun e => e.2.isEmpty

/-- CORE_FAULT_AT of a frame: slot, engine code and OP_TAG. -/
def faultAtWord (slot engine tag : Nat) : Word := BitVec.ofNat 32 (slot % 4096 + 4096 * (engine % 8) + 65536 * (tag % 65536))

/-- A core with one fault bit set (R170, R185): dispatch stops, CORE_FAULT_AT keeps the first fault, and the core is FAULTED
once the frames that have started are complete. -/
def Core.withFault (c : Core) (veu : Bool) (bit : Nat) (at' : Word) : Core :=
  { c with
    fault := if veu then c.fault else setBit32 c.fault bit
    veuFault := if veu then setBit32 c.veuFault bit else c.veuFault
    faultAt := if c.faulting then c.faultAt else at'
    dispatching := false
    stopping := true
    mode := if c.mode = .retired then .retired else if c.quiet then .faulted else c.mode }

/-- Raise a fault bit of physical core `p`, and enter it under its event code (Table 16.4). -/
def State.raiseFault (s : State) (p : Nat) (veu : Bool) (bit : Nat) (at' : Word) : State :=
  let c := (s.core p).withFault veu bit at'
  (s.setCore p c).report (if veu then 0x0201 else 0x0200) (if veu then c.veuFault.toNat else c.fault.toNat) p

/-- Raise a fault bit that no frame raised: CORE_FAULT_AT then names none, and its value is free (assumption 90). -/
def State.raiseUnplaced (s : State) (p : Nat) (veu : Bool) (bit : Nat) : State :=
  s.fresh.2.raiseFault p veu bit (BitVec.ofNat 32 (s.fresh.1 % 2 ^ 32) &&& 0xFFFF7FFF)

/-! ### Lane flags (Table 5.7) -/

/-- A lane-flag set with one flag. -/
def laneFlag (i : Nat) : BitVec 7 := BitVec.ofNat 7 (2 ^ i)

/-- INVALID. -/
def laneInvalid : BitVec 7 := laneFlag 0
/-- DIVZERO. -/
def laneDivZero : BitVec 7 := laneFlag 1
/-- OVERFLOW. -/
def laneOverflow : BitVec 7 := laneFlag 2
/-- SATURATE. -/
def laneSaturate : BitVec 7 := laneFlag 3
/-- NONFINITE_IN. -/
def laneNonfiniteIn : BitVec 7 := laneFlag 4
/-- RANGE. -/
def laneRange : BitVec 7 := laneFlag 5
/-- UNDERFLOW. -/
def laneUnderflow : BitVec 7 := laneFlag 6

/-- A flag set where a condition holds. -/
def laneIf (c : Bool) (f : BitVec 7) : BitVec 7 := if c then f else 0

end Sys2Proof.Machine
end

