-- ==== Sys2Proof/Machine/Mailbox.lean ====
section
/-! DEFINITION. Mailboxes (R461 to R476, R489): completion records written or waiting, events, the message at a ring's head, the
common checks of Table 12.7, and the handling that every mailbox command shares. -/

namespace Sys2Proof.Machine

/-! ### Completions -/

/-- The PHASE of record `k` in a ring of `n` (R466, R470). -/
def phaseOf (k n : Nat) : Bool := (k / n + 1) % 2 == 1

/-- The 64 bytes of record number `k` (Table 12.8). -/
def Completion.bytes (c : Completion) (k : Nat) (phase : Bool) : List Byte :=
  withCrc (leBytes 8 c.tag.toNat ++ leBytes 8 c.item.toNat ++ leBytes 8 c.value0.toNat ++ leBytes 8 c.value1.toNat ++
    leBytes 2 c.status ++ leBytes 1 c.kind ++ leBytes 1 (completionFlags c.origin c.final phase) ++ leBytes 2 c.command ++
    leBytes 2 c.ctx ++ leBytes 4 c.stamp.toNat ++ leBytes 4 c.fault.toNat ++ leBytes 8 c.tick ++ leBytes 4 k)

/-- Whether a mailbox is bound, to a connection or to a UDP source. -/
def Mailbox.bound (b : Mailbox) : Bool := b.binding.isSome || b.udp.isSome

/-- Records waiting: those not written, and on the UDP carrier those the owner has not acknowledged. -/
def Mailbox.waiting (b : Mailbox) : Nat := b.pend.length + b.records.length

/-- Write the first pending record where the ring of the bound connection has room (R466): the mailbox and the write. -/
def Mailbox.writeOne (b : Mailbox) (q : Binding) : Option (Mailbox × OutOp) :=
  match b.pend with
  | [] => none
  | c :: rest =>
    let k := b.written.toNat
    if (b.written - b.cqCons).toNat < q.entries then
      some ({ b with pend := rest, written := b.written + 1 },
        .write (q.cqAddr + 64 * (k % q.entries)) q.cqRkey (c.bytes k (phaseOf k q.entries)))
    else none

/-- Number the first pending record of a mailbox on the UDP carrier (R470). -/
def Mailbox.numberOne (b : Mailbox) : Mailbox :=
  match b.pend with
  | [] => b
  | c :: rest =>
    let k := b.written.toNat
    { b with pend := rest, written := b.written + 1, records := b.records ++ [c.bytes k (phaseOf k 65536)] }

/-- Write what the mailbox's carrier lets be written, at most `n` records. -/
def State.flushMailbox (s : State) (mb : Nat) : Nat → State
  | 0 => s
  | n + 1 =>
    let b := s.mailbox mb
    match b.binding with
    | some q =>
      if s.qpUsable q.qpn then
        match b.writeOne q with
        | some (b', op) => ((s.setMailbox mb b').postOp q.qpn op).flushMailbox mb n
        | none => s
      else s
    | none => if b.udp.isSome then (s.setMailbox mb b.numberOne).flushMailbox mb n else s

/-- A closing mailbox without pending records is unbound (R483). -/
def Mailbox.settleClosing (b : Mailbox) : Mailbox :=
  if b.closing && b.pend.isEmpty then { b with binding := none, closing := false } else b

/-- Write what can be written of a mailbox's pending store. -/
def State.flush (s : State) (mb : Nat) : State :=
  let s1 := s.flushMailbox mb (s.mailbox mb).pend.length
  s1.setMailbox mb (s1.mailbox mb).settleClosing

/-- Post a completion to a mailbox's pending store and write what can be written (R467). -/
def State.post (s : State) (mb : Nat) (c : Completion) : State :=
  let b := s.mailbox mb
  (s.touchRegion.setMailbox mb { b with pend := b.pend ++ [c] }).flush mb

/-- The ticket of a message of a mailbox. -/
def ticketOf (mb : Nat) (m : List Byte) : Ticket := ⟨mb, BitVec.ofNat 64 (msgTag m), msgCommand m, msgContext m⟩

/-- One completion of a ticket's message (R474, R475). -/
structure Answer where
  kind : Nat
  item : Nat
  value0 : Nat
  value1 : Nat
  status : Nat
  origin : Bool
  final : Bool
  stamp : Word
  fault : Word
  deriving DecidableEq, Repr

/-- A COMMAND record with two results. -/
def Answer.command (status v0 v1 : Nat) : Answer := ⟨0, 0, v0, v1, status, false, true, 0, 0⟩

/-- Post an answer to a ticket's mailbox. A ticket of command 0 is silent: a member's part of what its queen ordered. -/
def State.answer (s : State) (t : Ticket) (a : Answer) : State :=
  if t.command = 0 then s
  else s.post t.mb ⟨t.tag, BitVec.ofNat 64 a.item, BitVec.ofNat 64 a.value0, BitVec.ofNat 64 a.value1, a.status, a.kind, a.origin,
    a.final, t.command, t.ctx, a.stamp, a.fault, s.now⟩

/-- End a ticket's message with one COMMAND record. -/
def State.finish (s : State) (t : Ticket) (status v0 v1 : Nat) : State := s.answer t (.command status v0 v1)

/-! ### Events (R468, R489) -/

/-- Write one event or PAGE record to a mailbox, or count it lost (R468). -/
def State.eventTo (s : State) (mb kind item v0 v1 status ctx : Nat) : State :=
  let b := s.mailbox mb
  if 16384 ≤ b.waiting then s.setMailbox mb { b with lost := b.lost + 1 }
  else
    let item' := if kind = 6 then item + b.lost % 2 ^ 32 * 2 ^ 32 else item
    let s1 := s.setMailbox mb { b with lost := if kind = 6 then 0 else b.lost }
    s1.post mb ⟨0, BitVec.ofNat 64 item', BitVec.ofNat 64 v0, BitVec.ofNat 64 v1, status, kind, false, false, 0, ctx, 0, 0, s.now⟩

/-- Write an event to every bound admin mailbox. -/
def State.eventAdmin (s : State) (code v0 v1 : Nat) : State :=
  (List.range 8).foldl (fun t mb => if (t.mailbox mb).bound then t.eventTo mb 6 code v0 v1 0 0 else t) s

/-- Write an event to a context's mailbox. -/
def State.eventCtx (s : State) (ctx code v0 v1 : Nat) : State := s.eventTo (ctx + 16) 6 code v0 v1 0 ctx

/-! ### Ring heads -/

/-- Whether the Keeper serves messages: the boot ROM after its PLLs lock, or running firmware. -/
def State.serving (s : State) : Bool :=
  match s.keeper.mode with
  | .bootRom => decide (2 ≤ s.keeper.startStep)
  | .running => true
  | .restarting => false
  | .halted => false

/-- Slot `k` of a ring, by count. -/
def Mailbox.slotBytes (b : Mailbox) (k : Nat) : List Byte := slice (tgetD b.ring (k % 256) []) 0 256

/-- `n` slots from count `k` on. -/
def Mailbox.slotsFrom (b : Mailbox) (k : Nat) : Nat → List Byte
  | 0 => []
  | n + 1 => b.slotBytes k ++ b.slotsFrom (k + 1) n

/-- Whether a message's header states the latency-critical class (R31). -/
def msgLc (m : List Byte) : Bool := bitAt (msgFlags m) 0

/-- Slots up to count `prod` are announced at tick `now`. -/
def Mailbox.announce (b : Mailbox) (prod : Word) (now : Nat) : Mailbox :=
  if prod = b.prod then b else { b with prod := prod, arrivals := b.arrivals ++ [(prod, now)] }

/-- The slots announced and not consumed. -/
def Mailbox.announced (b : Mailbox) : Nat := (b.prod - b.cons).toNat

/-- Whether a mailbox can have a message consumed: served, not stopped, no earlier message waiting. -/
def State.ready (s : State) (mb : Nat) : Bool :=
  let b := s.mailbox mb
  s.serving && b.bound && !b.stopped && !b.busy && decide (0 < b.announced)

/-- LENGTH of the message at the head. -/
def Mailbox.headLength (b : Mailbox) : Nat := field (b.slotBytes b.cons.toNat) 0 4

/-- Whether the head message's slots are not all announced. -/
def Mailbox.headPartial (b : Mailbox) : Bool := decide (b.announced < (b.headLength + 255) / 256)

/-- Whether the head message's LENGTH stops the mailbox (R464). A UDP datagram announces no SQ_PROD, so on that carrier a
message whose slots have not all come is awaited. -/
def Mailbox.headUnfit (b : Mailbox) : Bool :=
  let n := b.headLength
  decide (n < 32) || decide (4096 < n) || (b.binding.isSome && b.headPartial)

/-- The message at the head, by its LENGTH. -/
def Mailbox.headMessage (b : Mailbox) : List Byte := (b.slotsFrom b.cons.toNat ((b.headLength + 255) / 256)).take b.headLength

/-- Stop a mailbox and post MAILBOX_STOPPED (R464). -/
def State.stopMailbox (s : State) (mb : Nat) : State :=
  let b := s.mailbox mb
  if b.stopped then s
  else
    let s1 := (s.setMailbox mb { b with stopped := true }).eventAdmin 0x0007 mb b.announced
    if 16 ≤ mb then s1.eventCtx (mb - 16) 0x0007 mb b.announced else s1

/-- Consume the head message: C advances, and C is written to the owner's SQ consumer word (R465). -/
def State.consume (s : State) (mb : Nat) (m : List Byte) : State :=
  let b := s.mailbox mb
  let c := b.cons + BitVec.ofNat 32 (msgSlots m)
  let s1 := s.setMailbox mb { b with cons := c, arrivals := b.arrivals.filter fun a => a.1 != c && decide ((a.1 - c).toNat ≤ 256) }
  match b.binding with
  | some q => s1.postOp q.qpn (.write q.sqcAddr q.sqcRkey (leBytes 4 c.toNat))
  | none => s1

/-! ### The common checks (Table 12.7) -/

/-- Whether the level and power state permit a command on a mailbox (Tables 15.10, 15.11 and 14.5, R496,
R540, R541). -/
def State.permits (s : State) (mb code : Nat) : Bool :=
  if s.bootRom then
    mb == 0 && (s.mailbox 0).udp.isSome && (code == 0x0001 || (code == 0x0060 && s.keeper.startFail == 0))
  else
    let levels :=
      if code == 0x0063 || code == 0x0064 then decide (1 ≤ s.propolis.level)
      else if code == 0x0065 then decide (mb < 8) || decide (1 ≤ s.propolis.level)
      else true
    levels && (!s.guard.cfgLost || code == 0x0001 || code == 0x0063 || code == 0x0065) && s.propolis.wiping.isNone &&
      (s.keeper.powerState != 2 || [0x0062, 0x0001, 0x0063, 0x0065].contains code)

/-- Whether a mailbox accepts a command (Table 12.10). -/
def acceptsCommand (mb : Nat) (r : CommandRow) : Bool := if mb < 8 then r.admin else if mb < 12 then r.debug else r.context

/-- Commands that a set lock bit rejects at check 4 (Table 15.8): CTX_CREATE, CTX_RELEASE and CTX_SET under CONTEXT_TABLE. -/
def State.lockedCommand (s : State) (code : Nat) : Bool :=
  bitAt s.propolis.lock.toNat 1 && (code == 0x0010 || code == 0x0011 || code == 0x0012)

/-- Whether a context exists and is not being released (R483). -/
def State.ctxServed (s : State) (c : Nat) : Bool := (s.ctx c).any fun x => x.releasing.isNone

/-- Checks 2 to 5 of Table 12.7 on a message whose CRC holds and whose COMMAND is in Table 12.10: the status of the first
check that fails. -/
def State.commonCheck (s : State) (mb : Nat) (m : List Byte) (r : CommandRow) : Option Nat :=
  if msgInterface m != 0x0100 || decide (1 < msgFlags m) || !zeroAt m 20 8 || msgLength m != commandLength m ||
      !s.bodyOk mb m then some stBad
  else if !acceptsCommand mb r || !s.permits mb r.code || (decide (16 ≤ mb) && msgContext m != mb - 16) ||
      ((addressesContext r.code || decide (16 ≤ mb)) && !s.ctxServed (msgContext m)) then some stNotPermitted
  else if s.lockedCommand r.code then some stLocked
  else if r.queen && !s.isQueen then some stNotPermitted
  else none

/-- The kind and item of the one completion of a message that ends at the checks (R473, Table 12.9). -/
def rejectKind (m : List Byte) : Nat × Nat :=
  if msgCommand m = 0x0101 then (1, field m 32 8)
  else if msgCommand m = 0x0050 then (2, 0)
  else if msgCommand m = 0x0048 then (4, field m 32 4)
  else (0, 0)

/-- End a message with a status before it submits its item. -/
def State.reject (s : State) (mb : Nat) (m : List Byte) (status : Nat) : State :=
  s.answer (ticketOf mb m) ⟨(rejectKind m).1, (rejectKind m).2, 0, 0, status, false, true, 0, 0⟩

/-- Consume head messages that no row of the table names: a bad CRC or an unknown COMMAND is rejected (checks 1 and 2); a
LENGTH of R464 stops the mailbox. At most `n` messages. -/
def State.settleN (s : State) (mb : Nat) : Nat → State
  | 0 => s
  | n + 1 =>
    if !s.ready mb then s
    else
      let b := s.mailbox mb
      if b.headUnfit then s.stopMailbox mb
      else
        let m := b.headMessage
        if b.headPartial then s
        else if crcOkAt m 28 && (commandRow (msgCommand m)).isSome then s
        else if 16384 < b.waiting + 1 then s
        else ((s.consume mb m).reject mb m stBad).settleN mb n

/-- Consume the head messages of a mailbox that no row names. -/
def State.settle (s : State) (mb : Nat) : State := s.settleN mb 256

/-- The message at the head of mailbox `mb` and its command's row when it can be consumed (R465, R467): a request at the Keeper's mailbox
service. -/
def State.headRequest (s : State) (mb : Nat) : Option (List Byte × CommandRow) :=
  let b := s.mailbox mb
  let m := b.headMessage
  match commandRow (msgCommand m) with
  | none => none
  | some r =>
    if s.ready mb && !b.headUnfit && !b.headPartial && crcOkAt m 28 && decide (b.waiting + r.bound ≤ 16384) then some (m, r) else none

/-- The tick at which the head message was whole: its last slot announced. -/
def Mailbox.headArrival (b : Mailbox) : Nat :=
  ((b.arrivals.find? fun a => decide ((b.headLength + 255) / 256 ≤ (a.1 - b.cons).toNat)).map Prod.snd).getD 0

/-- The class, arrival and index of a mailbox's head message (R29, R31, Table 1.7). -/
def State.headKey (s : State) (mb : Nat) : Bool × Nat × Nat :=
  let b := s.mailbox mb
  (msgLc b.headMessage, b.headArrival, mb)

/-- Whether the Keeper's mailbox service grants mailbox `mb` before every other whose head waits (R29, Table 1.7). -/
def State.granted (s : State) (mb : Nat) : Bool :=
  s.mailboxes.all fun e => e.1 == mb || (s.headRequest e.1).isNone || grantsBefore (s.headKey mb) (s.headKey e.1)

/-- The message at the head of mailbox `mb` when it is a command of code `code` and the service grants it. -/
def State.headCommand (s : State) (mb code : Nat) : Option (List Byte × CommandRow) :=
  match s.headRequest mb with
  | none => none
  | some (m, r) => if msgCommand m == code && s.granted mb then some (m, r) else none

/-- Work submitted in P1 returns the module to P0 (R560): a load, turn, learning step, capture, restore or admission that is accepted, and
a DEBUG_UNLOCK whose token is (R587). One that is rejected changes nothing (R10). -/
def State.wake (s : State) : State :=
  if s.keeper.powerState = 1 then { s with keeper := { s.keeper with powerState := 0 } } else s

/-- What every mailbox command shares: consume the head message, end it at the first common check that fails, else carry it
out by `k`; then settle the mailbox. Where the head is not this command, or another mailbox's head is granted first, nothing happens and
it waits on (R30, assumption 6). -/
def State.serve (s : State) (mb code : Nat) (k : State → List Byte → Ticket → State) : State :=
  match s.headCommand mb code with
  | none => s
  | some (m, r) =>
    match s.commonCheck mb m r with
    | some status => ((s.consume mb m).reject mb m status).settle mb
    | none => (k (s.consume mb m) m (ticketOf mb m)).settle mb

/-! ### Windows -/

/-- Write bytes at an offset of a registration by RDMA WRITE (R478). -/
def State.writeWindow (s : State) (dom : Nat) (w : Window) (data : List Byte) : State :=
  match s.registration dom w.reg with
  | none => s
  | some r => s.postOp r.qpn (.write (r.addr + w.offset) r.rkey data)

/-- Whether a window's connection can carry it (R454). -/
def State.windowLive (s : State) (dom : Nat) (w : Window) : Bool :=
  match s.registration dom w.reg with
  | none => false
  | some r => s.qpUsable r.qpn

/-- Read a command's window by RDMA READ: the message waits, and its mailbox with it, until the response (R465, R478). -/
def State.readWindow (s : State) (t : Ticket) (m : List Byte) (w : Window) : State :=
  match s.registration (domainOf t.mb) w.reg with
  | none => s.finish t stLinkDown 0 0
  | some r =>
    if s.qpUsable r.qpn then
      let s1 := s.setMailbox t.mb { s.mailbox t.mb with busy := true }
      let s2 : State := { s1 with readings := s1.readings ++ [Reading.mk t.mb m] }
      s2.postOp r.qpn (.read (r.addr + w.offset) r.rkey w.length (.window t.mb))
    else s.finish t stLinkDown 0 0

/-- An outbound read whose response no longer counts. -/
def OutOp.abandon (f : ReadPurpose → Bool) : OutOp → OutOp
  | .read addr rkey len why => .read addr rkey len (if f why then .abandoned else why)
  | .write addr rkey data => .write addr rkey data

/-- Abandon the outstanding reads of some purposes. -/
def State.abandonReads (s : State) (f : ReadPurpose → Bool) : State :=
  { s with port := { s.port with qps := s.port.qps.map fun e =>
    (e.1, { e.2 with
      unacked := e.2.unacked.map fun u => { u with op := u.op.abandon f }
      queued := e.2.queued.map (OutOp.abandon f) }) } }

/-- The message that waits for a read on mailbox `mb`, with the wait ended. -/
def State.endReading (s : State) (mb : Nat) : Option (List Byte × State) :=
  match s.readings.find? fun r => r.mb == mb with
  | none => none
  | some r =>
    let s1 := { s with readings := s.readings.filter fun x => x.mb != mb }
    some (r.message, s1.setMailbox mb { s1.mailbox mb with busy := false })

end Sys2Proof.Machine
end

