-- ==== Sys2Proof/Machine/Packets.lean ====
section
/-! DEFINITION. Packets of the device links (R418 to R423): headers, credits and sending, topologies and routes (R425 to R427), and
Keeper messages between members. -/

namespace Sys2Proof.Machine

/-! ### Header fields (Table 11.1) -/

/-- TYPE. -/
def pkType (b : List Byte) : Nat := field b 0 1
/-- FLAGS. -/
def pkFlags (b : List Byte) : Nat := field b 1 1
/-- VC. -/
def pkVc (b : List Byte) : Nat := bits (pkFlags b) 1 0
/-- SRC. -/
def pkSrc (b : List Byte) : Nat := field b 2 1
/-- DST. -/
def pkDst (b : List Byte) : Nat := field b 3 1
/-- EPOCH. -/
def pkEpoch (b : List Byte) : Nat := field b 4 4
/-- STAMP. -/
def pkStamp (b : List Byte) : Nat := field b 8 4
/-- The context. -/
def pkCtx (b : List Byte) : Nat := bits (field b 12 4) 8 0
/-- UNITS. -/
def pkUnits (b : List Byte) : Nat := bits (field b 12 4) 17 9
/-- ADDR. -/
def pkAddr (b : List Byte) : Nat := field b 16 8
/-- TAG. -/
def pkTag (b : List Byte) : Nat := field b 24 2
/-- LSEQ. -/
def pkSeq (b : List Byte) : Nat := field b 26 2
/-- The payload. -/
def pkPayload (b : List Byte) : List Byte := slice b 32 (32 * pkUnits b)

/-- A packet's bytes with its CRC. -/
def packet (ty flags src dst epoch stamp ctx addr tag seq : Nat) (payload : List Byte) : List Byte :=
  let units := payload.length / 32
  let head := leBytes 1 ty ++ leBytes 1 flags ++ leBytes 1 src ++ leBytes 1 dst ++ leBytes 4 epoch ++ leBytes 4 stamp ++
    leBytes 4 (ctx % 512 + 512 * units) ++ leBytes 8 addr ++ leBytes 2 tag ++ leBytes 2 seq
  head ++ leBytes 4 (crc32c (head ++ zeros 4 ++ payload)) ++ payload

/-- A packet as sent again on a link: a fresh LSEQ and CRC, and the sub-channel of the hop (R420, R423). -/
def repacket (b : List Byte) (seq : Nat) (sub : Bool) : List Byte :=
  packet (pkType b) (setBits (pkFlags b) 2 2 (b2n sub)) (pkSrc b) (pkDst b) (pkEpoch b) (pkStamp b) (pkCtx b) (pkAddr b) (pkTag b)
    seq (pkPayload b)

/-- The buffer of R421 that a packet takes: VC0, VC1-A, VC1-B, VC2-A, VC2-B, VC3. -/
def pkBuffer (b : List Byte) : Nat :=
  let sub := b2n (bitAt (pkFlags b) 2)
  match pkVc b with
  | 0 => 0
  | 1 => 1 + sub
  | 2 => 3 + sub
  | _ => 5

/-- Credit of a packet's whole length, in units of 256 bytes. -/
def pkCredit (b : List Byte) : Nat := (b.length + 255) / 256

/-! ### Topology and routes (R425 to R427) -/

/-- TOPOLOGY. -/
def State.topology (s : State) : Nat := bits s.cascade.group.toNat 57 56

/-- R of a torus. -/
def State.torusRows (s : State) : Nat := bits s.cascade.group.toNat 60 58 + 1

/-- C of a torus. -/
def State.torusCols (s : State) : Nat := s.groupSize / s.torusRows

/-- The position and link that Table 11.4 gives for link `k` of position `p`. -/
def State.wiring (s : State) (p k : Nat) : Option (Nat × Nat) :=
  let g := s.groupSize
  match s.topology with
  | 1 => some (if k % 2 = 0 then ((p + 1) % g, k + 1) else ((p + g - 1) % g, k - 1))
  | 2 =>
    let c := s.torusCols
    let r := s.torusRows
    let x := p % c
    let y := p / c
    some (match k with
      | 0 => (y * c + (x + 1) % c, 1)
      | 1 => (y * c + (x + c - 1) % c, 0)
      | 2 => ((y + 1) % r * c + x, 3)
      | _ => ((y + r - 1) % r * c + x, 2))
  | 3 => if k + 1 < g then some ((p + k + 1) % g, g - 2 - k) else none
  | _ => none

/-- Whether the shorter way from coordinate `a` to `b` of `n` is positive, positive on a tie. -/
def goesUp (a b n : Nat) : Bool := decide (2 * ((b + n - a) % n) ≤ n)

/-- The links of a minimal first hop to `dst`, in the order R427 tries; then its other routes. -/
def State.routes (s : State) (dst : Nat) : List Nat :=
  let p := s.position
  let g := s.groupSize
  match s.topology with
  | 1 => if goesUp p dst g then [0, 2, 1, 3] else [1, 3, 0, 2]
  | 2 =>
    let c := s.torusCols
    let x := if goesUp (p % c) (dst % c) c then [0, 1] else [1, 0]
    let y := if goesUp (p / c) (dst / c) s.torusRows then [2, 3] else [3, 2]
    if p % c = dst % c then y ++ x else if p / c = dst / c then x ++ y else x ++ y
  | 3 => (List.range 4).filter fun k => (s.wiring p k).map Prod.fst == some dst
  | _ => []

/-- The link of a later hop of a packet that arrived on `from'` (R426). -/
def State.hop (s : State) (dst from' : Nat) : Option Nat :=
  match s.topology with
  | 1 => some (2 * (from' / 2) + if goesUp s.position dst s.groupSize then 0 else 1)
  | _ => (s.routes dst).head?

/-- The links that a later hop of a CONTROL packet tries, in order (R427): on along its ring dimension until that coordinate is
right, by the same pair or its parallel, then those of its other routes. -/
def State.controlHops (s : State) (dst from' : Nat) : List Nat :=
  let on := if from' % 2 = 1 then from' - 1 else from' + 1
  match s.topology with
  | 1 => [on, (on + 2) % 4] ++ s.routes dst
  | 2 =>
    let c := s.torusCols
    let there := if from' < 2 then s.position % c == dst % c else s.position / c == dst / c
    if there then s.routes dst else on :: s.routes dst
  | _ => s.routes dst

/-- Whether a hop from this position on link `k` crosses the dateline of its ring dimension (R423). -/
def State.crosses (s : State) (k : Nat) : Bool :=
  let p := s.position
  match s.topology with
  | 1 => let q := ((s.wiring p k).map Prod.fst).getD p
    (p == s.groupSize - 1 && q == 0) || (p == 0 && q == s.groupSize - 1)
  | 2 =>
    let c := s.torusCols
    let q := ((s.wiring p k).map Prod.fst).getD p
    let a := if k < 2 then p % c else p / c
    let b := if k < 2 then q % c else q / c
    let n := if k < 2 then c else s.torusRows
    (a == n - 1 && b == 0) || (a == 0 && b == n - 1)
  | _ => false

/-! ### Sending (R421, R422) -/

/-- Take credit from a link's buffer. -/
def Link.spend (l : Link) (i n : Nat) : Link := { l with credits := l.credits.set i ((l.credits[i]?).getD 0 - n) }

/-- Whether a packet comes before another in a link's transmit queue (R29, Table 1.7). -/
def queuedBefore (x y : Nat × List Byte) : Bool :=
  grantsBefore (bitAt (pkFlags x.2) 3, x.1, pkCtx x.2) (bitAt (pkFlags y.2) 3, y.1, pkCtx y.2)

/-- The first packet of a transmit queue whose buffer has credit for it; a packet without credit holds back those behind it for the same
buffer (R421). -/
def firstWithCredit (credits : List Nat) : List Nat → List (Nat × List Byte) → Option (Nat × List Byte)
  | _, [] => none
  | shut, x :: rest =>
    let i := pkBuffer x.2
    if shut.contains i then firstWithCredit credits shut rest
    else if pkCredit x.2 ≤ (credits[i]?).getD 0 then some x
    else firstWithCredit credits (i :: shut) rest

/-- Send the packets that wait on a link while credit lasts, in the order of R29; the others wait on. -/
def State.pumpLink (s : State) (k : Nat) : Nat → State
  | 0 => s
  | n + 1 =>
    let l := s.link k
    match firstWithCredit l.credits [] l.waiting with
    | none => s
    | some x =>
      let b := x.2
      let b' := repacket b l.nextSeq (bitAt (pkFlags b) 2)
      let l' := { l.spend (pkBuffer b) (pkCredit b) with
        waiting := l.waiting.erase x
        unacked := l.unacked ++ [b']
        nextSeq := (l.nextSeq + 1) % 65536
        bytes := l.bytes + 32 * pkUnits b }
      let s1 := s.setLink k l'
      State.pumpLink { s1 with dlSent := s1.dlSent ++ [(k, b')] } k n

/-- Queue a packet on a link that is up, and send what may be sent. -/
def State.sendOn (s : State) (k : Nat) (b : List Byte) : State :=
  let l := s.link k
  if l.up then (s.setLink k { l with waiting := enqueue queuedBefore l.waiting (s.now, b) }).pumpLink k (l.waiting.length + 1) else s

/-- Send a packet as its originator on the first of some links that is up. -/
def State.originate (s : State) (links : List Nat) (b : List Byte) : State :=
  match links.find? fun k => (s.link k).up && (s.link k).matched with
  | some k => s.sendOn k (repacket b 0 (s.crosses k))
  | none => s

/-- A LACK on link `k`: credit freed by buffer, the last LSEQ received in order, and NAK (Table 11.2). -/
def State.sendLack (s : State) (k : Nat) (freed : Option (Nat × Nat)) (nak : Bool) : State :=
  let l := s.link k
  let addr := (match freed with | some (i, n) => n % 256 * 2 ^ (8 * i) | none => 0) + b2n nak * 2 ^ 48
  let last := (l.expectSeq + 65535) % 65536
  { s with dlSent := s.dlSent ++ [(k, packet 7 0 s.position l.peer s.cascade.epoch.toNat 0 0 addr last 0 [])] }

/-- The bytes of a Keeper message: its kind and fields decide them; the manual does not give the format (R422). -/
def keeperMessage (kind : Nat) (fields : List Byte) : List Byte :=
  let b := Config.freeBytes (256 + kind) fields
  slice b 0 (32 * min 256 ((b.length + 31) / 32))

/-- Whether a Keeper message is one whose STALE answer ends a step (Table 11.6): a step descriptor, STAGED, REPLAY, COMMIT or ROLLBACK. -/
def endsStep (kind : Nat) : Bool := [1, 3, 4, 6, 7].contains kind

/-- Note the tag of a Keeper message with the context of its step, where a STALE answer to it ends that step. -/
def Cascade.ask (c : Cascade) (kind ctx : Nat) : Cascade :=
  let old := c.asked.filter fun x => x.1 != c.nextTag
  { c with nextTag := (c.nextTag + 1) % 65536, asked := if endsStep kind then old ++ [(c.nextTag, ctx)] else old }

/-- Send a Keeper message by CONTROL to a position (R427), at the class of the work that issues it; a message of a step has its context
first among its fields. -/
def State.tell (s : State) (pos kind : Nat) (fields : List Byte) : State :=
  if pos = s.position then s
  else ({ s with cascade := s.cascade.ask kind (field fields 0 2) } : State).originate (s.routes pos)
    (packet 3 (8 * b2n (endsStep kind && s.workLc (field fields 0 2))) s.position pos s.cascade.epoch.toNat 0 0 0 s.cascade.nextTag 0
      (keeperMessage kind fields))

/-- The positions of the other modules of the group. -/
def State.others (s : State) : List Nat := (List.range s.groupSize).filter fun p => p != s.position

/-- The queen sends a Keeper message to every other module, in increasing position. -/
def State.tellAll (s : State) (kind : Nat) (fields : List Byte) : State :=
  if s.isQueen then s.others.foldl (fun t p => t.tell p kind fields) s else s

/-- Tell the end of an operation that the queen ordered: the queen every member, a member its queen. -/
def State.tellEnd (s : State) (t : Ticket) (status : Nat) : State :=
  let fields := leBytes 2 t.ctx ++ leBytes 8 t.tag.toNat ++ leBytes 2 t.command ++ leBytes 2 status
  if s.isQueen then s.tellAll 17 fields else s.tell s.queenPos 17 fields

/-- Kinds of Keeper messages that the module sends (Tables 11.5 and 11.7, R427 to R447). -/
def kmStepStart : Nat := 1
/-- STEP_END. -/
def kmStepEnd : Nat := 2
/-- STAGED. -/
def kmStaged : Nat := 3
/-- REPLAY. -/
def kmReplay : Nat := 4
/-- REPLAY_RESULT. -/
def kmReplayResult : Nat := 5
/-- COMMIT. -/
def kmCommit : Nat := 6
/-- ROLLBACK. -/
def kmRollback : Nat := 7
/-- ACK. -/
def kmAck : Nat := 8
/-- READY. -/
def kmReady : Nat := 9
/-- ACTIVE. -/
def kmActive : Nat := 10
/-- Heartbeat. -/
def kmHeartbeat : Nat := 11
/-- The clip factor of R364. -/
def kmClip : Nat := 12
/-- A report that a link went down (R446). -/
def kmLoss : Nat := 13
/-- The refusal of COMMIT or ROLLBACK by R444. -/
def kmRefuse : Nat := 14
/-- The successor's set of R433. -/
def kmSuccessor : Nat := 15
/-- An instruction of a turn, load, capture or restore. -/
def kmOrder : Nat := 16
/-- The end of an operation that the queen ordered. -/
def kmOrderEnd : Nat := 17
/-- A member's SRAM is mapped in a turn to learning. -/
def kmTurnReady : Nat := 18
/-- The fate of a member's shard. -/
def kmShard : Nat := 20
/-- The scale table of a turn to generation (step 1 of Table 10.6). -/
def kmScales : Nat := 21
/-- Bytes of a member's micro-batch inputs (R344). -/
def kmInputs : Nat := 22
/-- The cores of a context's mask are suspect (R514). -/
def kmSuspect : Nat := 23
/-- Bytes of the input of a micro-batch that a member replays. -/
def kmReplayInputs : Nat := 24
/-- A capping image to hold, or one sent back (R528, R532). -/
def kmImage : Nat := 19

/-- Answer a packet: by an answer packet to its originator with the packet's TAG. -/
def State.replyTo (s : State) (b : List Byte) (ty addr : Nat) : State :=
  s.originate (s.routes (pkSrc b))
    (packet ty 3 s.position (pkSrc b) s.cascade.epoch.toNat (pkStamp b) (pkCtx b) addr (pkTag b) 0 [])

/-- Answer DONE with a result (Table 11.3). -/
def State.answerDone (s : State) (b : List Byte) (result : Nat) : State := s.replyTo b 4 result

end Sys2Proof.Machine
end

