-- ==== Sys2Proof/Machine/Xlate.lean ====
section
/-! DEFINITION. Context addresses (R215 to R221): translation entries, whether an access is allowed, ranges of bytes, and the
write-protection bits that capping sets. -/

namespace Sys2Proof.Machine

/-- A translation entry as read (Tables 6.2 and 6.3). -/
structure Xent where
  granule : Nat
  valid : Bool
  readonly : Bool
  wp : Nat
  deriving DecidableEq, Repr

/-- Whether a context address lies in the SRAM context range. -/
def inSram (a : Nat) : Bool := decide (a < sramEnd)

/-- Whether an address lies in the LPDDR5X range. -/
def inLp (a : Nat) : Bool := decide (lpBase ≤ a) && decide (a < lpEnd)

/-- The device address of the entry that translates a context address (R216, R217). -/
def State.entryAddr (s : State) (ctx a : Nat) : Nat :=
  let base := s.memCtl.ptBase.toNat + ctx * 0x300000
  if inSram a then base + 4 * (a / 0x10000) else base + 0x100000 + 8 * ((a - lpBase) / 0x200000)

/-- The entry that translates a context address (R216, R217). -/
def State.xent (s : State) (ctx a : Nat) : Xent :=
  if inSram a then
    let v := leNat (s.read (s.entryAddr ctx a) 4)
    ⟨bits v 17 0, bitAt v 18, bitAt v 19, bits v 20 20⟩
  else
    let v := leNat (s.read (s.entryAddr ctx a) 8)
    ⟨bits v 17 0, bitAt v 18, bitAt v 19, bits v 63 32⟩

/-- An entry's encoding. -/
def Xent.encode (sram : Bool) (e : Xent) : Nat :=
  e.granule + b2n e.valid * 2 ^ 18 + b2n e.readonly * 2 ^ 19 + if sram then (e.wp % 2) * 2 ^ 20 else e.wp * 2 ^ 32

/-- Write the entry of a context address. -/
def State.setXent (s : State) (ctx a : Nat) (e : Xent) : State :=
  s.write (s.entryAddr ctx a) (leBytes (if inSram a then 4 else 8) (e.encode (inSram a)))

/-- The Keeper has changed an entry of a context and writes MEM_INVAL for it (R221): with an invalidation of another context in
progress, of every context (assumption 147). -/
def State.invalidate (s : State) (ctx : Nat) : State :=
  let v := s.memCtl.inval.toNat
  let all := bitAt v 31 && (bitAt v 9 || bits v 8 0 != ctx)
  { s with memCtl := { s.memCtl with inval := BitVec.ofNat 32 (2 ^ 31 + if all then 2 ^ 9 else ctx) } }

/-- Whether an invalidation that concerns a context is in progress: no later step of it starts (R221). -/
def State.invalWaits (s : State) (ctx : Nat) : Bool :=
  let v := s.memCtl.inval.toNat
  bitAt v 31 && (bitAt v 9 || bits v 8 0 == ctx)

/-- The Keeper's change of the entry of a context address (R221). -/
def State.changeXent (s : State) (ctx a : Nat) (e : Xent) : State := (s.setXent ctx a e).invalidate ctx

/-- The device address of a context address under an entry (R216). -/
def Xent.device (e : Xent) (a : Nat) : Nat :=
  if inSram a then e.granule * 0x10000 + a % 0x10000 else lpBase + e.granule * 0x200000 + (a - lpBase) % 0x200000

/-- The device address of a context address, where the access is allowed (R215, R216, R218). -/
def State.xlate (s : State) (ctx a : Nat) (write : Bool) : Option Nat :=
  if inSram a || inLp a then
    let e := s.xent ctx a
    if e.valid && !(write && e.readonly) then some (e.device a) else none
  else none

/-- Whether a context address lies in a protection granule with WP set (Table 6.2, Table 6.3). -/
def State.wpSet (s : State) (ctx a : Nat) : Bool :=
  (inSram a || inLp a) && bitAt (s.xent ctx a).wp (if inSram a then 0 else (a - lpBase) / 0x10000 % 32)

/-- Clear the WP bit of a context address's protection granule. -/
def State.clearWp (s : State) (ctx a : Nat) : State :=
  let e := s.xent ctx a
  let k := if inSram a then 0 else (a - lpBase) / 0x10000 % 32
  s.setXent ctx a { e with wp := setBits e.wp k k 0 }

/-- Set the WP bit of a context address's protection granule. -/
def State.setWp (s : State) (ctx a : Nat) : State :=
  let e := s.xent ctx a
  let k := if inSram a then 0 else (a - lpBase) / 0x10000 % 32
  s.setXent ctx a { e with wp := setBits e.wp k k 1 }

/-- The 64 KiB-bounded pieces of `n` bytes from `a`, at most `fuel` of them: address and length of each. -/
def pieces (a n : Nat) : Nat → List (Nat × Nat)
  | 0 => []
  | fuel + 1 =>
    if n = 0 then []
    else
      let k := min n (0x10000 - a % 0x10000)
      (a, k) :: pieces (a + k) (n - k) fuel

/-- Every piece of a range. -/
def rangePieces (a n : Nat) : List (Nat × Nat) := pieces a n (n / 0x10000 + 2)

/-- How an address of a frame or packet is taken: in a context, or device-physical (R125). -/
inductive Space where
  | ctx (n : Nat)
  | phys
  deriving DecidableEq, Repr

/-- Device address of an address in a space, where the access is allowed. In the device-physical space a 48-bit address stands for
itself (R17). -/
def State.resolve (s : State) (sp : Space) (a : Nat) (write : Bool) : Option Nat :=
  match sp with
  | .ctx n => s.xlate n a write
  | .phys => if a < 2 ^ 48 then some a else none

/-- The device pieces of a range: where any piece does not resolve, none. -/
def State.resolveRange (s : State) (sp : Space) (a n : Nat) (write : Bool) : Option (List (Nat × Nat)) :=
  (rangePieces a n).mapM fun p => (s.resolve sp p.1 write).map fun d => (d, p.2)

/-- The bytes of a range in a space. -/
def State.readRange (s : State) (sp : Space) (a n : Nat) : Option (List Byte) :=
  (s.resolveRange sp a n false).map fun ps => ps.flatMap fun p => s.read p.1 p.2

/-- Write device pieces one after another from a run of bytes: a write outside the memory tiers has no effect (R19). -/
def State.writePieces (s : State) : List (Nat × Nat) → List Byte → State
  | [], _ => s
  | (d, n) :: rest, b => (if isMemory d then s.write d (b.take n) else s).writePieces rest (b.drop n)

/-- Write a range in a space. -/
def State.writeRange (s : State) (sp : Space) (a : Nat) (b : List Byte) : Option State :=
  (s.resolveRange sp a b.length true).map fun ps => s.writePieces ps b

/-- Whether any piece of a range is write-protected for capping (R219). -/
def State.rangeHeld (s : State) (sp : Space) (a n : Nat) : Bool :=
  match sp with
  | .ctx c => (rangePieces a n).any fun p => s.wpSet c p.1
  | .phys => false

/-- The bytes of a context range as the Keeper reads them; zeros where the range does not resolve. -/
def State.readCtx (s : State) (ctx a n : Nat) : List Byte := (s.readRange (.ctx ctx) a n).getD (zeros n)

/-! ### Capping copies (R526 to R531) -/

/-- The granules an image copies, in list order. -/
def Capping.copied (c : Capping) : List Nat := (c.entries.filter fun e => decide (e.kind ≤ 1)).map CapEntry.addr

/-- DATA_OFFSET of an image (Table 13.6). -/
def Capping.dataOffset (c : Capping) : Nat := (64 + c.metaBytes + 24 * c.entries.length + 0xFFFF) / 0x10000 * 0x10000

/-- LENGTH of an image. -/
def Capping.imageBytes (c : Capping) : Nat := c.dataOffset + 0x10000 * c.copied.length

/-- The position that holds this module's image of a capture to a peer (R528). -/
def State.capTarget (s : State) (peer : Nat) : Nat := (s.position + peer + s.groupSize - s.queenPos) % s.groupSize

/-- Write bytes at an offset of this module's image: into its part of the window, or to the peer that holds it. -/
def State.sendPart (s : State) (c : Capping) (off : Nat) (b : List Byte) : State :=
  if c.toPeer then s.tell (s.capTarget c.peer) kmImage (leBytes 2 c.ctx ++ leBytes 8 off ++ b)
  else s.writeWindow 0 ⟨c.reg, c.offset + s.position * (c.length / s.groupSize) + off, b.length⟩ b

/-- Replace the capture or restore. -/
def State.setCap (s : State) (c : Option Capping) : State := { s with guard := { s.guard with cap := c } }

/-- Copy one protected granule to the target and clear its WP. -/
def State.copyGranule (s : State) (c : Capping) (a : Nat) : State :=
  let i := c.copied.findIdx fun x => x == a
  let s1 := s.sendPart c (c.dataOffset + 0x10000 * i) (s.readCtx c.ctx a 0x10000)
  (s1.clearWp c.ctx a).setCap (some { c with left := c.left.filter fun x => x != a })

/-- The first-touch copies that a write of `n` bytes at `a` by the Keeper waits for (R526): they are part of its command. -/
def State.touchCopy (s : State) (ctx a n : Nat) : State :=
  (rangePieces a n).foldl (fun t p =>
    match t.guard.cap with
    | some c =>
      let g := p.1 / 0x10000 * 0x10000
      if c.ctx = ctx ∧ c.left.contains g = true then
        let t1 := t.copyGranule c g
        { t1 with guard := { t1.guard with touch := t1.guard.touch + 1 } }
      else t
    | none => t) s

/-- The Keeper's write of bytes at a context address it has checked; bytes whose range does not resolve are not written. -/
def State.writeCtx (s : State) (ctx a : Nat) (b : List Byte) : State :=
  match (s.touchCopy ctx a b.length).writeRange (.ctx ctx) a b with
  | some s' => s'
  | none => s

/-- The Keeper's write through the device addresses of a context range, READONLY set or not: it writes its own lists so. -/
def State.writeOwned (s : State) (ctx a : Nat) (b : List Byte) : State :=
  match s.resolveRange (.ctx ctx) a b.length false with
  | some ps => (s.touchCopy ctx a b.length).writePieces ps b
  | none => s

/-- The Keeper's zeroing of a context range: every byte of its pieces in the memory tiers reads 0. -/
def State.zeroOwned (s : State) (ctx a n : Nat) : State :=
  match s.resolveRange (.ctx ctx) a n false with
  | some ps => ps.foldl (fun (t : State) p =>
      if isMemory p.1 then { t with mem := memZeroRange t.mem p.1 (p.1 + p.2) } else t) (s.touchCopy ctx a n)
  | none => s

end Sys2Proof.Machine
end

