-- ==== Sys2Proof/Machine/Carrier.lean ====
section
/-! DEFINITION. What arrives at the Ethernet port for the mailboxes (R451 to R471): doorbells, UDP carrier datagrams, inbound
RDMA, congestion, acknowledgements and timeouts of the reliable connections. -/

namespace Sys2Proof.Machine

/-- A frame dropped for its FCS, ICRC or checksum (ETH_DROP.BAD). -/
def State.dropBad (s : State) : State := { s with port := { s.port with drop := addLow s.port.drop 1 } }

/-- A frame dropped for an unknown address, port or connection (ETH_DROP.UNMATCHED). -/
def State.dropUnmatched (s : State) : State := { s with port := { s.port with drop := addHigh s.port.drop 1 } }

/-- Handle an inbound packet on a connection: a packet that fails its integrity checks is dropped as bad, one for no
connection as unmatched, and a connection in ERROR takes nothing (R453, R454). -/
def State.onPacket (s : State) (h : Roce) (k : State → Qp → State) : State :=
  if !h.intact then s.dropBad
  else match s.qp h.qpn with
    | none => s.dropUnmatched
    | some q => if q.error then s else k s q

/-! ### Doorbells (R463, R464) -/

/-- The effect of a doorbell on the mailbox its connection is bound to (R464). -/
def State.doorbell (s : State) (mb : Nat) (body : List Byte) : State :=
  let b := s.mailbox mb
  let prod := BitVec.ofNat 32 (field body 4 4)
  let cons := BitVec.ofNat 32 (field body 8 4)
  let cqOk := decide ((cons - b.cqCons).toNat ≤ (b.written - b.cqCons).toNat)
  let sqOk := decide ((b.prod - b.cons).toNat ≤ (prod - b.cons).toNat) && decide ((prod - b.cons).toNat ≤ 256)
  if !crcOkAt body 12 || field body 0 2 != mb then s.stopMailbox mb
  else if b.stopped then if cqOk then (s.setMailbox mb { b with cqCons := cons }).flush mb else s
  else if !sqOk || !cqOk then s.stopMailbox mb
  else ((s.setMailbox mb ({ b with cqCons := cons }.announce prod s.now)).flush mb).settle mb

/-- DOORBELL: an inbound SEND on a connection (R463, R464). A mailbox that this connection does not serve ignores it (R483);
while the Keeper restarts the doorbell is kept (R547). -/
def execDoorbell (h : Roce) (body : List Byte) (s : State) : Host.Outcome State Fault Refusal :=
  .next (s.onPacket h fun s q =>
    let s1 := s.touchRegion.transmit (.roceAck h.qpn)
    if (s.mailbox q.mb).binding.any fun b => b.qpn == h.qpn then
      if s.keeper.mode = .restarting then
        { s1 with keeper := { s1.keeper with keptDoorbells := s1.keeper.keptDoorbells ++ [(q.mb, body)] } }
      else s1.doorbell q.mb body
    else s1)

/-! ### The UDP carrier (R469 to R471) -/

/-- Whether a datagram has a well-formed carrier header of the kind (Table 12.5). -/
def carrierOk (d : List Byte) (kind : Nat) : Bool :=
  decide (16 ≤ d.length) && field d 0 1 == 1 && field d 1 1 == kind && decide (field d 2 2 ≤ 11) &&
    decide (field d 8 2 ≤ 32) && zeroAt d 10 2 && d.length == 16 + 256 * (if kind = 0 then field d 8 2 else 0)

/-- Whether the first message a SUBMIT carries is whole and passes its CRC (R471). -/
def firstMessageOk (d : List Byte) : Bool :=
  let n := field d 16 4
  decide (1 ≤ field d 8 2) && decide (32 ≤ n) && decide (n ≤ 4096) && decide ((n + 255) / 256 ≤ field d 8 2) &&
    crcOkAt (slice d 16 n) 28

/-- Take the acknowledgement of records (R470). -/
def Mailbox.ackRecords (b : Mailbox) (ack : Word) : Mailbox :=
  let n := (ack - b.cqCons).toNat
  if n ≤ (b.written - b.cqCons).toNat then { b with cqCons := ack, records := b.records.drop n } else b

/-- Take one slot of a SUBMIT whose count follows C without a gap (R470). -/
def Mailbox.takeSlot (b : Mailbox) (now : Nat) (count : Word) (bytes : List Byte) : Mailbox :=
  let off := (count - b.cons).toNat
  if off < 256 && off ≤ b.announced then
    { b with ring := tset b.ring (count.toNat % 256) bytes }.announce (if off < b.announced then b.prod else count + 1) now
  else b

/-- Take the slots of a SUBMIT in order, `n` of them from slot `i`. -/
def Mailbox.takeSlots (b : Mailbox) (now : Nat) (d : List Byte) (i : Nat) : Nat → Mailbox
  | 0 => b
  | n + 1 =>
    (b.takeSlot now (BitVec.ofNat 32 (field d 4 4 + i)) (slice d (16 + 256 * i) 256)).takeSlots now d (i + 1) n

/-- The ANSWER datagram of a mailbox: C and up to 32 records after ACK (R470). -/
def Mailbox.answerBytes (b : Mailbox) (mb : Nat) : List Byte :=
  let rs := b.records.take 32
  leBytes 1 1 ++ leBytes 1 1 ++ leBytes 2 mb ++ leBytes 4 b.cqCons.toNat ++ leBytes 2 rs.length ++ zeros 2 ++
    leBytes 4 b.cons.toNat ++ rs.flatMap id

/-- Serve a datagram for a mailbox from its own source, or drop it (R470, R471). -/
def State.onCarrier (s : State) (src : UdpSource) (mb : Nat) (binds : Bool) (k : State → State) : State :=
  let b := s.mailbox mb
  if b.binding.isSome then s.dropUnmatched
  else match b.udp with
    | some u => if u = src then k s else s.dropUnmatched
    | none => if binds then k (s.setMailbox mb { b with udp := some src }) else s

/-- UDP_SUBMIT: slots taken, but not by a stopped mailbox (R464), messages that no row names consumed, and an ANSWER sent (R470, R471). -/
def execUdpSubmit (src : UdpSource) (sumOk : Bool) (datagram : List Byte) (s : State) : Host.Outcome State Fault Refusal :=
  .next (if !sumOk then s.dropBad
  else if !carrierOk datagram 0 then s
  else
    let mb := field datagram 2 2
    s.touchRegion.onCarrier src mb (firstMessageOk datagram) fun s =>
      let b := (s.mailbox mb).ackRecords (BitVec.ofNat 32 (field datagram 12 4))
      let n := if b.stopped then 0 else field datagram 8 2
      let s1 := ((s.setMailbox mb (b.takeSlots s.now datagram 0 n)).settle mb).flush mb
      s1.transmit (.udp src ((s1.mailbox mb).answerBytes mb)))

/-- UDP_POLL: an ANSWER with C and the records after ACK (R470, R471). -/
def execUdpPoll (src : UdpSource) (sumOk : Bool) (datagram : List Byte) (s : State) : Host.Outcome State Fault Refusal :=
  .next (if !sumOk then s.dropBad
  else if !carrierOk datagram 2 then s
  else
    let mb := field datagram 2 2
    s.touchRegion.onCarrier src mb true fun s =>
      let b := (s.mailbox mb).ackRecords (BitVec.ofNat 32 (field datagram 12 4))
      let s1 := (s.setMailbox mb b).flush mb
      s1.transmit (.udp src ((s1.mailbox mb).answerBytes mb)))

/-! ### Inbound RDMA (R457 to R459) -/

/-- Base of a mailbox's submission-ring window (R458). -/
def windowBase (mb : Nat) : Nat := 0xFF0000000000 + mb * 0x10000

/-- Whether an access lies in the window of mailbox `mb`. -/
def inWindow (mb addr n : Nat) : Bool := decide (windowBase mb ≤ addr) && decide (addr + n ≤ windowBase mb + 0x10000)

/-- The context whose LPDDR5X range an inbound access on a connection reaches (R457, R458). -/
def State.rdmaContext (s : State) (q : Qp) (rkey : Nat) : Option Nat :=
  if 16 ≤ q.mb then if (s.ctx (q.mb - 16)).isSome then some (q.mb - 16) else none
  else if q.mb < 8 then
    if rkey / 512 = q.rkey / 512 && (s.ctx (rkey % 512)).isSome then some (rkey % 512) else none
  else none

/-- Write one byte of a ring by its window offset. -/
def Mailbox.putByte (b : Mailbox) (off : Nat) (v : Byte) : Mailbox :=
  { b with ring := tset b.ring (off / 256 % 256) ((slice (tgetD b.ring (off / 256 % 256) []) 0 256).set (off % 256) v) }

/-- Write bytes into a ring from a window offset on. -/
def Mailbox.putBytes (b : Mailbox) (off : Nat) : List Byte → Mailbox
  | [] => b
  | v :: rest => (b.putByte off v).putBytes (off + 1) rest

/-- RDMA_WRITE_INBOUND: into the submission window, or into the LPDDR5X range of the context, held where capping protects it;
any other address is answered with a remote access NAK (R457 to R459, R219). In P2 no context memory is served (R561). -/
def execRdmaWriteInbound (h : Roce) (addr rkey : Nat) (data : List Byte) (s : State) : Host.Outcome State Fault Refusal :=
  .next (s.onPacket h fun s q =>
    if inWindow q.mb addr data.length then
      (s.touchRegion.setMailbox q.mb ((s.mailbox q.mb).putBytes (addr - windowBase q.mb) data)).transmit (.roceAck h.qpn)
    else if s.keeper.powerState = 2 then s
    else if !inLp addr || !inLp (addr + data.length - 1) then s.transmit (.remoteAccessNak h.qpn)
    else match s.rdmaContext q rkey with
      | none => s.transmit (.remoteAccessNak h.qpn)
      | some c =>
        match s.writeRange (.ctx c) addr data with
        | none => s.transmit (.remoteAccessNak h.qpn)
        | some s' =>
          if s.rangeHeld (.ctx c) addr data.length then
            { s with guard := { s.guard with heldWrites := s.guard.heldWrites ++ [⟨c, addr, data, none, some h.qpn⟩] } }
          else s'.transmit (.roceAck h.qpn))

/-! ### Congestion (R455) -/

/-- Line rate, in the units of a connection's rate. -/
def lineRate : Nat := 65536

/-- Ticks in a microsecond. -/
def usTicks : Nat := 100

/-- CE_MARKED_PACKET: one congestion-notification packet, at most once per CNP_GAP µs per connection (R455). -/
def execCeMarkedPacket (h : Roce) (s : State) : Host.Outcome State Fault Refusal :=
  .next (s.onPacket h fun s q =>
    let due := match q.lastCnp with
      | none => true
      | some t => decide (t + bits s.port.cc.toNat 7 0 * usTicks ≤ s.now)
    if due then (s.setQp h.qpn { q with lastCnp := some s.now }).transmit (.cnp h.qpn) else s)

/-- CNP_RECEIVED: the send rate halves, to no less than line rate / 2^FLOOR (R455). -/
def execCnpReceived (h : Roce) (s : State) : Host.Outcome State Fault Refusal :=
  .next (s.onPacket h fun s q =>
    s.setQp h.qpn { q with rate := max (q.rate / 2) (lineRate / 2 ^ bits s.port.cc.toNat 19 16), calm := s.now })

/-- RATE_RECOVER_EXPIRY: after RECOVER µs without a notification packet, the rate rises by 1/16 of line rate, up to line
rate (R455). -/
def execRateRecoverExpiry (qpn : Nat) (s : State) : Host.Outcome State Fault Refusal :=
  .next (match s.qp qpn with
  | none => s
  | some q =>
    if q.calm + bits s.port.cc.toNat 15 8 * usTicks ≤ s.now then
      s.setQp qpn { q with rate := min lineRate (q.rate + lineRate / 16), calm := s.now }
    else s)

/-! ### Acknowledgement and retransmission (R453) -/

/-- The number of outbound operations at the front that an ACK of `psn` covers: writes up to the first read, whose response
acknowledges it. -/
def Qp.acked (q : Qp) (psn : Nat) : List Unacked → Nat
  | [] => 0
  | u :: rest =>
    let last := u.psn + q.packets u.op - 1
    if !u.op.isRead && decide ((psn + 2 ^ 24 - last % 2 ^ 24) % 2 ^ 24 < 2 ^ 23) then q.acked psn rest + 1 else 0

/-- A connection whose unacknowledged operations have all been sent again at tick `now`. -/
def Qp.resent (q : Qp) (now : Nat) : Qp := { q with unacked := q.unacked.map fun u => { u with sentAt := now } }

/-- Send again every operation of connection `n` not acknowledged, in order (go-back-N); the connection is `q` with them. -/
def State.resend (s : State) (n : Nat) (q : Qp) : State :=
  q.unacked.foldl (fun t u => t.transmit (.roce n u.psn u.op)) (s.setQp n (q.resent s.now))

/-- Whether the oldest unacknowledged operation has waited for the ack timeout, 4.096 µs × 2^ACK_T (Table 12.2), since it was last sent. -/
def Qp.ackDue (q : Qp) (now : Nat) : Bool :=
  q.unacked.head?.any fun u => decide (10 * u.sentAt + 4096 * 2 ^ q.ackT ≤ 10 * now)

/-- ROCE_ACK_RECEIVED: an ACK retires the packets it covers; a sequence NAK retires those before it and starts a go-back-N
retransmission (R453). -/
def execRoceAckReceived (qpn psn : Nat) (nak : Bool) (s : State) : Host.Outcome State Fault Refusal :=
  .next (match s.qp qpn with
  | none => s
  | some q =>
    if q.error then s
    else
      let upto := if nak then (psn + 2 ^ 24 - 1) % 2 ^ 24 else psn
      let q' := { q with unacked := q.unacked.drop (q.acked upto q.unacked), tries := if nak then q.tries else 0 }
      (if nak then s.resend qpn q' else s.setQp qpn q').pump qpn)

/-- ROCE_ACK_TIMEOUT: with an operation outstanding for the timeout and retries left, everything outstanding is sent again (R453). -/
def execRoceAckTimeout (qpn : Nat) (s : State) : Host.Outcome State Fault Refusal :=
  .next (match s.qp qpn with
  | none => s
  | some q =>
    if q.error || !q.ackDue s.now || decide (q.retry ≤ q.tries) then s
    else s.resend qpn { q with tries := q.tries + 1 })

end Sys2Proof.Machine
end

