-- ==== Sys2Proof/Machine/Memory.lean ====
section
/-! DEFINITION. Memory tiers (chapter 6): errors and their reports, granules taken, released and zeroed, retirement, and the
commands of the MEM_ block and of scrubbing. The geometry of the KV pool (R298 to R300) stands here because a memory error
report names KV pages. -/

namespace Sys2Proof.Machine

/-! ### KV pool geometry (R298 to R300) -/

/-- S_tile of a format (Table 4.9). -/
def tileBytes : Nat → Nat
  | 1 => 65536
  | 2 => 32768
  | 3 => 32768
  | 6 => 8832
  | _ => 16512

/-- Round up to a multiple of 2 MiB. -/
def ceil2M (n : Nat) : Nat := (n + 0x1FFFFF) / 0x200000 * 0x200000

/-- Format code of the pool. -/
def CtxRegs.kvFormat (r : CtxRegs) : Nat := bits r.kvGeom.toNat 3 0
/-- LAYERS. -/
def CtxRegs.kvLayers (r : CtxRegs) : Nat := bits r.kvGeom.toNat 15 8 + 1
/-- TCOLS. -/
def CtxRegs.kvTcols (r : CtxRegs) : Nat := bits r.kvGeom.toNat 22 16 + 1
/-- PAGES. -/
def CtxRegs.pages (r : CtxRegs) : Nat := bits r.kvPages.toNat 20 0
/-- LISTS. -/
def CtxRegs.lists (r : CtxRegs) : Nat := bits r.kvLists.toNat 15 0
/-- Bytes of a page in a plane. -/
def CtxRegs.pageBytes (r : CtxRegs) : Nat := r.kvTcols * tileBytes r.kvFormat
/-- Bytes of the list area (R298). -/
def CtxRegs.listArea (r : CtxRegs) : Nat := ceil2M (r.lists * 0x10000)
/-- Bytes of a layer plane (R298). -/
def CtxRegs.planeBytes (r : CtxRegs) : Nat := ceil2M (r.pages * r.pageBytes)
/-- Context address of page `g` in plane `l` (R298, R300). -/
def CtxRegs.pageAddr (r : CtxRegs) (l g : Nat) : Nat := r.kvBase.toNat + r.listArea + l * r.planeBytes + g * r.pageBytes
/-- Bytes of the whole pool (R298). -/
def CtxRegs.poolBytes (r : CtxRegs) : Nat := if r.kvBase = 0 then 0 else r.listArea + r.kvLayers * r.planeBytes

/-- The pages whose rows lie in the context range [a, a + n): per plane, from the page of the first byte to that of the last. -/
def CtxRegs.pagesIn (r : CtxRegs) (a n : Nat) : List Nat :=
  if r.kvBase = 0 || r.pageBytes = 0 then []
  else (List.range r.kvLayers).flatMap fun l =>
    let base := r.pageAddr l 0
    let stop := base + r.pages * r.pageBytes
    if a + n ≤ base || stop ≤ a then []
    else
      let lo := (max a base - base) / r.pageBytes
      let hi := (min (a + n) stop - 1 - base) / r.pageBytes
      (List.range (hi + 1 - lo)).map fun k => lo + k

/-! ### Granules -/

/-- The translation granule of a device address: its first address and size (Table 6.1). -/
def granuleOf (d : Nat) : Nat × Nat :=
  if inSram d then (d / 0x10000 * 0x10000, 0x10000) else (lpBase + (d - lpBase) / 0x200000 * 0x200000, 0x200000)

/-- Insert each number of a list into a rising list. -/
def union (a b : List Nat) : List Nat := b.foldl ninsert a

/-- The first number from `k` on that a rising list lacks. -/
def firstGap (k : Nat) : List Nat → Nat
  | [] => k
  | u :: rest => if u < k then firstGap k rest else if u = k then firstGap (k + 1) rest else k

/-- Keys of a region of context tables in which a VALID byte is listed: the context addresses that context `n` maps to the
device granule at `d` (R216, R217). -/
def State.mappedAt (s : State) (n d : Nat) : List Nat :=
  let base := s.memCtl.ptBase.toNat + n * 0x300000
  s.mem.filterMap fun c =>
    if c.1 < base || base + 0x300000 ≤ c.1 then none
    else
      let o := c.1 - base
      let a :=
        if o < 0x100000 then if o % 4 = 2 then some (o / 4 * 0x10000) else none
        else if (o - 0x100000) % 8 = 2 then some (lpBase + (o - 0x100000) / 8 * 0x200000) else none
      match a with
      | none => none
      | some a =>
        let e := s.xent n a
        if e.valid && e.device a == d then some a else none

/-- The contexts that map the device granule at `d`, each with a context address. -/
def State.mappers (s : State) (d : Nat) : List (Nat × Nat) :=
  s.ctxs.flatMap fun c => (s.mappedAt c.1 d).map fun a => (c.1, a)

/-- First allocatable LPDDR5X granule (R224). -/
def MemCtl.firstAlloc (m : MemCtl) : Nat := 4096 + m.staging

/-- One past the allocatable LPDDR5X granules: the retirement pool begins (R224). -/
def poolFirst : Nat := 259523

/-- The lowest free allocatable LPDDR5X granule (assumption 11), none where capacity lacks. -/
def MemCtl.freeLp (m : MemCtl) : Option Nat :=
  let g := firstGap m.firstAlloc (union m.lpUsed m.lpRetired)
  if g < poolFirst then some g else none

/-- The lowest free granule of the retirement pool. -/
def MemCtl.freePool (m : MemCtl) : Option Nat :=
  let g := firstGap poolFirst (union m.lpUsed m.lpRetired)
  if m.poolFree = 0 then none else if g < 262144 then some g else none

/-- The lowest free granule of a staging region of which `used` are taken. -/
def MemCtl.freeStaging (m : MemCtl) : Option Nat :=
  let g := firstGap 4096 (union m.lpUsed m.lpRetired)
  if g < m.firstAlloc then some g else none

/-- Take `n` LPDDR5X granules from a chooser; none where they are lacking. -/
def MemCtl.takeLp (pick : MemCtl → Option Nat) : Nat → MemCtl → Option (List Nat × MemCtl)
  | 0, m => some ([], m)
  | n + 1, m =>
    match pick m with
    | none => none
    | some g =>
      match MemCtl.takeLp pick n { m with lpUsed := ninsert m.lpUsed g } with
      | none => none
      | some (gs, m') => some (g :: gs, m')

/-- The first free SRAM granule of a slice. -/
def MemCtl.freeInSlice (m : MemCtl) (c : Nat) : Option Nat :=
  let g := firstGap (512 * c) (union m.sramUsed m.sramWithdrawn)
  if g < 512 * (c + 1) then some g else none

/-- A free SRAM granule for slice `c`: the slice itself, else another slice of its comb, else the lowest-numbered comb that has
one (R225). -/
def MemCtl.freeSram (m : MemCtl) (c : Nat) : Option Nat :=
  match m.freeInSlice c with
  | some g => some g
  | none =>
    match (List.range 16).findSome? fun j => m.freeInSlice (c / 16 * 16 + j) with
    | some g => some g
    | none =>
      let g := firstGap 0 (union m.sramUsed m.sramWithdrawn)
      if g < 262144 then some g else none

/-- Map a device granule at a context address (R216, R220, R221). -/
def State.mapGranule (s : State) (ctx a g : Nat) (readonly : Bool) : State := s.changeXent ctx a ⟨g, true, readonly, 0⟩

/-- Map a run of LPDDR5X granules from a context address on. -/
def State.mapRun (s : State) (ctx a : Nat) (readonly : Bool) : List Nat → State
  | [] => s
  | g :: rest => (s.mapGranule ctx a g readonly).mapRun ctx (a + 0x200000) readonly rest

/-- A MEM_ block with the LPDDR5X granules retired or withdrawn at earlier starts, which the Ledger holds: MEM_RETIRE's reset value and
the granules excluded at every start (R237, R238, Table 6.10). -/
def MemCtl.retired (m : MemCtl) (ls : List (Nat × Bool)) : MemCtl :=
  { m with
    lpRetired := (ls.map Prod.fst).foldl ninsert []
    poolFree := 2621 - (ls.filter fun e => !e.2).length
    withdrawn := min 65535 (ls.filter fun e => e.2).length }

/-- Zero a device range (R223). -/
def State.zero (s : State) (lo hi : Nat) : State := { s with mem := memZeroRange s.mem lo hi }

/-! ### Retirement (R232, R236 to R238) -/

/-- The granule number of a device address within its tier. -/
def granuleNumber (d : Nat) : Nat := if inSram d then d / 0x10000 else (d - lpBase) / 0x200000

/-- Whether a granule holds an uncorrectable word. -/
def State.granuleDamaged (s : State) (d : Nat) : Bool :=
  let g := granuleOf d
  s.memCtl.uncorrectable.any fun w => decide (g.1 ≤ w) && decide (w < g.1 + g.2)

/-- Count a retirement of LPDDR5X granule `g`: the pool shrinks, or the loss is a withdrawal (R237, R238). -/
def State.retireLp (s : State) (g : Nat) : State :=
  let m := s.memCtl
  let pool := decide (0 < m.poolFree)
  let s1 := { s with
    memCtl := { m with
      lpRetired := ninsert m.lpRetired g
      lpUsed := m.lpUsed.filter fun x => x != g
      poolFree := m.poolFree - 1
      withdrawn := if pool then m.withdrawn else min 65535 (m.withdrawn + 1) }
    ledger := { s.ledger with lpGranules := s.ledger.lpGranules ++ [(g, !pool)] } }
  s1.report 0x0112 g noUnit

/-- Withdraw SRAM granule `g` (R231, R232). -/
def State.withdrawSram (s : State) (g : Nat) : State :=
  let s1 := { s with memCtl := { s.memCtl with
    sramWithdrawn := ninsert s.memCtl.sramWithdrawn g
    sramUsed := s.memCtl.sramUsed.filter fun x => x != g } }
  s1.report 0x0103 1 (s.positionCore (g / 512))

/-- Point every mapping of the granule at `d` to granule `g` (R232, R236). -/
def State.swapMappings (s : State) (d g : Nat) : State :=
  (s.mappers d).foldl (fun t m => let e := t.xent m.1 m.2; t.changeXent m.1 m.2 { e with granule := g }) s

/-- The spill areas that row segments from `src` on name stand for their copies at `dst` too (R97, assumption 13). -/
def State.carrySpills (s : State) (src dst n : Nat) : State :=
  let here := s.spillOf.filter fun e => decide (src ≤ e.1) && decide (e.1 < src + n)
  { s with spillOf := here.foldl (fun t e => tset t (dst + (e.1 - src)) e.2) s.spillOf }

/-- Copy a device range. -/
def State.copyBytes (s : State) (src dst n : Nat) : State :=
  let old := s.mem.filter fun c => decide (src ≤ c.1) && decide (c.1 < src + n)
  (old.foldl (fun t c => t.write (dst + (c.1 - src)) [c.2]) (s.zero dst (dst + n))).carrySpills src dst n

/-- The granule that takes the place of one that is retired: for SRAM a free one chosen by R225, else one of the retirement pool, else a
free allocatable one (R232, R236, R238). -/
def MemCtl.freshFor (m : MemCtl) (d : Nat) : Option Nat :=
  if inSram d then m.freeSram (d / 0x2000000)
  else match m.freePool with
    | some g => some g
    | none => m.freeLp

/-- The device address of granule `g` of the tier of `d`. -/
def granuleAt (d g : Nat) : Nat := if inSram d then g * 0x10000 else lpBase + g * 0x200000

/-- Enter a granule of the tier of `d` as in use. -/
def State.useGranule (s : State) (d g : Nat) : State :=
  if inSram d then { s with memCtl := { s.memCtl with sramUsed := ninsert s.memCtl.sramUsed g } }
  else { s with memCtl := { s.memCtl with lpUsed := ninsert s.memCtl.lpUsed g } }

/-- Withdraw or retire the granule at `d` (R231, R232, R236). -/
def State.retireGranule (s : State) (d : Nat) : State :=
  if inSram d then s.withdrawSram (granuleNumber d) else s.retireLp (granuleNumber d)

/-- Whether a granule without a mapping is held: by a load, a turn or a peer's image that has taken it. -/
def State.granuleTaken (s : State) (d : Nat) : Bool :=
  (if inSram d then s.memCtl.sramUsed else s.memCtl.lpUsed).contains (granuleNumber d)

/-- The granules of a load or turn with the one at `d` replaced by granule `g`. -/
def swapTaken (d g : Nat) (gs : List (Nat × Nat)) : List (Nat × Nat) :=
  gs.map fun x => if granuleAt x.1 x.2 = d then (x.1, g) else x

/-- Move what is held unmapped in the granule at `d` to granule `g`: its data, and the marks of its words that cannot be read. -/
def State.moveTaken (s : State) (d g : Nat) : State :=
  let e := granuleAt d g
  let s1 := (s.copyBytes d e (granuleOf d).2).useGranule d g
  let hurt := s.memCtl.uncorrectable.filter fun w => decide (d ≤ w) && decide (w < d + (granuleOf d).2)
  { s1 with
    memCtl := { s1.memCtl with uncorrectable := hurt.foldl (fun u w => ninsert u (e + (w - d))) s1.memCtl.uncorrectable }
    turns := { s1.turns with
      loads := s1.turns.loads.map fun l => { l with grans := swapTaken d g l.grans }
      turn := s1.turns.turn.map fun t => { t with grans := swapTaken d g t.grans } }
    guard := { s1.guard with heldGrans := s1.guard.heldGrans.map fun x => if !inSram d && x == granuleNumber d then g else x } }

/-- Mark the granule of a device address for retirement or withdrawal at the next boundaries of the contexts that map it; a
granule with no mapping is retired at once, what it holds for a load or turn having been moved (R231, R232, R236). -/
def State.markGranule (s : State) (d : Nat) : State :=
  let g := (granuleOf d).1
  let n := granuleNumber d
  let gone := if inSram d then s.memCtl.sramWithdrawn.contains n else s.memCtl.lpRetired.contains n
  let pending : State := { s with memCtl := { s.memCtl with
    hardPending := ninsert s.memCtl.hardPending g
    lpPending := if !inSram d && s.granuleDamaged d then ninsert s.memCtl.lpPending n else s.memCtl.lpPending } }
  if gone then s
  else if !(s.mappers g).isEmpty then pending
  else if !s.granuleTaken g then s.retireGranule g
  else match s.memCtl.freshFor g with
    | some x => (s.moveTaken g x).retireGranule g
    | none => pending

/-- Retire one marked granule at the boundary of every context that maps it: one that reads correctable is copied to a
granule of the pool, else to a free allocatable one, and the mappings swap; a damaged one waits for its release. -/
def State.retireMarked (s : State) (busy : Nat → Bool) (d : Nat) : State :=
  let ms := s.mappers d
  let done : State := { s with memCtl := { s.memCtl with hardPending := s.memCtl.hardPending.filter fun x => x != d } }
  if s.granuleDamaged d || ms.isEmpty || ms.any fun m => busy m.1 then s
  else match s.memCtl.freshFor d with
    | none => s
    | some g => (((done.copyBytes d (granuleAt d g) (granuleOf d).2).swapMappings d g).useGranule d g).retireGranule d

/-- Apply the marked retirements that no running step holds off. -/
def State.retireAll (s : State) (busy : Nat → Bool) : State :=
  s.memCtl.hardPending.foldl (fun t d => t.retireMarked busy d) s

/-- A granule that nothing maps or holds any more is zeroed and returns to the free pool, or is retired where it is marked (R223, R232,
R236). -/
def State.freeGranule (s : State) (d : Nat) : State :=
  let n := granuleNumber d
  if s.memCtl.hardPending.contains d then
    State.retireGranule { s with memCtl := { s.memCtl with
      hardPending := s.memCtl.hardPending.filter fun x => x != d
      lpPending := s.memCtl.lpPending.filter fun x => x != n } } d
  else
    let s1 := s.zero d (d + (granuleOf d).2)
    if inSram d then { s1 with memCtl := { s1.memCtl with sramUsed := s1.memCtl.sramUsed.filter fun x => x != n } }
    else { s1 with memCtl := { s1.memCtl with lpUsed := s1.memCtl.lpUsed.filter fun x => x != n } }

/-- Release one mapping of a context: with the last one the granule is zeroed and returns to the free pool, or is retired
where it is marked (R223, R232, R236). -/
def State.unmap (s : State) (ctx a : Nat) : State :=
  let e := s.xent ctx a
  if !e.valid then s
  else
    let d := e.device a
    -- the release of a protected granule's mapping waits for its copies (R526)
    let s0 := s.touchCopy ctx a (granuleOf d).2
    let s1 := s0.changeXent ctx a ⟨0, false, false, 0⟩
    if (s1.mappers d).isEmpty then s1.freeGranule d else s1

/-- Whether a core step of context `c` runs: a generation step that is built and not at its boundary, or a learning pass. -/
def State.ctxRunning (s : State) (c : Nat) : Bool :=
  (s.steps.any fun t => t.ctx == c) || s.learnSteps.any fun t => t.ctx == c && t.running

/-- At a step boundary, apply the marked retirements that no context's core step holds off any more (R232, R236). -/
def State.retireDue (s : State) : State := s.retireAll s.ctxRunning

/-! ### Errors (R226 to R228, R330) -/

/-- Unit of a memory error's Ledger code: the slice's physical core, or 16 × stack + channel (Table 16.4, R22). -/
def State.errorUnit (s : State) (d : Nat) : Nat :=
  if inSram d then s.positionCore (d / 0x2000000) else 16 * bits (d - lpBase) 13 11 + bits (d - lpBase) 17 14

/-- The bytes that one code word covers from a device address's on (Table 6.1): a 32-byte SRAM word or a 64-byte LPDDR5X block. -/
def codeBytes (d : Nat) : Nat := if inSram d then 32 else 64

/-- The first address of the code word that holds a device address. -/
def codeWord (d : Nat) : Nat := d / codeBytes d * codeBytes d

/-- Whether a code word meets a run of device bytes. -/
def wordMeets (w : Nat) (p : Nat × Nat) : Bool := decide (w < p.1 + p.2) && decide (p.1 < w + codeBytes w)

/-- A code word with an uncorrectable error that a read of some device pieces meets (R228). -/
def State.damagedIn (s : State) (ps : List (Nat × Nat)) : Option Nat := s.memCtl.uncorrectable.find? fun w => ps.any (wordMeets w)

/-- A corrected error (R226). -/
def State.memCorrected (s : State) (d : Nat) : State :=
  let s1 := { s with memCtl := { s.memCtl with
    ceCount := if inSram d then addLow s.memCtl.ceCount 1 else addHigh s.memCtl.ceCount 1 } }
  s1.report (if inSram d then 0x0100 else 0x0110) 1 (s.errorUnit d)

/-- MEM_ERR_INFO of a capture. -/
def errInfo (d : Nat) (scrub : Bool) (ctx : Option Nat) (cfg : Bool) : Word :=
  BitVec.ofNat 32 (1 + 2 * b2n (!inSram d) + 4 * b2n scrub + 8 * b2n cfg +
    match ctx with | some c => 16 * c + 8192 | none => 0)

/-- VALUE0 of a PAGE record: the lowest KV page whose rows the granule holds (Table 12.9). -/
def State.pageValue (s : State) (ctx a : Nat) : Nat :=
  match (s.creg ctx).pagesIn a (granuleOf a).2 with
  | [] => 0
  | g :: rest => rest.foldl min g + 2 ^ 20

/-- Mark the KV pages of a context that hold a context address DAMAGED, with the handles that hold them, and empty their hash
entries (R330). A page without references is withdrawn so. -/
def State.damagePages (s : State) (ctx a : Nat) : State :=
  match s.ctx ctx with
  | none => s
  | some c =>
    let hit := (s.creg ctx).pagesIn a 64
    if hit.isEmpty then s
    else
      let p := c.pool
      let drop := p.hashes.filter fun h => hit.contains h.2.page
      let pages := hit.foldl (fun t g =>
        let e := tgetD t g ⟨0, false, false, false, false, ⟨0, 0, 0, 0⟩, []⟩
        tset t g { e with damaged := true, free := false, hashed := false, refs := e.refs - (drop.filter fun h => h.2.page == g).length })
        p.pages
      let handles := p.handles.map fun h =>
        if (tgetD p.lists h.2.list []).any fun en => hit.contains en.2 then (h.1, { h.2 with damaged := true }) else h
      s.setCtx ctx { c with pool := { p with
        pages := pages
        handles := handles
        hashes := p.hashes.filter fun h => !hit.contains h.2.page } }

/-- An uncorrectable error at a device address (R227, R228): counted, captured, entered, reported to host software and to every
context that maps the granule, its code word kept as damaged, and its granule marked (R232, R236). -/
def State.memUncorrectable (s : State) (d : Nat) (scrub : Bool) (ctx : Option Nat) : State :=
  let m := s.memCtl
  let arm := !bitAt m.errInfo.toNat 0
  let s1 := { s with memCtl := { m with
    ueCount := if inSram d then addLow m.ueCount 1 else addHigh m.ueCount 1
    errAddr := if arm then BitVec.ofNat 64 d else m.errAddr
    errInfo := if arm then errInfo d scrub ctx (bitAt m.errInfo.toNat 3) else m.errInfo
    uncorrectable := ninsert m.uncorrectable (codeWord d)
    soft := m.soft.filter fun w => w != codeWord d } }
  let s2 := s1.report (if inSram d then 0x0101 else 0x0111) 1 (s.errorUnit d)
  let s3 := s2.eventAdmin 0x0001 d (b2n (!inSram d))
  let ms := s3.mappers (granuleOf d).1
  let s4 := ms.foldl (fun t m => t.eventTo (m.1 + 16) 5 m.2 (t.pageValue m.1 m.2) 0 stMem m.1) s3
  let s5 := ms.foldl (fun t m => t.damagePages m.1 (m.2 + (d - (granuleOf d).1))) s4
  (s5.markGranule d).retireDue

/-- A corrected error in a read (R226, R232): a word that a scrub read has written back and that is corrected again on its next read
has a hard error, and its granule is marked. -/
def State.readCorrected (s : State) (d : Nat) : State :=
  let w := codeWord d
  let hard := s.memCtl.soft.contains w
  let s1 := s.memCorrected d
  let s2 : State := { s1 with memCtl := { s1.memCtl with soft := s1.memCtl.soft.filter fun x => x != w } }
  if hard then (s2.markGranule d).retireDue else s2

/-- A read of some device pieces with its outcome (R226 to R228): the state after its errors are counted, captured and reported, and
whether it delivered its data. A piece over a code word with a known uncorrectable error meets the error again, whatever the outcome;
words read without an error are no longer awaited by R232. -/
def State.readErrors (s : State) (ps : List (Nat × Nat)) (ctx : Option Nat) (m : MemOutcome) : State × Bool :=
  let clean : State := { s with memCtl := { s.memCtl with soft := s.memCtl.soft.filter fun w => !ps.any (wordMeets w) } }
  match s.damagedIn ps, m with
  | some w, _ => (s.memUncorrectable w false ctx, false)
  | none, .ok => (clean, true)
  | none, .corrected a => (s.readCorrected a, true)
  | none, .uncorrectable a => (s.memUncorrectable a false ctx, false)

/-- A read by the Keeper, a fill or the port: its errors are counted and reported, and no core faults. -/
def State.keeperRead (s : State) (ps : List (Nat × Nat)) (m : MemOutcome) : State := (s.readErrors ps none m).1

/-- RDMA_READ_INBOUND: the bytes of context memory, or a remote access NAK; a read of a window is always answered with the
NAK (R457, R458). The errors of the read are counted and reported (R226, R228); the bytes answered where one is uncorrectable are free
(assumption 142). -/
def execRdmaReadInbound (r : RoceRead) (addr rkey len : Nat) (s : State) : Host.Outcome State Fault Refusal :=
  let h := r.head
  .next (s.onPacket h fun s q =>
    if s.keeper.powerState = 2 then s
    else if !inLp addr || !inLp (addr + len - 1) then s.transmit (.remoteAccessNak h.qpn)
    else match s.rdmaContext q rkey with
      | none => s.transmit (.remoteAccessNak h.qpn)
      | some c =>
        match s.resolveRange (.ctx c) addr len false with
        | none => s.transmit (.remoteAccessNak h.qpn)
        | some ps =>
          let d := ps.flatMap fun p => s.read p.1 p.2
          match s.readErrors ps none r.read with
          | (s1, true) => s1.transmit (.readResponse h.qpn d)
          | (s1, false) => ({ s1 with free := s1.free + 1 } : State).transmit (.readResponse h.qpn (slice (Config.freeBytes s.free d) 0 len)))

/-! ### MEM_ commands (R221, R223, R254) -/

/-- MEM_INVAL: START discards cached translation entries (R221) and reads 1 until it is done; a write without START sets the fields
only. -/
def execMemInval (v : Word) (s : State) : Host.Outcome State Fault Refusal :=
  .next { s with memCtl := { s.memCtl with inval := (v &&& 0x800003FF) ||| (s.memCtl.inval &&& 0x80000000) } }

/-- MEM_INVAL_DONE: every LOAD, STORE and XFER has discarded the entries, and START reads 0 (R221). -/
def execMemInvalDone (s : State) : Host.Outcome State Fault Refusal :=
  .next { s with memCtl := { s.memCtl with inval := s.memCtl.inval &&& 0x3FF } }

/-- The granule size of the tier of a zeroing's first address, where it is an aligned memory address. -/
def zeroUnit (a : Nat) : Option Nat :=
  if inSram a && a % 0x10000 == 0 then some 0x10000
  else if inLp a && a % 0x200000 == 0 then some 0x200000
  else none

/-- Device address of MEM_ZERO_CTRL in register space. -/
def regMemZeroCtrl : Nat := 0x812000058

/-- MEM_ZERO: START zeroes GRANULES granules from MEM_ZERO_ADDR with fresh codes; a range that leaves its tier, or a START
while a zeroing runs, has no effect and is counted (R223, R254). -/
def execMemZero (v : Word) (s : State) : Host.Outcome State Fault Refusal :=
  let m := s.memCtl
  let n := bits v.toNat 17 0
  let a := bits m.zeroAddr.toNat 47 0
  .next (if !bitAt v.toNat 31 then
    if bitAt m.zeroCtrl.toNat 31 then s else { s with memCtl := { m with zeroCtrl := v &&& 0x3FFFF } }
  else match zeroUnit a with
    | none => s.ignored regMemZeroCtrl none
    | some u =>
      let stop := a + n * u
      if bitAt m.zeroCtrl.toNat 31 || n == 0 || decide ((if inSram a then sramEnd else lpEnd) < stop) then
        s.ignored regMemZeroCtrl none
      else
        let s0 := (List.range n).foldl (fun (t : State) k =>
          (t.mappers (a + k * u)).foldl (fun (t : State) x => t.touchCopy x.1 x.2 u) t) s
        let s1 := s0.zero a stop
        { s1 with memCtl := { m with
          zeroCtrl := v &&& 0x8003FFFF
          uncorrectable := m.uncorrectable.filter fun w => decide (w < a) || decide (stop ≤ w)
          soft := m.soft.filter fun w => decide (w < a) || decide (stop ≤ w) } })

/-- MEM_ZERO_DONE: the zeroing of R223 is complete, and START reads 0. -/
def execMemZeroDone (s : State) : Host.Outcome State Fault Refusal :=
  .next { s with memCtl := { s.memCtl with zeroCtrl := s.memCtl.zeroCtrl &&& 0x3FFFF } }

/-! ### Scrubbing (R233 to R235) -/

/-- The bytes a scrub unit reads at a time. -/
def scrubStep (u : Nat) : Nat := if u < 512 then 32 else 64

/-- Words of a slice, or blocks of a channel. -/
def scrubCount (u : Nat) : Nat := if u < 512 then 0x100000 else 0x4000000

/-- The device address of word or block `i` of a scrub unit: increasing addresses within the slice or the channel (R22). -/
def scrubAddr (u i : Nat) : Nat :=
  if u < 512 then u * 0x2000000 + 32 * i
  else
    let loc := 64 * i
    lpBase + loc % 2048 + 2048 * ((u - 512) / 16) + 16384 * ((u - 512) % 16) + 262144 * (loc / 2048)

/-- Ticks between the starts of two passes of a scrub unit: MEM_SCRUB_CFG's minutes (R233). -/
def State.scrubPeriod (s : State) (u : Nat) : Nat :=
  6000000000 * if u < 512 then bits s.memCtl.scrubCfg.toNat 15 0 else bits s.memCtl.scrubCfg.toNat 31 16

/-- Whether a scrub unit's next read is due: within a pass, or at the start of the next one once the period of the last has passed. -/
def State.scrubDue (s : State) (u : Nat) : Bool :=
  tgetD s.memCtl.scrubAt u 0 != 0 ||
    match tget s.memCtl.scrubFrom u with
    | some t => decide (t + s.scrubPeriod u ≤ s.now)
    | none => true

/-- The next word of a scrub unit is the one after this: at the end of a pass, its first. A pass's first read records when it began. -/
def State.scrubAdvance (s : State) (u : Nat) : State :=
  let i := tgetD s.memCtl.scrubAt u 0
  { s with memCtl := { s.memCtl with
    scrubAt := tset s.memCtl.scrubAt u ((i + 1) % scrubCount u)
    scrubFrom := if i = 0 then tset s.memCtl.scrubFrom u s.now else s.memCtl.scrubFrom } }

/-- The scrub unit of slice `n`, or of channel `n` of the 128 of LPDDR5X. -/
def scrubUnit (lp : Bool) (n : Nat) : Nat := if lp then 512 + n else n

/-- SCRUB_READ: a scrub unit's read of its next word or block, in P0 and P1 (R233 to R235). A corrected word is written back unless an
engine write to it was granted since (`raced`); the data as read is the corrected data, so the write-back leaves the bytes as they
are, and the word awaits its next read (R232). An uncorrectable one is reported and stays (R228). -/
def execScrubRead (lp : Bool) (n : Nat) (m : ReadCheck) (raced : Bool) (s : State) : Host.Outcome State Fault Refusal :=
  let u := scrubUnit lp n
  let d := scrubAddr u (tgetD s.memCtl.scrubAt u 0)
  .next (if s.memCtl.scrubPaused || !decide (u < 640) || !s.scrubDue u then s
  else
    let s1 := s.scrubAdvance u
    match s.damagedIn [(d, scrubStep u)], m with
    | some _, _ => s1.memUncorrectable d true none
    | none, .ok => { s1 with memCtl := { s1.memCtl with soft := s1.memCtl.soft.filter fun w => w != d } }
    | none, .corrected =>
      let hard := s.memCtl.soft.contains d
      let s2 := s1.readCorrected d
      if raced || hard then s2 else { s2 with memCtl := { s2.memCtl with soft := ninsert s2.memCtl.soft d } }
    | none, .uncorrectable => s1.memUncorrectable d true none)

end Sys2Proof.Machine
end

