-- ==== Sys2Proof/Machine/Regions.lean ====
section
/-! DEFINITION. What a learning package declares of its tensors and areas (R333 to R337, R348, R350, R365): elements and their order, buckets,
pieces and owners, the places of learner state, stash units, and the tensors that a table's frames name. -/

namespace Sys2Proof

open Machine

/-! ### Elements (R334, R140) -/

/-- Elements of a tensor in the blocked layout, edge padding included. -/
def Tensor.elems (t : Tensor) : Nat := (t.rows + 127) / 128 * ((t.cols + 127) / 128) * 16384

/-- Row and column of element `e` of a tensor, in the order of its bytes (R140). -/
def Tensor.place (t : Tensor) (e : Nat) : Nat × Nat :=
  let tc := (t.cols + 127) / 128
  let tile := e / 16384
  let o := e % 16384
  (128 * (tile / tc) + 32 * (o / 4096) + o % 1024 / 32, 128 * (tile % tc) + 32 * (o % 4096 / 1024) + o % 32)

/-- Whether element `e` of a tensor is edge padding. -/
def Tensor.padding (t : Tensor) (e : Nat) : Bool := decide (t.rows ≤ (t.place e).1) || decide (t.cols ≤ (t.place e).2)

/-- Whether the optimizer pass updates element `e` of a tensor (R334, R336, R363): neither padding nor in a frozen row. -/
def Tensor.trains (t : Tensor) (e : Nat) : Bool :=
  !t.padding e && match t.kind with
    | .frozen => false
    | .full => true
    | .partlyTrained => (t.rowMask[(t.place e).1]?).getD false

/-- Insert a tensor by number. -/
def Machine.insertTensor (t : Tensor) : List Tensor → List Tensor
  | [] => [t]
  | u :: rest => if t.number < u.number then t :: u :: rest else u :: insertTensor t rest

/-- A layer's tensors in increasing number. -/
def Package.layerTensors (p : Package) (layer : Nat) : List Tensor :=
  (p.tensors.filter fun t => t.layer == layer).foldl (fun l t => insertTensor t l) []

/-- The layers that hold a FULL or PARTIAL tensor, rising (R365). -/
def Package.layers (p : Package) : List Nat := ((p.tensors.filter fun t => t.kind != .frozen).map Tensor.layer).foldl ninsert []

/-- Where a tensor begins in its layer's parameter element index (R334): tensors are whole tiles, so each begins at a multiple of 4,096. -/
def Package.tensorFirst (p : Package) (t : Tensor) : Nat :=
  (((p.layerTensors t.layer).takeWhile fun u => u.number != t.number).map Tensor.elems).sum

/-- The tensor of a number. -/
def Package.tensor (p : Package) (n : Nat) : Option Tensor := p.tensors.find? fun t => t.number == n

/-- Parameter elements of a layer, padding excluded (Table 9.7). -/
def Package.layerElems (p : Package) (layer : Nat) : Nat := ((p.layerTensors layer).map fun t => t.rows * t.cols).sum

/-! ### Buckets, pieces and owners (R335) -/

/-- P_b of a bucket in a group of `g`. -/
def Bucket.piece (b : Bucket) (g : Nat) : Nat := 4096 * ((b.size + 4096 * g - 1) / (4096 * g))

/-- Elements of piece `q` of a bucket, clipped to the bucket's end. -/
def Bucket.pieceSize (b : Bucket) (g q : Nat) : Nat := min (b.piece g) (b.size - q * b.piece g)

/-- The position that owns element `x` of a layer's index, and the number of the element among those it owns: pieces in the order of the
package's buckets. None where no bucket holds it. -/
def Machine.ownIn (g layer x : Nat) : List Bucket → (Nat → Nat) → Option (Nat × Nat)
  | [], _ => none
  | b :: rest, before =>
    if b.layer = layer ∧ b.first ≤ x ∧ x < b.first + b.size then
      let q := (x - b.first) / b.piece g
      some (q, before q + (x - b.first - q * b.piece g))
    else ownIn g layer x rest fun q => before q + b.pieceSize g q

/-- Owner and number of element `e` of a tensor. -/
def Package.owned (p : Package) (g : Nat) (t : Tensor) (e : Nat) : Option (Nat × Nat) :=
  ownIn g t.layer (p.tensorFirst t + e) p.buckets fun _ => 0

/-- The elements of a tensor that a position owns, each with its number there. -/
def Package.ownElems (p : Package) (g pos : Nat) (t : Tensor) : List (Nat × Nat) :=
  (List.range t.elems).filterMap fun e => match p.owned g t e with
    | some o => if o.1 = pos then some (e, o.2) else none
    | none => none

/-- The position at which a layer's norm chains end (R365): the owner of the last piece that is not empty. -/
def Package.chainEnd (p : Package) (g layer : Nat) : Option Nat :=
  match (p.buckets.filter fun b => b.layer == layer).getLast? with
  | some b => ((List.range g).filter fun q => decide (0 < b.pieceSize g q)).getLast?
  | none => none

/-! ### Areas (Table 9.1, R333) -/

/-- The first area of a kind: base and bytes, both 0 where the package declares none. -/
def Package.area (p : Package) (k : RegionKind) : Nat × Nat :=
  match p.regions.find? fun r => r.kind == k with
  | some r => (r.base, r.bytes)
  | none => (0, 0)

/-- Whether a range lies wholly in an area of some kinds. -/
def Package.inArea (p : Package) (ks : List RegionKind) (a n : Nat) : Bool :=
  p.regions.any fun r => ks.contains r.kind && decide (r.base ≤ a) && decide (a + n ≤ r.base + r.bytes)

/-- The translation granules that a range of context addresses meets, of its tier. -/
def Machine.rangeGranules (a n : Nat) : List Nat :=
  if n = 0 then []
  else
    let u := if inSram a then 0x10000 else 0x200000
    (List.range ((a + n - 1) / u + 1 - a / u)).map fun k => (a / u + k) * u

/-- The areas of a package that the Keeper maps for learning: all but logits buffers and spill areas, which lie in mapped memory. -/
def Package.learnAreas (p : Package) : List Region :=
  if p.kind = .learning then p.regions.filter fun r => r.kind != .logits && r.kind != .spills else []

/-- Context addresses of the LPDDR5X granules of a learning package's areas, mapped when the package is loaded (R333). -/
def Machine.learnRegion (p : Package) : List Nat :=
  ((p.learnAreas.filter fun r => !inSram r.base).flatMap fun r => rangeGranules r.base r.bytes).foldl ninsert []

/-- Context addresses of the SRAM granules of a learning package's areas, mapped by a turn to learning (Table 10.3). -/
def Machine.learnSram (p : Package) : List Nat :=
  ((p.learnAreas.filter fun r => inSram r.base).flatMap fun r => rangeGranules r.base r.bytes).foldl ninsert []

/-- Context addresses of the granules of a learning package's stash units, in SRAM or in the overflow region. -/
def Machine.learnStash (p : Package) (sram : Bool) : List Nat :=
  ((p.stash.filter fun u => inSram u.1 == sram).flatMap fun u => rangeGranules u.1 u.2).foldl ninsert []

/-- The address of the master of a tensor's element in a bank (Table 9.1): a FROZEN tensor has one copy and no banks (R336). The package
fixes the layout inside the area, which the manual does not state. -/
def Package.masterAt (p : Package) (bank : Bool) (t : Tensor) (e : Nat) : Nat :=
  (p.area (if t.kind = .frozen then .frozen else .masters bank)).1 + Config.masterOffset p.packageId t.number e

/-- The address of an element's compensation word in a bank. -/
def Package.compensationAt (p : Package) (bank : Bool) (t : Tensor) (e : Nat) : Nat :=
  (p.area (.masters bank)).1 + Config.compensationOffset p.packageId t.number e

/-- The address of an element's optimizer state in a bank. -/
def Package.stateAt (p : Package) (bank : Bool) (t : Tensor) (e : Nat) : Nat :=
  (p.area (.optState bank)).1 + Config.stateOffset p.packageId t.number e

/-- Whether a context address holds committed learner state: a master or optimizer state of bank `cur`, a frozen master or a history
(Table 13.5). -/
def Package.learnerWord (p : Package) (cur : Bool) (a : Nat) : Bool :=
  p.inArea [.masters cur, .optState cur, .frozen, .histories] a 1

/-- Whether a protection granule lies in a transient area of R525: bank 1 − CUR of masters and state, bucket values, inputs, stash units,
working copies, send area, scratch, logits buffers and spill areas. -/
def Package.transient (p : Package) (cur : Bool) (a : Nat) : Bool :=
  p.inArea [.masters !cur, .optState !cur, .running, .receive, .inputs, .working, .send, .scratch, .updates, .logProbs, .norms, .logits,
    .spills] a 0x10000 || p.stash.any fun u => decide (u.1 ≤ a) && decide (a + 0x10000 ≤ u.1 + u.2)

/-! ### The stash (R348, R350) -/

/-- Unit u(n, l) of the forward pass of local micro-batch `n` at layer `l`, with `k` slots of `layers` units: the blocks of `k` micro-batches
climb the layers and descend by turns, as R350's recursion has it. -/
def Machine.stashUnit (k layers n l : Nat) : Nat :=
  n % k * layers + if n / k % 2 = 0 then l else layers - 1 - l

/-! ### Scales in a table's frames (R66, R67, R338) -/

/-- A frame table with the scales of a step in the frames that name a tensor with one: SCALE_J of Table 4.10 is written, and the header's CRC
formed again over the table (R121). -/
def Machine.scaledTable (bytes : List Byte) (named : List (Nat × Nat)) (scale : Nat → Option Int) : List Byte :=
  let put (b : List Byte) (x : Nat × Nat) : List Byte :=
    match scale x.2 with
    | some j => b.take (64 * x.1 + 27) ++ [BitVec.ofInt 8 j] ++ b.drop (64 * x.1 + 28)
    | none => b
  if named.all fun x => (scale x.2).isNone then bytes
  else
    let b := zeroField (named.foldl put bytes) 60
    b.take 60 ++ leBytes 4 (crc32c b) ++ b.drop 64

end Sys2Proof
end

