-- ==== Sys2Proof/Machine/Keccak.lean ====
section
/-! DEFINITION. SHAKE256 as FIPS 202 defines it (R107, R576), on lanes of 64 bits, and the draw message of
R108. -/

namespace Sys2Proof.Machine

/-- The state of the permutation: its 25 lanes, the lane of column x and plane y at 5 y + x. -/
abbrev Sponge := List Long

/-- The lane of column `x` and plane `y`, both taken modulo 5. -/
def Sponge.at' (s : Sponge) (x y : Nat) : Long := s.getD (5 * (y % 5) + x % 5) 0

/-- The sponge whose lane of column x and plane y is `f x y`. -/
def Sponge.tabulate (f : Nat → Nat → Long) : Sponge :=
  (List.range 5).flatMap fun y => (List.range 5).map fun x => f x y

/-- The parity of a column. -/
def Sponge.parity (s : Sponge) (x : Nat) : Long := (List.range 5).foldl (fun acc y => acc ^^^ s.at' x y) 0

/-- θ: each lane takes in the parities of the column before it and, turned by one bit, of the column after it. -/
def Sponge.theta (s : Sponge) : Sponge :=
  let parities := (List.range 5).map s.parity
  let parity := fun x => parities.getD (x % 5) 0
  Sponge.tabulate fun x y => s.at' x y ^^^ parity (x + 4) ^^^ (parity (x + 1)).rotateLeft 1

/-- ρ and π as one walk over the lanes other than (0, 0): at its step `t` the lane at (x, y), turned by (t + 1)(t + 2)/2 bits, goes to
(y, 2 x + 3 y), where the walk goes on. -/
def Sponge.walk (src : Sponge) : Nat → Nat → Nat → Nat → Sponge → Sponge
  | 0, _, _, _, out => out
  | n + 1, t, x, y, out =>
    let y' := (2 * x + 3 * y) % 5
    src.walk n (t + 1) y y' (out.set (5 * y' + y) ((src.at' x y).rotateLeft ((t + 1) * (t + 2) / 2)))

/-- χ: each lane takes in the next lane of its plane, complemented, where the one after that has ones. -/
def Sponge.chi (s : Sponge) : Sponge :=
  Sponge.tabulate fun x y => s.at' x y ^^^ (~~~ s.at' (x + 1) y &&& s.at' (x + 2) y)

/-- One step of the shift register of FIPS 202, with x⁸ + x⁶ + x⁵ + x⁴ + 1. -/
def lfsrStep (r : BitVec 8) : BitVec 8 := if r.getLsbD 7 then (r <<< 1) ^^^ 0x71#8 else r <<< 1

/-- The next seven bits of the shift register, bit j at place 2^j − 1 of a round constant, and the register after them. -/
def lfsrRound (r : BitVec 8) : Long × BitVec 8 :=
  (List.range 7).foldl (fun (acc, r) j => (if r.getLsbD 0 then acc ||| (1#64 <<< (2 ^ j - 1)) else acc, lfsrStep r)) (0, r)

/-- `n` rounds; `r` is the shift register, whose next seven bits ι adds to lane (0, 0). -/
def Sponge.rounds : Nat → BitVec 8 → Sponge → Sponge
  | 0, _, s => s
  | n + 1, r, s =>
    let mixed := s.theta
    let turned := (mixed.walk 24 0 1 0 mixed).chi
    let (iota, r') := lfsrRound r
    Sponge.rounds n r' (turned.modify 0 (· ^^^ iota))

/-- The permutation of 24 rounds. -/
def Sponge.permute (s : Sponge) : Sponge := Sponge.rounds 24 1 s

/-- The bytes a block of SHAKE256 takes: its rate of 1,088 bits. -/
def shakeRate : Nat := 136

/-- Take in `n` blocks of a padded message. -/
def Sponge.absorb (s : Sponge) (message : List Byte) : Nat → Sponge
  | 0 => s
  | n + 1 =>
    let taken : Sponge := s.mapIdx fun i v => if 8 * i < shakeRate then v ^^^ BitVec.ofNat 64 (field message (8 * i) 8) else v
    Sponge.absorb taken.permute (message.drop shakeRate) n

/-- Give out `n` blocks. -/
def Sponge.squeeze (s : Sponge) : Nat → List Byte
  | 0 => []
  | n + 1 => (s.take (shakeRate / 8)).flatMap (fun v => leBytes 8 v.toNat) ++ s.permute.squeeze n

/-- A message with the domain bits 1111 and the padding 10*1 up to a whole number of blocks. -/
def shakePad (message : List Byte) : List Byte :=
  match shakeRate - 1 - message.length % shakeRate with
  | 0 => message ++ [0x9F]
  | k + 1 => message ++ 0x1F :: zeros k ++ [0x80]

/-- SHAKE256 with `n` output bytes. -/
def shake256 (message : List Byte) (n : Nat) : List Byte :=
  let start : Sponge := List.replicate 25 0
  ((start.absorb (shakePad message) (message.length / shakeRate + 1)).squeeze ((n + shakeRate - 1) / shakeRate)).take n

/-- The fields of a draw message (Table 3.6). -/
structure Draw where
  purpose : Nat
  step : Nat
  sequence : Nat
  position : Nat
  operation : Nat
  element : Nat
  sub : Nat
  deriving DecidableEq, Repr

/-- The draw message's 40 bytes (R108). -/
def Draw.bytes (d : Draw) : List Byte :=
  leBytes 1 d.purpose ++ zeros 3 ++ leBytes 4 d.step ++ leBytes 8 d.sequence ++ leBytes 4 d.position ++
    leBytes 4 d.operation ++ leBytes 8 d.element ++ leBytes 4 d.sub ++ zeros 4

/-- The draw W of R107 under a context key. -/
def drawW (key : BitVec 128) (d : Draw) : Nat := leNat (shake256 (leBytes 16 key.toNat ++ d.bytes) 8)

end Sys2Proof.Machine
end

