-- ==== Sys2Proof/Machine/Float.lean ====
section
/-! DEFINITION. Numbers (chapter 3): values as exact dyadic numbers, the formats of Table 3.1, rounding to nearest even,
saturation, FP4 blocks, scales, stochastic rounding and the extended master weight. -/

namespace Sys2Proof.Machine

/-- A value: NaN, an infinity, or the exact number ±m·2^e. A zero keeps its sign. -/
inductive Val where
  | nan
  | inf (neg : Bool)
  | fin (neg : Bool) (m : Nat) (e : Int)
  deriving DecidableEq, Repr

/-- +0. -/
def Val.zero : Val := .fin false 0 0

/-- An integer as a value. -/
def Val.ofInt (i : Int) : Val := .fin (decide (i < 0)) i.natAbs 0

/-- Whether a value is finite. -/
def Val.isFinite : Val → Bool
  | .fin _ _ _ => true
  | _ => false

/-- Whether a value is a zero of either sign. -/
def Val.isZero : Val → Bool
  | .fin _ 0 _ => true
  | _ => false

/-- Whether a value is NaN. -/
def Val.isNan : Val → Bool
  | .nan => true
  | _ => false

/-- The sign bit; a NaN is written positive (R77). -/
def Val.sign : Val → Bool
  | .nan => false
  | .inf n => n
  | .fin n _ _ => n

/-- The negation. -/
def Val.neg : Val → Val
  | .nan => .nan
  | .inf n => .inf (!n)
  | .fin n m e => .fin (!n) m e

/-- The magnitude. -/
def Val.abs : Val → Val
  | .nan => .nan
  | .inf _ => .inf false
  | .fin _ m e => .fin false m e

/-- Multiplication by 2^k, exactly. -/
def Val.scale (v : Val) (k : Int) : Val :=
  match v with
  | .fin n m e => .fin n m (e + k)
  | v => v

/-- The exact sum; opposite infinities give NaN, an exact zero is +0 (R104, R48). -/
def Val.add : Val → Val → Val
  | .nan, _ => .nan
  | _, .nan => .nan
  | .inf a, .inf b => if a = b then .inf a else .nan
  | .inf a, _ => .inf a
  | _, .inf b => .inf b
  | .fin a m e, .fin b n f =>
    let q := min e f
    let x : Int := (m * 2 ^ (e - q).toNat : Nat)
    let y : Int := (n * 2 ^ (f - q).toNat : Nat)
    let z := (if a then -x else x) + (if b then -y else y)
    .fin (decide (z < 0)) z.natAbs q

/-- The exact product; zero times an infinity is NaN. -/
def Val.mul : Val → Val → Val
  | .nan, _ => .nan
  | _, .nan => .nan
  | .inf a, .inf b => .inf (a != b)
  | .inf a, .fin b n _ => if n = 0 then .nan else .inf (a != b)
  | .fin a m _, .inf b => if m = 0 then .nan else .inf (a != b)
  | .fin a m e, .fin b n f => .fin (a != b) (m * n) (e + f)

/-- Order of two numbers that are not NaN: less than. Zeros of both signs are equal. -/
def Val.lt : Val → Val → Bool
  | .nan, _ => false
  | _, .nan => false
  | .inf a, .inf b => a && !b
  | .inf a, .fin _ _ _ => a
  | .fin _ _ _, .inf b => !b
  | .fin a m e, .fin b n f =>
    let q := min e f
    let x : Int := (m * 2 ^ (e - q).toNat : Nat)
    let y : Int := (n * 2 ^ (f - q).toNat : Nat)
    decide ((if a then -x else x) < (if b then -y else y))

/-- Equality of two numbers that are not NaN. -/
def Val.eqv (a b : Val) : Bool := !a.isNan && !b.isNan && !a.lt b && !b.lt a

/-- The exponent e(A) of a non-zero magnitude: 2^e(A) ≤ A < 2^(e(A)+1) (R90). -/
def topExp (m : Nat) (e : Int) : Int := (Nat.log2 m : Int) + e

/-! ### Rounding -/

/-- m·2^e rounded to a multiple of 2^q, to nearest, ties to even (R80): the multiple. -/
def rneTo (m : Nat) (e q : Int) : Nat :=
  if q ≤ e then m * 2 ^ (e - q).toNat
  else
    let d := (q - e).toNat
    let n := m / 2 ^ d
    let r := m % 2 ^ d
    if 2 ^ d < 2 * r || (2 * r == 2 ^ d && n % 2 == 1) then n + 1 else n

/-- m·2^e rounded toward zero to a multiple of 2^q, and whether it was exact. -/
def truncTo (m : Nat) (e q : Int) : Nat × Bool :=
  if q ≤ e then (m * 2 ^ (e - q).toNat, true) else (m / 2 ^ (q - e).toNat, m % 2 ^ (q - e).toNat == 0)

/-- A floating format's shape (Table 3.1): mantissa bits, bias, width, largest finite magnitude encoding, the infinity's
encoding if it has one, and the NaN written. -/
structure Fmt where
  man : Nat
  bias : Nat
  width : Nat
  maxFinite : Nat
  inf : Option Nat
  nan : Nat
  deriving DecidableEq, Repr

/-- FP32, code 0x01. -/
def fp32 : Fmt := ⟨23, 127, 32, 0x7F7FFFFF, some 0x7F800000, 0x7FC00000⟩
/-- BF16, code 0x02. -/
def bf16 : Fmt := ⟨7, 127, 16, 0x7F7F, some 0x7F80, 0x7FC0⟩
/-- FP16, code 0x03. -/
def fp16 : Fmt := ⟨10, 15, 16, 0x7BFF, some 0x7C00, 0x7E00⟩
/-- FP8 E4M3, code 0x04. -/
def e4m3 : Fmt := ⟨3, 7, 8, 0x7E, none, 0x7F⟩
/-- FP8 E5M2, code 0x05. -/
def e5m2 : Fmt := ⟨2, 15, 8, 0x7B, some 0x7C, 0x7E⟩
/-- FP4 E2M1 element, code 0x06. -/
def e2m1 : Fmt := ⟨1, 1, 4, 0x7, none, 0⟩

/-- The shape of a format code (Table 3.1); INT8, code 0x07, has none. -/
def fmtOf : Nat → Fmt
  | 2 => bf16
  | 3 => fp16
  | 4 => e4m3
  | 5 => e5m2
  | 6 => e2m1
  | _ => fp32

/-- The smallest exponent of a unit in the last place. -/
def Fmt.lowExp (f : Fmt) : Int := 1 - (f.bias : Int) - (f.man : Int)

/-- The exponent of the last place of the binade that holds m·2^e. -/
def Fmt.ulpExp (f : Fmt) (m : Nat) (e : Int) : Int := max (topExp m e - f.man) f.lowExp

/-- The magnitude encoding of n·2^q, where q is the binade's last place: encodings count last places from zero. -/
def Fmt.magnitude (f : Fmt) (n : Nat) (q : Int) : Nat := (q - f.lowExp).toNat * 2 ^ f.man + n

/-- The sign bit of an encoding. -/
def Fmt.signed (f : Fmt) (neg : Bool) (mag : Nat) : Nat := if neg then 2 ^ (f.width - 1) + mag else mag

/-- The value of an encoding (R76 to R78). -/
def Fmt.decode (f : Fmt) (x : Nat) : Val :=
  let neg := bitAt x (f.width - 1)
  let mag := x % 2 ^ (f.width - 1)
  if f.inf = some mag then .inf neg
  else if f.maxFinite < mag then .nan
  else
    let k := mag / 2 ^ f.man
    let n := mag % 2 ^ f.man
    if k = 0 then .fin neg n f.lowExp else .fin neg (n + 2 ^ f.man) (f.lowExp + (k : Int) - 1)

/-- The result of a conversion: the encoding, whether it counts as a saturation (R81), and as a non-finite element (R83). -/
structure Conv where
  bits : Nat
  sat : Bool
  nonfin : Bool
  deriving DecidableEq, Repr

/-- Conversion to FP32, BF16, FP16 (R80, R82, R83) or to FP8 and FP4 elements (R80, R81, R83). -/
def Fmt.encode (f : Fmt) (v : Val) : Conv :=
  match v with
  | .nan => ⟨f.nan, false, false⟩
  | .inf n => ⟨match f.inf with | some i => f.signed n i | none => f.nan, false, false⟩
  | .fin n m e =>
    let q := f.ulpExp m e
    let mag := if m = 0 then 0 else f.magnitude (rneTo m e q) q
    if mag ≤ f.maxFinite then ⟨f.signed n mag, false, false⟩
    else if f.width < 16 then ⟨f.signed n f.maxFinite, true, false⟩
    else ⟨f.signed n (f.inf.getD 0), false, false⟩

/-- Conversion to INT8 (R80, R81, R83), as an 8-bit two's-complement field. -/
def encodeInt8 (v : Val) : Conv :=
  match v with
  | .nan => ⟨0, false, true⟩
  | .inf n => ⟨unsigned 8 (if n then -127 else 127), false, true⟩
  | .fin n m e =>
    let k := rneTo m e 0
    if 127 < k then ⟨unsigned 8 (if n then -127 else 127), true, false⟩
    else ⟨unsigned 8 (if n then -(k : Int) else k), false, false⟩

/-- The value of an element of format `code` (INT8 reads its full range). -/
def decodeFmt (code x : Nat) : Val := if code = 7 then .ofInt (signed 8 x) else (fmtOf code).decode x

/-- Conversion to an element of format `code`. -/
def encodeFmt (code : Nat) (v : Val) : Conv := if code = 7 then encodeInt8 v else (fmtOf code).encode v

/-- The bits in an element of a format. -/
def widthOf (code : Nat) : Nat := if code = 7 then 8 else (fmtOf code).width

/-- Whether a format is one of the short formats, which carry a scale (chapter 3, "Per-tensor scales"). -/
def isShort (code : Nat) : Bool := decide (4 ≤ code) && decide (code ≤ 7)

/-- Rounding of an exact value to FP32 by RNE, as an encoding. -/
def rne32 (v : Val) : Nat := (fp32.encode v).bits

/-- The value of an FP32 encoding. -/
def val32 (x : Nat) : Val := fp32.decode x

/-- One FP32 addition (R104). -/
def add32 (a b : Nat) : Nat := rne32 ((val32 a).add (val32 b))

/-- One FP32 multiplication rounded by RNE. -/
def mul32 (a b : Nat) : Nat := rne32 ((val32 a).mul (val32 b))

/-- Deliver an exact zero as +0 (R48, R104). -/
def plusZero (v : Val) : Val := if v.isZero then .zero else v

/-- Multiplication of an FP32 encoding by 2^k, rounded by RNE. -/
def scale32 (a : Nat) (k : Int) : Nat := rne32 ((val32 a).scale k)

/-- Steps 2 to 4 of R106: m·2^e as a multiple of 2^q, the next one away from zero where the draw `w` is below its fraction. -/
def srTo (m : Nat) (e q : Int) (w : Nat) : Nat :=
  let t := truncTo m e q
  let frac := 2 ^ 16 * (m % 2 ^ (q - e).toNat) / 2 ^ (q - e).toNat
  if !t.2 && decide (w % 2 ^ 16 < frac) then t.1 + 1 else t.1

/-- Stochastic rounding of an exact value to a format with draw `w` (R106; formats other than FP32 by assumption 36). Beyond the largest
finite value it follows R81 or R82; a non-finite value converts as elsewhere, an exact zero is +0. -/
def Fmt.stochastic (f : Fmt) (v : Val) (w : Nat) : Conv :=
  match v with
  | .fin n m e =>
    let q := f.ulpExp m e
    let mag := f.magnitude (srTo m e q w) q
    if m = 0 then ⟨0, false, false⟩
    else if mag ≤ f.maxFinite then ⟨f.signed n mag, false, false⟩
    else if f.width < 16 then ⟨f.signed n f.maxFinite, true, false⟩
    else ⟨f.signed n (f.inf.getD 0), false, false⟩
  | v => f.encode v

/-- Stochastic rounding to an element of format `code`. -/
def stochasticFmt (code : Nat) (v : Val) (w : Nat) : Conv :=
  match code, v with
  | 7, .fin n m e => encodeInt8 (.fin n (srTo m e 0 w) 0)
  | 7, v => encodeInt8 v
  | code, v => (fmtOf code).stochastic v w

/-- Stochastic rounding to FP32 (R106), as an encoding. -/
def sr32 (v : Val) (w : Nat) : Nat := (fp32.stochastic v w).bits

/-! ### FP4 blocks (R85 to R88) -/

/-- The larger of two finite magnitudes, other values passed over. -/
def maxFin (a b : Val) : Val := if b.isFinite && a.lt b.abs then b.abs else a

/-- The largest finite magnitude of a list. -/
def maxMagnitude (vs : List Val) : Val := vs.foldl maxFin .zero

/-- The block exponent of R87 for largest magnitude `a`: the smallest B from 0 to 254 with a ≤ 6·2^(B−127), or 254. -/
def blockExponent (a : Val) : Nat :=
  match a with
  | .fin _ m e =>
    if m = 0 then 0
    else
      let t := topExp m e
      -- 2^t ≤ a < 2^(t+1); 6·2^k reaches a from k = t − 2 (when a ≤ 1.5·2^t) or k = t − 1
      let k := if (Val.fin false 3 (t - 1)).lt (.fin false m e) then t - 1 else t - 2
      (min 254 (max 0 (k + 127))).toNat
  | _ => 254

/-- A written FP4 block: the block exponent, its 32 element codes, and how many saturated. -/
structure Fp4Block where
  exponent : Nat
  codes : List Nat
  sats : Nat
  nonfin : Bool
  deriving DecidableEq, Repr

/-- Write a block of scaled values (R87, R88). An element saturates where it is beyond 6·2¹²⁷. -/
def encodeBlock (ys : List Val) : Fp4Block :=
  if ys.all Val.isFinite then
    let b := blockExponent (maxMagnitude ys)
    let cs := ys.map fun y => e2m1.encode (y.scale (127 - (b : Int)))
    ⟨b, cs.map Conv.bits, (ys.filter fun y => (Val.fin false 3 128).lt y.abs).length, false⟩
  else ⟨255, ys.map fun _ => 0, 0, true⟩

/-- The value of an FP4 element code in a block of exponent `b` (R85, R88). -/
def decodeFp4 (code b : Nat) : Val := if b = 255 then .nan else (e2m1.decode code).scale ((b : Int) - 127)

/-! ### Scales (R89, R90, R92) -/

/-- E_fmt of Table 3.3. -/
def rangeExp : Nat → Int
  | 4 => 8
  | 5 => 15
  | 6 => 2
  | _ => 6

/-- The scale exponent from a reference maximum (R90); `keep` where it is 0 or absent. -/
def scaleFrom (code : Nat) (a : Val) (keep : Int) : Int :=
  match a with
  | .fin _ m e => if m = 0 then keep else max (-127) (min 127 (rangeExp code - topExp m e - 1))
  | _ => keep

/-- The largest value in a history (R92). -/
def historyMax (h : List Word) : Val := maxMagnitude (h.map fun x => val32 x.toNat)

/-- Write a history slot at the commit of step `s` (R92). -/
def historyWrite (h : List Word) (step : Nat) (v : Word) : List Word := h.set (step % 16) v

/-! ### Extended masters (R112) -/

/-- ulp(m) as an exponent: the FP32 spacing in the binade of m. -/
def ulpExp32 (m : Nat) : Int :=
  match val32 m with
  | .fin _ n e => if n = 0 then -149 else fp32.ulpExp n e
  | _ => 0

/-- An update u of a master m with compensation word c (R112): the new master and compensation word. -/
def updateMaster (m : Nat) (c : Int) (u : Nat) : Nat × Int :=
  let v := ((val32 m).add ((Val.ofInt c).scale (ulpExp32 m - 15))).add (val32 u)
  let m' := rne32 v
  match val32 m' with
  | .fin _ _ _ =>
    match ((v.add (val32 m').neg).scale (15 - ulpExp32 m')) with
    | .fin n k e =>
      let r : Int := (rneTo k e 0 : Nat)
      (m', max (-32768) (min 32767 (if n then -r else r)))
    | _ => (m', 0)
  | _ => (m', 0)

end Sys2Proof.Machine
end

