-- ==== Sys2Proof/Machine/Sums.lean ====
section
/-! DEFINITION. The canonical sum (Table 2.1, R46 to R48) and exact extremes (R53). -/

namespace Sys2Proof.Machine

/-- Lists of `n` elements from a list, in order; the last may be short. -/
def chunksOf {α : Type} (n : Nat) : Nat → List α → List (List α)
  | 0, _ => []
  | fuel + 1, l => if l.isEmpty then [] else l.take n :: chunksOf n fuel (l.drop n)

/-- A sum's value rounded by RNE to FP32, +0 where the rounded result is zero (R48, R104). -/
def sum32 (v : Val) : Nat :=
  let x := rne32 v
  if x % 2 ^ 31 = 0 then 0 else x

/-- One level of the balanced pairwise tree: each addition exact, then rounded to FP32 (level 1). -/
def pairLevel : List Val → List Val
  | a :: b :: rest => val32 (sum32 (a.add b)) :: pairLevel rest
  | [a] => [a]
  | [] => []

/-- A sub-block of up to 32 terms, absent terms entering as +0 (R48), as an FP32 encoding. -/
def subBlock (terms : List Val) : Nat :=
  let full := terms ++ List.replicate (32 - terms.length) Val.zero
  match pairLevel (pairLevel (pairLevel (pairLevel (pairLevel full)))) with
  | [v] => sum32 v
  | _ => 0

/-- One RNE addition that delivers +0 for a zero (R48). -/
def addSum (a b : Nat) : Nat := sum32 ((val32 a).add (val32 b))

/-- A left fold from the first part's value (Table 2.1). -/
def leftFold : List Nat → Nat
  | [] => 0
  | a :: rest => rest.foldl addSum a

/-- The canonical sum of a list of terms by levels 1 to 4 with RNE (Table 2.1). -/
def canonicalSum (terms : List Val) : Nat :=
  let subs := (chunksOf 32 terms.length terms).map subBlock
  let segs := (chunksOf 128 subs.length subs).map leftFold
  let groups := (chunksOf 4096 segs.length segs).map leftFold
  leftFold groups

/-- max of two values by R53: a NaN makes the result NaN; +0 of the two zeros. -/
def vmax (a b : Val) : Val :=
  if a.isNan || b.isNan then .nan
  else if a.isZero && b.isZero then (if a.sign then b else a)
  else if a.lt b then b else a

/-- min of two values by R53: a NaN makes the result NaN; +0 when comparing the two zeros. -/
def vmin (a b : Val) : Val :=
  if a.isNan || b.isNan then .nan
  else if a.isZero && b.isZero then (if a.sign then b else a)
  else if b.lt a then b else a

/-- Whether a value displaces the running extreme of argmax (R53): a first NaN always, else only a strictly larger one. -/
def beatsMax (run v : Val) : Bool := if run.isNan then false else v.isNan || run.lt v

/-- Whether a value displaces the running extreme of argmin (R53). -/
def beatsMin (run v : Val) : Bool := if run.isNan then false else v.isNan || v.lt run

end Sys2Proof.Machine
end

