-- ==== Sys2Proof/Machine/Transc.lean ====
section
/-! DEFINITION. The table functions (R195, R196): exact real functions rounded once. A function is enclosed in an interval of
dyadic numbers at a working precision; when both ends convert alike, that conversion is the rounding of the exact value.
The precision doubles until they do. Quotients and square roots are formed exactly, with a sticky last bit. -/

namespace Sys2Proof.Machine

/-- An interval [lo, hi]·2^e. -/
structure Iv where
  lo : Int
  hi : Int
  e : Int
  deriving DecidableEq, Repr

/-- Floor of a division by 2^d. -/
def shrFloor (x : Int) (d : Nat) : Int := x / (2 ^ d : Nat)

/-- Ceiling of a division by 2^d. -/
def shrCeil (x : Int) (d : Nat) : Int := -((-x) / (2 ^ d : Nat))

/-- Keep about `p` bits, widening outwards. -/
def Iv.trim (p : Nat) (a : Iv) : Iv :=
  let b := Nat.log2 (max a.lo.natAbs a.hi.natAbs + 1)
  if b ≤ p then a else ⟨shrFloor a.lo (b - p), shrCeil a.hi (b - p), a.e + (b - p : Nat)⟩

/-- The point interval of an integer times 2^e. -/
def Iv.pt (m e : Int) : Iv := ⟨m, m, e⟩

/-- Sum. -/
def Iv.add (a b : Iv) : Iv :=
  let q := min a.e b.e
  let i : Int := (2 ^ (a.e - q).toNat : Nat)
  let j : Int := (2 ^ (b.e - q).toNat : Nat)
  ⟨a.lo * i + b.lo * j, a.hi * i + b.hi * j, q⟩

/-- Negation. -/
def Iv.neg (a : Iv) : Iv := ⟨-a.hi, -a.lo, a.e⟩

/-- Product. -/
def Iv.mul (a b : Iv) : Iv :=
  let w := a.lo * b.lo
  let x := a.lo * b.hi
  let y := a.hi * b.lo
  let z := a.hi * b.hi
  ⟨min (min w x) (min y z), max (max w x) (max y z), a.e + b.e⟩

/-- Quotient by a positive interval, to about `p` bits. -/
def Iv.div (p : Nat) (a b : Iv) : Iv :=
  let k := p + Nat.log2 (b.hi.natAbs + 1) + 2
  let n : Int := (2 ^ k : Nat)
  let f (x d : Int) : Int := x * n / d
  let c (x d : Int) : Int := -((-(x * n)) / d)
  let lo := min (f a.lo b.lo) (f a.lo b.hi)
  let hi := max (c a.hi b.lo) (c a.hi b.hi)
  ⟨lo, hi, a.e - b.e - k⟩

/-- Multiplication by 2^k. -/
def Iv.scale (a : Iv) (k : Int) : Iv := ⟨a.lo, a.hi, a.e + k⟩

/-- Quotient by a positive integer, to about `p` bits. -/
def Iv.divNat (p : Nat) (a : Iv) (n : Nat) : Iv := (a.div p (.pt n 0)).trim p

/-- Widen by `k` units of 2^e at both ends. -/
def Iv.widen (a : Iv) (k : Int) (e : Int) : Iv := a.add ⟨-k, k, e⟩

/-- Σ z^(2k+1)/(2k+1) with alternating signs where `alt`, `n` terms from `k`: `pw` is z^(2k+1), `z2` is z². -/
def oddSeries (p : Nat) (alt : Bool) (z2 : Iv) : Nat → Nat → Iv → Iv → Iv
  | 0, _, _, acc => acc
  | n + 1, k, pw, acc =>
    let term := pw.divNat p (2 * k + 1)
    let term' := if alt && k % 2 == 1 then term.neg else term
    oddSeries p alt z2 n (k + 1) ((pw.mul z2).trim p) ((acc.add term').trim p)

/-- artanh of 0 ≤ z ≤ 1/3, to about `p` bits; the terms left out sum to less than z·2^−p. -/
def artanhIv (p : Nat) (z : Iv) : Iv :=
  let s := oddSeries p false ((z.mul z).trim p) (p / 3 + 2) 0 z (.pt 0 z.e)
  s.widen 1 (z.e + (Nat.log2 (z.hi.natAbs + 1) : Int) + 1 - p)

/-- arctan of 1/n for n ≥ 5, to about `p` bits. -/
def arctanInv (p n : Nat) : Iv :=
  let z := (Iv.pt 1 0).divNat p n
  (oddSeries p true ((z.mul z).trim p) (p / 4 + 2) 0 z (.pt 0 z.e)).widen 1 (-p)

/-- ln 2. -/
def ln2Iv (p : Nat) : Iv := (artanhIv p ((Iv.pt 1 0).divNat p 3)).scale 1

/-- π, by Machin's formula. -/
def piIv (p : Nat) : Iv := ((arctanInv p 5).scale 4).add ((arctanInv p 239).scale 2).neg

/-- The integer square root, by bits from `i` down. -/
def isqrtGo (n : Nat) : Nat → Nat → Nat
  | 0, r => r
  | i + 1, r =>
    let r' := r + 2 ^ i
    isqrtGo n i (if r' * r' ≤ n then r' else r)

/-- The integer square root. -/
def isqrt (n : Nat) : Nat := isqrtGo n (Nat.log2 n / 2 + 1) 0

/-- The square root of a positive interval, to about `p` bits. -/
def Iv.sqrt (p : Nat) (a : Iv) : Iv :=
  let k : Nat := 2 * p + (if a.e % 2 = 0 then 0 else 1)
  ⟨isqrt (a.lo.toNat * 2 ^ k), isqrt (a.hi.toNat * 2 ^ k) + 1, (a.e - k) / 2⟩

/-- ln of m·2^e, m > 0. -/
def lnIv (p m : Nat) (e : Int) : Iv :=
  let b := Nat.log2 m
  -- y = m·2^−b lies in [1, 2); from 1.5 on, y/2 is taken
  let big := decide (3 * 2 ^ b ≤ 2 * m)
  let s : Int := if big then b + 1 else b
  let num : Int := (m : Int) - (2 ^ s.toNat : Nat)
  let den : Int := (m : Int) + (2 ^ s.toNat : Nat)
  let z := ((Iv.pt num.natAbs 0).div p (.pt den 0)).trim p
  let a := (artanhIv p z).scale 1
  let a' := if num < 0 then a.neg else a
  (((ln2Iv p).mul (.pt (s + e) 0)).add a').trim p

/-- Σ xⁿ/n! from term `k`, `n` terms. -/
def expSeries (p : Nat) (x : Iv) : Nat → Nat → Iv → Iv → Iv
  | 0, _, _, acc => acc
  | n + 1, k, term, acc =>
    let next := ((term.mul x).trim p).divNat p (k + 1)
    expSeries p x n (k + 1) next ((acc.add next).trim p)

/-- A number below every rounding threshold, for a result that is positive and below 2^−1000. -/
def tinyIv : Iv := .pt 1 (-2000)

/-- A number above every format's range. -/
def hugeIv : Iv := .pt 1 2000

/-- e^x for an interval x with |x| below 1024. -/
def expReduced (p : Nat) (x : Iv) : Iv :=
  let l := ln2Iv p
  let q := x.div 20 l
  let k := shrFloor q.lo (-q.e).toNat
  let r := (x.add (l.mul (.pt (-k) 0))).trim p
  ((expSeries p r (p / 4 + 12) 0 (.pt 1 0) (.pt 1 0)).widen 1 (-p)).scale k

/-- e^x for x = ±m·2^e. -/
def expIv (p : Nat) (neg : Bool) (m : Nat) (e : Int) : Iv :=
  if m = 0 then .pt 1 0
  else if 10 ≤ topExp m e then if neg then tinyIv else hugeIv
  else expReduced p (.pt (if neg then -(m : Int) else m) e)

/-- e^x for an interval x, by its ends' common range. -/
def expOf (p : Nat) (x : Iv) : Iv :=
  let top := topExp (max x.lo.natAbs x.hi.natAbs + 1) x.e
  if 10 ≤ top then if x.hi < 0 then tinyIv else hugeIv else expReduced p x

/-- 1 / a for a positive interval. -/
def Iv.recip (p : Nat) (a : Iv) : Iv := (Iv.pt 1 0).div p a

/-- σ(x) from e^−x. -/
def sigmoidIv (p : Nat) (x : Iv) : Iv := ((Iv.pt 1 0).add (expOf p x.neg)).trim p |>.recip p

/-- tanh x from e^2x. -/
def tanhIv (p : Nat) (x : Iv) : Iv :=
  let t := expOf p (x.scale 1)
  ((t.add (.pt (-1) 0)).trim (2 * p)).div p ((t.add (.pt 1 0)).trim (2 * p))

/-- ln of an interval of positive numbers. -/
def lnOf (p : Nat) (x : Iv) : Iv :=
  let a := lnIv p x.lo.toNat x.e
  let b := lnIv p x.hi.toNat x.e
  let q := min a.e b.e
  ⟨a.lo * (2 ^ (a.e - q).toNat : Nat), b.hi * (2 ^ (b.e - q).toNat : Nat), q⟩

/-- Σ 2ⁿ x^(2n+1)/(2n+1)!! from term `k`, `n` terms. -/
def erfSeries (p : Nat) (x2 : Iv) : Nat → Nat → Iv → Iv → Iv
  | 0, _, _, acc => acc
  | n + 1, k, term, acc =>
    let next := (((term.mul x2).trim p).scale 1).divNat p (2 * k + 3)
    erfSeries p x2 n (k + 1) next ((acc.add next).trim p)

/-- erf of 0 < x < 16, to an absolute 2^−p. -/
def erfIv (p m : Nat) (e : Int) : Iv :=
  let x := Iv.pt m e
  let x2 := (x.mul x).trim (2 * p)
  let s := (erfSeries p x2 (p + 560) 0 x x).widen 1 (e - p)
  let c := (Iv.pt 2 0).div p ((piIv p).sqrt p)
  (((s.mul (expOf p x2.neg)).trim p).mul c).trim p

/-- Φ(x) for x = ±m·2^e: ½(1 ± erf(x/√2)). -/
def phiIv (p : Nat) (neg : Bool) (m : Nat) (e : Int) : Iv :=
  if 4 ≤ topExp m e then if neg then tinyIv else (Iv.pt 1 0).add tinyIv.neg
  else
    -- x/√2 enclosed by dyadic ends; erf is increasing
    let y := ((Iv.pt m e).div p ((Iv.pt 2 0).sqrt p)).trim p
    let a := erfIv p y.lo.toNat y.e
    let b := erfIv p y.hi.toNat y.e
    let q := min a.e b.e
    let r : Iv := ⟨a.lo * (2 ^ (a.e - q).toNat : Nat), b.hi * (2 ^ (b.e - q).toNat : Nat), q⟩
    (((Iv.pt 1 0).add (if neg then r.neg else r)).trim p).scale (-1)

/-- The standard normal density φ(x) from x². -/
def densityIv (p : Nat) (x : Iv) : Iv :=
  (expOf p ((x.mul x).scale (-1)).neg).div p (((piIv p).scale 1).sqrt p)

/-- Σ (−1)ⁿ x^(2n+s)/(2n+s)! from term `k`: sine (s = 1) and cosine (s = 0) of |x| below 2. -/
def trigSeries (p s : Nat) (x2 : Iv) : Nat → Nat → Iv → Iv → Iv
  | 0, _, _, acc => acc
  | n + 1, k, term, acc =>
    let next := ((((term.mul x2).trim p).divNat p ((2 * k + s + 1) * (2 * k + s + 2))).neg)
    trigSeries p s x2 n (k + 1) next ((acc.add next).trim p)

/-- sin or cos of x = ±m·2^e by reduction modulo π/2. -/
def trigIv (p : Nat) (cosine neg : Bool) (m : Nat) (e : Int) : Iv :=
  let p' := p + (max 0 (topExp m e)).toNat + 8
  let half := (piIv p').scale (-1)
  let x := Iv.pt (if neg then -(m : Int) else m) e
  let q := x.div (p' + 8) half
  let k := shrFloor q.lo (-q.e).toNat
  let r := (x.add (half.mul (.pt (-k) 0))).trim p'
  let r2 := (r.mul r).trim p'
  let quad := (k + if cosine then 1 else 0) % 4
  let n := p' / 4 + 12
  let v := if quad % 2 = 0 then trigSeries p' 1 r2 n 0 r r else trigSeries p' 0 r2 n 0 (.pt 1 0) (.pt 1 0)
  let w := v.widen 1 (-(p' : Int))
  if 2 ≤ quad then w.neg else w

/-- 0.044715. -/
def geluCoeff (p : Nat) : Iv := (Iv.pt 44715 0).divNat p 1000000

/-- √(2/π)(x + 0.044715 x³). -/
def geluArg (p : Nat) (x : Iv) : Iv :=
  let c := ((Iv.pt 2 0).div p (piIv p)).sqrt p
  let x3 := ((x.mul x).mul x).trim (2 * p)
  (c.mul (x.add ((geluCoeff p).mul x3))).trim (2 * p)

/-- Derivative of `geluArg`. -/
def geluArg' (p : Nat) (x : Iv) : Iv :=
  let c := ((Iv.pt 2 0).div p (piIv p)).sqrt p
  (c.mul ((Iv.pt 1 0).add ((geluCoeff p).mul ((x.mul x).mul (.pt 3 0))))).trim (2 * p)

/-- 1 as an interval. -/
def oneIv : Iv := .pt 1 0

/-- Enclosure of f (Table 5.5) at the non-zero finite x = ±m·2^e, LN at x > 0. -/
def funcIv (p code : Nat) (neg : Bool) (m : Nat) (e : Int) : Iv :=
  let x := Iv.pt (if neg then -(m : Int) else m) e
  match code with
  | 0x01 => expIv p neg m e
  | 0x02 => expOf p (x.mul (ln2Iv (p + 16)))
  | 0x03 => lnIv p m e
  | 0x04 => tanhIv p x
  | 0x05 => sigmoidIv p x
  | 0x06 => x.mul (sigmoidIv p x)
  | 0x07 => x.mul (phiIv p neg m e)
  | 0x08 => ((x.mul (oneIv.add (tanhIv p (geluArg p x)))).scale (-1))
  | 0x09 => if 10 ≤ topExp m e then (if neg then tinyIv else x.add tinyIv) else lnOf p (oneIv.add (expOf p x))
  | 0x0A =>
    if 4 ≤ topExp m e then (let v := oneIv.add tinyIv.neg; if neg then v.neg else v)
    else (let v := erfIv p m e; if neg then v.neg else v)
  | 0x0B => trigIv p false neg m e
  | _ => trigIv p true neg m e

/-- Enclosure of f′ (Table 5.5) at the non-zero finite x = ±m·2^e. -/
def dfuncIv (p code : Nat) (neg : Bool) (m : Nat) (e : Int) : Iv :=
  let x := Iv.pt (if neg then -(m : Int) else m) e
  match code with
  | 0x01 => expIv p neg m e
  | 0x02 => (expOf p (x.mul (ln2Iv (p + 16)))).mul (ln2Iv p)
  | 0x03 => (Iv.pt 1 0).div p (.pt m e)
  | 0x04 =>
    -- 1 − tanh² x = 4 e^2|x| / (e^2|x| + 1)²
    let t := expOf p (Iv.pt m (e + 1))
    let d := (t.add oneIv).trim p
    (t.scale 2).div p ((d.mul d).trim p)
  | 0x05 =>
    let t := expOf p (.pt m e)
    let d := (t.add oneIv).trim p
    t.div p ((d.mul d).trim p)
  | 0x06 =>
    let s := sigmoidIv p x
    s.mul (oneIv.add (x.mul (oneIv.add s.neg)))
  | 0x07 => (phiIv p neg m e).add (x.mul (densityIv p x))
  | 0x08 =>
    let t := tanhIv p (geluArg p x)
    ((oneIv.add t).scale (-1)).add (((x.scale (-1)).mul (oneIv.add (t.mul t).neg)).mul (geluArg' p x))
  | 0x09 => sigmoidIv p x
  | 0x0A => (expOf p (x.mul x).neg).div p ((piIv p).sqrt p) |>.scale 1
  | 0x0B => trigIv p true neg m e
  | _ => (trigIv p false neg m e).neg

/-- An end of an interval as a value; a zero end is given the sign of the other end. -/
def Iv.ends (a : Iv) : Val × Val := (.fin (decide (a.lo < 0)) a.lo.natAbs a.e, .fin (decide (a.hi < 0)) a.hi.natAbs a.e)

/-- The value that rounds as the exact result does: found where both ends of an enclosure convert alike (`conv`), at growing
precision; past the last precision, the free value of `Config.hardCase`. -/
def settle' (conv : Val → Conv) (enclose : Nat → Iv) (hard : Val) : List Nat → Val
  | [] => hard
  | p :: rest =>
    let r := (enclose p).ends
    if conv r.1 = conv r.2 then (if r.1.isZero then r.2 else r.1) else settle' conv enclose hard rest

/-- The working precisions. Past the last one e^−|x| of every |x| below 1024 and the 2^−2000 that stands for smaller values show, so that
x σ(x), x Φ(x) and ln(1 + e^x) settle where x lies on a rounding boundary. -/
def precisions : List Nat := [80, 160, 400, 900, 4200]

/-- Value of a function at zero (R196, Table 5.5), where it is exact; `none` where it is not a dyadic number. -/
def funcAtZero (code : Nat) (neg : Bool) : Option Val :=
  match code with
  | 0x01 => some (.fin false 1 0)
  | 0x02 => some (.fin false 1 0)
  | 0x03 => some (.inf true)
  | 0x05 => some (.fin false 1 (-1))
  | 0x09 => none
  | 0x0C => some (.fin false 1 0)
  -- TANH, ERF and SIN are odd; SILU, GELU and GELU_TANH are x times a positive factor
  | _ => some (.fin neg 0 0)

/-- Value of a derivative at zero. -/
def dfuncAtZero (code : Nat) (neg : Bool) : Option Val :=
  match code with
  | 0x01 => some (.fin false 1 0)
  | 0x02 => none
  | 0x03 => some .nan
  | 0x04 => some (.fin false 1 0)
  | 0x05 => some (.fin false 1 (-2))
  | 0x06 => some (.fin false 1 (-1))
  | 0x07 => some (.fin false 1 (-1))
  | 0x08 => some (.fin false 1 (-1))
  | 0x09 => some (.fin false 1 (-1))
  | 0x0A => none
  | 0x0B => some (.fin false 1 0)
  | _ => some (.fin neg 0 0)

/-- Limit of a function at an infinity (R196). -/
def funcAtInf (code : Nat) (neg : Bool) : Val :=
  match code with
  | 0x03 => if neg then .nan else .inf false
  | 0x04 => .fin neg 1 0
  | 0x05 => if neg then .zero else .fin false 1 0
  | 0x0A => .fin neg 1 0
  | 0x0B => .nan
  | 0x0C => .nan
  | _ => if neg then .zero else .inf false

/-- Limit of a derivative at an infinity (R196). LN′ at −∞ lies outside the domain of ln and is NaN, as LN′ at every negative x is
(DESIGN CHOICE, assumption 151). -/
def dfuncAtInf (code : Nat) (neg : Bool) : Val :=
  match code with
  | 0x01 => if neg then .zero else .inf false
  | 0x02 => if neg then .zero else .inf false
  | 0x03 => if neg then .nan else .zero
  | 0x04 => .zero
  | 0x05 => .zero
  | 0x0A => .zero
  | 0x0B => .nan
  | 0x0C => .nan
  | _ => if neg then .zero else .fin false 1 0

/-- Whether m·2^e is an integer. -/
def isInteger (m : Nat) (e : Int) : Bool := decide (0 ≤ e) || m % 2 ^ (-e).toNat == 0

/-- FUNC (`d` false) or DFUNC of a built-in function at x, as a value that `conv` rounds as the exact result (R195, R196). -/
def tableFunc (conv : Val → Conv) (d : Bool) (code : Nat) (x : Val) : Val :=
  match x with
  | .nan => .nan
  | .inf n => if d then dfuncAtInf code n else funcAtInf code n
  | .fin n m e =>
    let hard : Val := val32 (Config.hardCase (if d then code + 256 else code) (rne32 x) (conv x).bits)
    let at0 := if m = 0 then (if d then dfuncAtZero code n else funcAtZero code n) else none
    match at0 with
    | some v => v
    | none =>
      if m = 0 then
        -- SOFTPLUS(0) = EXP2′(0) = ln 2, ERF′(0) = 2/√π
        if code = 0x0A then settle' conv (fun p => (Iv.pt 2 0).div p ((piIv p).sqrt p)) hard precisions
        else settle' conv ln2Iv hard precisions
      else if code = 0x03 && n then .nan
      else if code = 0x03 && !d && decide (Val.eqv x (.fin false 1 0)) then .zero
      else if code = 0x02 && !d && isInteger m e then
        let k : Nat := if 12 ≤ topExp m e then 4096 else (m * 2 ^ e.toNat) / 2 ^ (-e).toNat
        .fin false 1 (if n then -(k : Int) else k)
      else settle' conv (fun p => if d then dfuncIv p code n m e else funcIv p code n m e) hard precisions

/-! ### Exact quotients and roots -/

/-- a / b with a sticky last bit: 64 bits or more of the quotient, then one bit that says whether anything is left. -/
def stickyDiv (m n : Nat) : Nat × Int :=
  let k := 64 + Nat.log2 n
  let q := m * 2 ^ k / n
  (2 * q + b2n (m * 2 ^ k % n != 0), -(k : Int) - 1)

/-- The exact quotient (DIV): IEEE 754 cases, else a value that rounds as a / b. -/
def Val.div : Val → Val → Val
  | .nan, _ => .nan
  | _, .nan => .nan
  | .inf _, .inf _ => .nan
  | .inf a, .fin b _ _ => .inf (a != b)
  | .fin a _ _, .inf b => .fin (a != b) 0 0
  | .fin a m e, .fin b n f =>
    if n = 0 then if m = 0 then .nan else .inf (a != b)
    else if m = 0 then .fin (a != b) 0 0
    else (let r := stickyDiv m n; .fin (a != b) r.1 (r.2 + e - f))

/-- √a (SQRT): a negative number gives NaN, a zero keeps its sign. -/
def Val.sqrt : Val → Val
  | .nan => .nan
  | .inf n => if n then .nan else .inf false
  | .fin n m e =>
    if m = 0 then .fin n 0 0
    else if n then .nan
    else
      let k : Nat := 130 + (if e % 2 = 0 then 0 else 1)
      let v := m * 2 ^ k
      let r := isqrt v
      .fin false (2 * r + b2n (r * r != v)) ((e - k) / 2 - 1)

/-- 1 / √a (RSQRT): ±0 gives an infinity of its sign, a negative number NaN. -/
def Val.rsqrt : Val → Val
  | .nan => .nan
  | .inf n => if n then .nan else .zero
  | .fin n m e =>
    if m = 0 then .inf n
    else if n then .nan
    else
      let odd := decide (e % 2 ≠ 0)
      let m' := if odd then 2 * m else m
      let e' := if odd then e - 1 else e
      -- 1/√m' = √(2^2k / m') / 2^k
      let k := 130 + Nat.log2 m'
      let r := isqrt (2 ^ (2 * k) / m')
      .fin false (2 * r + b2n (r * r * m' != 2 ^ (2 * k))) (-(e' / 2) - k - 1)

end Sys2Proof.Machine
end

