-- ==== Sys2Proof/Machine/Frame.lean ====
section
/-! DEFINITION. Frames and tables (R118 to R144): fields, reserved bits, waits and signals, addresses, the blocked layout, and
elements in buffers. -/

namespace Sys2Proof.Machine

/-! ### Fields (Table 4.4) -/

/-- ENGINE. -/
def frEngine (f : List Byte) : Nat := field f 0 1
/-- OPCODE. -/
def frOp (f : List Byte) : Nat := field f 1 1
/-- OP_TAG. -/
def frTag (f : List Byte) : Nat := field f 2 2
/-- WAIT_A and WAIT_B. -/
def frWaits (f : List Byte) : List Nat := [field f 4 4, field f 8 4]
/-- SIGNAL. -/
def frSignal (f : List Byte) : Nat := field f 12 4

/-- The engine of a code (Table 4.1). -/
def engineOf : Nat → Option Engine
  | 0 => some .load
  | 1 => some .store
  | 2 => some .xfer
  | 3 => some .fme
  | 4 => some .bme
  | 5 => some .veu
  | 6 => some .seq
  | _ => none

/-- The code of an engine. -/
def engineCode : Engine → Nat
  | .load => 0
  | .store => 1
  | .xfer => 2
  | .fme => 3
  | .bme => 4
  | .veu => 5
  | .seq => 6

/-! ### Waits and tokens (R131 to R136) -/

/-- Units of counter `k` that one wait field needs. -/
def waitNeed (w k : Nat) : Nat := if bitAt w 7 && bits w 4 0 == k then bits w 31 16 else 0

/-- Units of counter `k` that a frame's waits need together (R132). -/
def needOf (f : List Byte) (k : Nat) : Nat := ((frWaits f).map fun w => waitNeed w k).sum

/-- The counters that enabled waits name. -/
def waitCounters (f : List Byte) : List Nat := ((frWaits f).filter fun w => bitAt w 7).map fun w => bits w 4 0

/-- A token counter. -/
def Core.token (c : Core) (k : Nat) : Nat := (tgetD c.tokens k 0).toNat

/-- Whether a frame's waits are met (R132). -/
def Core.waitsMet (c : Core) (f : List Byte) : Bool := (waitCounters f).all fun k => decide (needOf f k ≤ c.token k)

/-- The core after a starting frame takes its units (R132). -/
def Core.takeTokens (c : Core) (f : List Byte) : Core :=
  { c with tokens := (waitCounters f).dedup.foldl (fun t k => tset t k (BitVec.ofNat 16 (c.token k - needOf f k))) c.tokens }

/-- Add to a counter, or `none` beyond 65,535 (R136). -/
def Core.signal (c : Core) (k inc : Nat) : Option Core :=
  if c.token k + inc ≤ 65535 then some { c with tokens := tset c.tokens k (BitVec.ofNat 16 (c.token k + inc)) } else none

/-! ### Checks when the sequencer reaches a frame (R124, R126, R146, R155) -/

/-- A buffer identifier of Table 4.2 that is an operand buffer. -/
def isOperandBuf (b : Nat) : Bool := decide (b ≤ 3) || (decide (8 ≤ b) && decide (b ≤ 15))
/-- An accumulator of the FME or the BME. -/
def isAcc (b : Nat) : Bool := b == 16 || b == 17 || (decide (24 ≤ b) && decide (b ≤ 27))
/-- A VEU buffer. -/
def isVeuBuf (b : Nat) : Bool := decide (32 ≤ b) && decide (b ≤ 39)
/-- An identifier of Table 4.2. -/
def isBuf (b : Nat) : Bool := isOperandBuf b || isAcc b || isVeuBuf b
/-- A format code of Table 3.1. -/
def isFormat (c : Nat) : Bool := decide (1 ≤ c) && decide (c ≤ 7)

/-- Reserved bits of a wait field. -/
def waitClean (w : Nat) : Bool := bits w 6 5 == 0 && bits w 15 8 == 0

/-- The operand offsets of the address fields of a frame, by engine and opcode. -/
def addressFields (f : List Byte) : List Nat :=
  match frEngine f, frOp f with
  | 0, 2 => [16, 48]
  | 0, _ => [16]
  | 1, 2 => [16, 32, 48]
  | 1, 3 => [16, 48]
  | 1, 1 => [16, 32]
  | 1, _ => [16]
  | 2, _ => [16, 24]
  | _, _ => []

/-- ROWS − 1 and COLS − 1 of a tile, at most 128 × 128 (R119, R175). -/
def tileSizeOk (f : List Byte) (ro co : Nat) : Bool := decide (field f ro 1 ≤ 127) && decide (field f co 1 ≤ 127)

/-- Operands inside their fields and codes, reserved operand bits zero (Tables 4.6, 4.10, 4.11, 4.13, 5.1). A LOAD of FP4 into a VEU
buffer is no frame that R175 leaves room for: FRAME_BAD (DESIGN CHOICE, assumption 141). -/
def operandsOk (f : List Byte) : Bool :=
  match frEngine f with
  | 0 => decide (1 ≤ frOp f) && decide (frOp f ≤ 3) && isBuf (field f 24 1) && (frOp f == 3 || isFormat (field f 25 1)) &&
      decide (field f 26 1 ≤ 1) && zeroAt f 30 2 && zeroAt f 32 8 && !(field f 26 1 == 1 && field f 25 1 == 6) &&
      (frOp f == 3 || (tileSizeOk f 28 29 && !(field f 25 1 == 6 && isVeuBuf (field f 24 1))))
  | 1 => decide (1 ≤ frOp f) && decide (frOp f ≤ 4) && isBuf (field f 24 1) && (frOp f == 4 || isFormat (field f 25 1)) &&
      decide (field f 26 1 ≤ 3) && zeroAt f 30 2 && (frOp f == 4 || tileSizeOk f 28 29)
  | 2 => decide (1 ≤ frOp f) && decide (frOp f ≤ 2) && field f 32 4 % 64 == 0 && decide (field f 32 4 ≤ 0x4000000) &&
      decide (field f 36 1 ≤ 3) && decide (field f 37 1 ≤ 63) && bits (field f 38 2) 14 9 == 0 && decide (field f 40 1 ≤ 31) &&
      zeroAt f 42 14
  | 5 => frOp f == 1 && decide (field f 16 1 ≤ 63) && ([17, 18, 19].all fun o => isBuf (field f o 1) || field f o 1 == 255) &&
      isVeuBuf (field f 20 1) && ([21, 27].all fun o => isVeuBuf (field f o 1) || field f o 1 == 255) &&
      decide (field f 22 1 ≤ 127) && tileSizeOk f 23 24 && decide (field f 25 1 ≤ 1) && zeroAt f 48 8
  | 6 => decide (frOp f ≤ 3) && (frOp f == 0 || frOp f == 3 || decide (field f 16 1 ≤ 3)) &&
      (frOp f != 1 || decide (field f 17 1 = 0) || (decide (1 ≤ field f 18 1) && decide (field f 18 1 ≤ 15)))
  | e =>
    let a := bits (field f 19 1) 3 0
    let b := bits (field f 19 1) 7 4
    let acc := field f 18 1
    let own := if e = 3 then acc == 16 || acc == 17 else decide (24 ≤ acc) && decide (acc ≤ 27)
    zeroAt f 24 32 && own && decide (field f 20 1 ≤ 127) && decide (field f 21 1 ≤ 127) && bits (field f 22 1) 6 2 == 0 &&
      (frOp f == 2 || (frOp f == 1 && isOperandBuf (field f 16 1) && isOperandBuf (field f 17 1) &&
      isFormat a && isFormat b && ((a == 7) == (b == 7)) && decide (field f 23 1 ≤ 127)))

/-- Whether a frame raises FRAME_BAD when the sequencer reaches it (R124, R126, R146, R155). `owned`: a Keeper-owned table. -/
def frameBad (owned : Bool) (f : List Byte) : Bool :=
  !((engineOf (frEngine f)).isSome && (frWaits f).all waitClean && bits (frSignal f) 6 5 == 0 && bits (frSignal f) 14 13 == 0 &&
    zeroAt f 56 8 && operandsOk f && (owned || (addressFields f).all fun o => !bitAt (field f o 8) 63))

/-! ### Tables (R120) -/

/-- A slot of the frame store. -/
def Core.slotBytes (c : Core) (k : Nat) : List Byte := slice (tgetD c.frameStore (k % 4096) []) 0 64

/-- The header slot of the running table. -/
def Core.header (c : Core) : Nat := bits c.entry.toNat 11 0

/-- FRAMES of the running table. -/
def Core.frames (c : Core) : Nat := field (c.slotBytes c.header) 2 2

/-- STRIDE_SLOTS of the running table. -/
def Core.strides (c : Core) : Nat := field (c.slotBytes c.header) 4 2

/-- `n` slots of the frame store from `k`. -/
def Core.storeBytes (c : Core) (k : Nat) : Nat → List Byte
  | 0 => []
  | n + 1 => c.slotBytes k ++ c.storeBytes (k + 1) n

/-- Whether the table at the entry passes its CRC (R121). -/
def Core.tableOk (c : Core) : Bool := crcOkAt (c.storeBytes c.header (1 + c.frames + c.strides)) 60

/-- The context a core runs for; `none` when only Keeper-owned tables run (CORE_CONTEXT.VALID). -/
def Core.ctx (c : Core) : Option Nat := if bitAt c.context.toNat 31 then some (bits c.context.toNat 8 0) else none

/-- Byte strides S0 to S3 of stride entry `i` (Table 4.3 text). -/
def Core.stride (c : Core) (i k : Nat) : Int :=
  signed 32 (field (c.slotBytes (c.header + 1 + c.frames + i / 4)) (16 * (i % 4) + 4 * k) 4)

/-- The address that an address field names, with the loop indices of the frame's dispatch (R125), and its space. -/
def Core.address (c : Core) (q : QFrame) (o : Nat) : Space × Nat :=
  let v := field q.bytes o 8
  let p := bits v 62 59
  let param := if p = 0 then 0 else (tgetD c.params p 0).toNat
  let strided : Int := if bitAt v 58 then
      ((List.range 4).map fun k => ((q.idx[k]?).getD 0).toNat * c.stride (bits v 57 48) k).sum else 0
  let a := unsigned 64 ((bits v 47 0 + param : Nat) + strided)
  if bitAt v 63 then (.phys, a)
  else match c.ctx with
    | some n => (.ctx n, a)
    -- with no context no context address translates: an address outside every range
    | none => (.phys, 2 ^ 63)

/-! ### The blocked layout (R140 to R144) -/

/-- Bytes of a 32 × 32 sub-block. -/
def subBytes (fmt : Nat) : Nat := 128 * widthOf fmt

/-- Offset within a tile of element (r, c); for FP4, of the byte that holds it (R140). -/
def tileOffset (fmt r c : Nat) : Nat :=
  (4 * (r / 32) + c / 32) * subBytes fmt + (32 * (r % 32) + c % 32) * widthOf fmt / 8

/-- Offset within a tile of the metadata byte of row r (R141). -/
def metaOffset (fmt r : Nat) : Nat := 16 * subBytes fmt + (if fmt = 6 then 512 else 0) + r

/-- Offset within a tile of the FP4 exponent of row r, block b (R141). -/
def blockOffset (r b : Nat) : Nat := 8192 + 4 * r + b

/-- The device address of an offset into a range given as device pieces. -/
def pieceAddr : List (Nat × Nat) → Nat → Nat
  | [], o => o
  | (d, n) :: rest, o => if o < n then d + o else pieceAddr rest (o - n)

/-- The offset of a device address in a range given as device pieces. -/
def pieceOffset : List (Nat × Nat) → Nat → Nat
  | [], d => d
  | (a, n) :: rest, d => if a ≤ d ∧ d < a + n then d - a else n + pieceOffset rest d

/-! ### Elements and buffers -/

/-- +0 of a format. -/
def Elem.zero (fmt : Nat) : Elem := ⟨fmt, 0, 0, 127⟩

/-- The stored value of an element, its scale not removed, its FP4 block factor applied (R85). -/
def Elem.raw (e : Elem) : Val := if e.format = 6 then decodeFp4 e.bits e.block else decodeFmt e.format e.bits

/-- The exact value of an element: the stored value divided by its scale (R89, R176). -/
def Elem.val (e : Elem) : Val := e.raw.scale (-e.exponent)

/-- An empty buffer. -/
def Buf.empty : Buf := ⟨1, []⟩

/-- The format tag of a buffer that LINEAR filled with bytes (assumption 14). -/
def rawFormat : Nat := 0

/-- Element (r, c) of a buffer: +0 outside what was delivered; a free FP32 value where the buffer holds plain bytes. -/
def Buf.elem (b : Buf) (base r c : Nat) : Elem :=
  if b.format = rawFormat then ⟨1, Config.freeValue (base + 128 * r + c) % 2 ^ 32, 0, 127⟩
  else match b.rows[r]? with
    | none => .zero b.format
    | some row => (row[c]?).getD (.zero b.format)

/-- The first `n` bytes of a buffer: those that LINEAR filled, free bytes beyond them and where the buffer holds a tile. -/
def Buf.byteList (b : Buf) (base n : Nat) : List Byte :=
  let filled : List Byte := if b.format = rawFormat then ((b.rows.flatMap id).map fun e => BitVec.ofNat 8 e.bits).take n else []
  filled ++ ((List.range n).drop filled.length).map fun i => BitVec.ofNat 8 (Config.freeValue (base + i))

/-- A buffer filled with plain bytes. -/
def Buf.ofBytes (bs : List Byte) : Buf := ⟨rawFormat, [bs.map fun b => ⟨rawFormat, b.toNat, 0, 127⟩]⟩

/-- A core's buffer. -/
def Core.buf (c : Core) (k : Nat) : Buf := tgetD c.bufs k .empty

/-- An accumulator that nothing has written. -/
def Acc.empty : Acc := ⟨[], false, 0, false, false, [], []⟩

/-- A core's accumulator. -/
def Core.acc (c : Core) (k : Nat) : Acc := tgetD c.accs k .empty

/-- Write an accumulator: bytes that LINEAR moved into it no longer stand. -/
def Core.setAcc (c : Core) (k : Nat) (a : Acc) : Core := { c with accs := tset c.accs k a, bufs := terase c.bufs k }

/-- An accumulator into which LINEAR has moved bytes: the elements that they make are free (assumption 14). -/
def Acc.rawCells (a : Acc) (base : Nat) : Acc :=
  { a with cells := (List.range 128).map fun m => (List.range 128).map fun n =>
      if a.int then signed 32 (Config.freeValue (base + 128 * m + n)) else (Config.freeValue (base + 128 * m + n) % 2 ^ 32 : Nat) }

/-- Cell (r, c) of an accumulator. -/
def Acc.cell (a : Acc) (r c : Nat) : Int := ((a.cells[r]?).bind fun row => row[c]?).getD 0

/-- The value of an accumulator cell: an FP32 encoding, or an exact integer (R159). -/
def Acc.val (a : Acc) (r c : Nat) : Val := if a.int then .ofInt (a.cell r c) else val32 (a.cell r c).toNat

/-- The value at (r, c) of a buffer or an accumulator. -/
def Core.source (c : Core) (k base r col : Nat) : Val :=
  if isAcc k then (c.acc k).val r col else ((c.buf k).elem base r col).val

/-- Reserve free values for the elements of one tile where a plain-byte buffer is read as elements or a tile as bytes. -/
def State.bumpFree (s : State) : State := { s with free := s.free + 0x10000 }

end Sys2Proof.Machine
end

