-- ==== Sys2Proof/Machine/Sequencer.lean ====
section
/-! DEFINITION. The frame sequencer and the life of a core (R121 to R139, R167 to R171): start, abort, fills, dispatch, the start
and completion of frames in engine queues, and wait timeouts. -/

namespace Sys2Proof.Machine

/-! ### Core state -/

/-- The queue of an engine. -/
def Core.queue (c : Core) (e : Nat) : List QFrame := tgetD c.queues e []

/-- The frames of an engine that have started and not completed, oldest first. -/
def Core.running (c : Core) (e : Nat) : List Started := tgetD c.started e []

/-- Whether every queue is empty. -/
def Core.drained (c : Core) : Bool := c.queues.all fun q => q.2.isEmpty

/-- The state a core settles in once its started frames are complete (CORE_STATE, CORE_CTRL.ABORT, R170). -/
def Core.settle (c : Core) : Core :=
  if !c.quiet then c
  else match c.mode with
    | .running => if c.stopping then { c with mode := .faulted }
        else if !c.dispatching && c.drained then { c with mode := .done } else c
    | .aborting => { c with mode := if c.stopping then .faulted else .idle }
    | _ => c

/-- Whether frames of a core may be dispatched or started. -/
def Core.active (c : Core) : Bool := c.mode == .running && !c.stopping

/-! ### VEU store and its checks (R184) -/

/-- A 64-byte unit of the VEU store, counted from offset 0x9000. -/
def Core.veuUnit (c : Core) (k : Nat) : List Byte := slice (tgetD c.veuStore k []) 0 64

/-- `n` units from `k`. -/
def Core.veuBytes (c : Core) (k : Nat) : Nat → List Byte
  | 0 => []
  | n + 1 => c.veuUnit k ++ c.veuBytes (k + 1) n

/-- The 128 bytes of chain slot `n`. -/
def Core.chainBytes (c : Core) (n : Nat) : List Byte := c.veuBytes (2 * n) 2

/-- The registers of user function slot `n`. -/
def Core.user (c : Core) (n : Nat) : UserRegs := tgetD c.userRegs n ⟨0, 0, 0, 0, 0⟩

/-- The value table (`d` false) or derivative table of user slot `n`, 3,072 bytes. -/
def Core.userTable (c : Core) (n : Nat) (d : Bool) : List Byte := c.veuBytes (128 + 96 * n + if d then 48 else 0) 48

/-- Whether every valid chain slot and user function slot passes its CRC (R184). -/
def Core.veuOk (c : Core) : Bool :=
  ((List.range 64).all fun n => !bitAt c.chainValid.toNat n ||
    field (c.chainBytes n) 124 4 == crc32c ((c.chainBytes n).take 124)) &&
  ((List.range 3).all fun n => !bitAt (c.user n).cfg.toNat 0 ||
    (c.user n).crc.toNat == crc32c (c.userTable n false ++ c.userTable n true))

/-! ### Start (CORE_CTRL.START, R121, R122, R131, R184, R189) -/

/-- The core as its step starts, before the checks of its table. -/
def Core.fresh (c : Core) (scalars : Table Long) (now : Nat) : Core :=
  { c with
    mode := .running
    stopping := false
    dispatching := true
    tokens := []
    queues := []
    started := []
    loops := []
    idx := [0, 0, 0, 0]
    pc := (c.header + 1) % 4096
    headSince := [(6, now)]
    veuFlagsStep := 0
    watch := []
    scalars := scalars }

/-- The comb scalar registers of a comb, by number. -/
def State.combScalarsOf (s : State) (k : Nat) : Table Long :=
  (s.combScalars.filter fun e => decide (64 * k ≤ e.1) && decide (e.1 < 64 * (k + 1))).map fun e => (e.1 - 64 * k, e.2)

/-- Whether the table at the entry is Keeper-owned: no context's table was filled into its header slot (R126, R123). -/
def Core.owned (c : Core) : Bool := (tget c.slotCtx c.header).isNone

/-- Whether the table at the entry may run under CORE_CONTEXT (R122, Table 4.14): the header names its CONTEXT, and with VALID 0 the
table is Keeper-owned. -/
def Core.contextOk (c : Core) : Bool :=
  field (c.slotBytes c.header) 6 2 == bits c.context.toNat 8 0 && (c.ctx.isSome || c.owned)

/-- Start physical core `p` at CORE_ENTRY: counters to 0, the table's CRC and context checked, the VEU's slots checked; a check
that fails raises its fault and no frame starts. -/
def State.startCore (s : State) (p : Nat) : State :=
  let c := (s.core p).fresh (s.combScalarsOf (combOf p)) s.now
  let s1 := s.setCore p c
  let s2 :=
    if !c.tableOk then s1.raiseUnplaced p false faultTableCrc
    else if c.contextOk then s1
    else s1.raiseUnplaced p false faultContext
  if c.veuOk then s2 else s2.raiseUnplaced p true veuChainCrc

/-- Device address of a register of a core window. -/
def coreRegAddr (w : CoreWin) (off : Nat) : Nat :=
  match w with
  | .logical c => 0x800000000 + c * 0x10000 + off
  | .physical p => 0x804000000 + p * 0x10000 + off

/-- The logical core of a window, as the unit of REG_IGNORED. -/
def windowUnit : CoreWin → Option Nat
  | .logical c => some c
  | .physical _ => none

/-- CORE_START: a write of CORE_CTRL.START. Outside IDLE and DONE it has no effect and is counted (R168). -/
def execCoreStart (w : CoreWin) (s : State) : Host.Outcome State Fault Refusal :=
  let p := s.windowCore w
  .next (if (s.core p).mode = .idle ∨ (s.core p).mode = .done then s.startCore p
  else s.ignored (coreRegAddr w 0x10) (windowUnit w))

/-- A core after ABORT: dispatch stops, queued frames are discarded, started frames finish, then IDLE. -/
def Core.abort (c : Core) : Core :=
  if c.mode = .retired then c
  else
    let c1 := { c with dispatching := false, stopping := false, queues := [], loops := [] }
    { c1 with mode := if c.quiet then .idle else .aborting }

/-- CORE_ABORT: a write of CORE_CTRL.ABORT. -/
def execCoreAbort (w : CoreWin) (s : State) : Host.Outcome State Fault Refusal :=
  let p := s.windowCore w
  .next (s.setCore p (s.core p).abort)

/-! ### Fills (R168, R171, R210, R212) -/

/-- The 64 bytes that a fill reads at a device address: free bytes where the read meets an uncorrectable error or leaves the memory
tiers' addresses (assumption 142). -/
def State.fillUnit (s : State) (src : Nat) : List Byte :=
  if (s.damagedIn [(src, 64)]).isSome then slice (Config.freeBytes s.free (leBytes 8 src)) 0 64
  else if isMemory src then s.read src 64
  else zeros 64

/-- Copy `n` 64-byte units from device memory into a table of units from `k` on. -/
def State.fillUnits (s : State) (src : Nat) : Nat → Nat → Table (List Byte) → Table (List Byte)
  | _, 0, t => t
  | k, n + 1, t => s.fillUnits (src + 64) (k + 1) n (tset t k (s.fillUnit src))

/-- The state after a fill has read `n` units: errors it met are counted and reported (R226, R228), a reserved source counts in
REG_IGNORED (R19), and a free counter value is used up. -/
def State.fillRead (s : State) (src n : Nat) (m : MemOutcome) : State :=
  let s1 := s.keeperRead [(src, 64 * n)] m
  let s2 := if (List.range n).all fun k => isMemory (src + 64 * k) then s1 else s1.ignored src none
  { s2 with free := s2.free + 1 }

/-- Frame-store slots `k` to `k + n` marked as holding tables of the context of CORE_CONTEXT, or Keeper-owned ones with VALID 0
(assumption 143). -/
def Core.markSlots (c : Core) (k : Nat) : Nat → Table Nat
  | 0 => c.slotCtx
  | n + 1 =>
    let t := c.markSlots k n
    match c.ctx with
    | some x => tset t (k + n) x
    | none => terase t (k + n)

/-- FRAME_STORE_FILL: a write of CORE_CTRL.FILL copies CORE_FS_LEN slots; while RUNNING or while a fill is in progress, with no
slots, or beyond slot 4,095, it has no effect and is counted (R168, R171). -/
def execFrameStoreFill (f : FillOf) (s : State) : Host.Outcome State Fault Refusal :=
  let w := f.win
  let p := s.windowCore w
  let c := s.core p
  let n := bits c.fsLen.toNat 12 0
  let k := bits c.fsDst.toNat 11 0
  let src := bits c.fsSrc.toNat 47 0
  .next (if c.mode = .running ∨ c.fillBusy ∨ n = 0 ∨ 4096 < k + n then s.ignored (coreRegAddr w 0x10) (windowUnit w)
  else (s.setCore p { c with
    fillBusy := true
    slotCtx := c.markSlots k n
    frameStore := s.fillUnits src k n c.frameStore }).fillRead src n f.read)

/-- FRAME_STORE_FILL_DONE: the fill ends and FILL_BUSY reads 0. -/
def execFrameStoreFillDone (p : Nat) (s : State) : Host.Outcome State Fault Refusal :=
  .next (s.setCore p { s.core p with fillBusy := false })

/-- VEU_FILL: a write of VEU_FILL_CTRL.START copies VEU_FILL_LEN units; outside IDLE and DONE, with no units, or beyond unit
415, it has no effect and is counted (R210, R212). No rule holds back a fill that is started while VEU_STATE.FILL_BUSY is 1: it
copies as any other (DESIGN CHOICE, assumption 144). -/
def execVeuFill (f : FillOf) (s : State) : Host.Outcome State Fault Refusal :=
  let w := f.win
  let p := s.windowCore w
  let c := s.core p
  let n := bits c.veuFillLen.toNat 8 0
  let k := bits c.veuFillDst.toNat 8 0
  let src := bits c.veuFillSrc.toNat 47 0
  .next (if (c.mode = .idle ∨ c.mode = .done) ∧ n ≠ 0 ∧ k + n ≤ 416 then
    (s.setCore p { c with
      veuFillBusy := true
      veuCtx := c.ctx
      veuStore := s.fillUnits src k n c.veuStore }).fillRead src n f.read
  else s.ignored (coreRegAddr w 0x8040) (windowUnit w))

/-- VEU_FILL_DONE: the fill ends. -/
def execVeuFillDone (p : Nat) (s : State) : Host.Outcome State Fault Refusal :=
  .next (s.setCore p { s.core p with veuFillBusy := false })

/-- CORE_TOKEN_WRITE: a write of CORE_TOKENn takes effect in IDLE and DONE only (R169). -/
def execCoreTokenWrite (w : CoreWin) (n : Nat) (v : Word) (s : State) : Host.Outcome State Fault Refusal :=
  let p := s.windowCore w
  let c := s.core p
  .next (if c.mode = .idle ∨ c.mode = .done then
    s.setCore p { c with tokens := tset c.tokens n (BitVec.ofNat 16 v.toNat) }
  else s.ignored (coreRegAddr w (0x100 + 4 * n)) (windowUnit w))

/-! ### Dispatch (R127 to R130) -/

/-- The slot after the ENDLOOP that matches a LOOP whose body starts at slot `k`: `depth` counts loops opened since. -/
def Core.afterLoop (c : Core) : Nat → Nat → Nat → Option Nat
  | _, _, 0 => none
  | k, depth, n + 1 =>
    let f := c.slotBytes k
    if frEngine f = 6 ∧ frOp f = 2 then if depth = 0 then some (k + 1) else c.afterLoop (k + 1) (depth - 1) n
    else if frEngine f = 6 ∧ frOp f = 1 then c.afterLoop (k + 1) (depth + 1) n
    else c.afterLoop (k + 1) depth n

/-- What the sequencer does with a SEQ frame whose waits are met (Table 4.6): the core, or FRAME_BAD. A LOOP of count 0 whose ENDLOOP
the table lacks has no frame to skip to: FRAME_BAD (DESIGN CHOICE, assumption 145). -/
def Core.runSeq (c : Core) (f : List Byte) : Option Core :=
  let level := field f 16 1
  let next := c.pc + 1
  match frOp f with
  | 1 =>
    let count := if field f 17 1 % 2 = 1 then (tgetD c.params (field f 18 1) 0).toNat % 2 ^ 32 else field f 20 4
    if c.loops.any fun l => l.level == level then none
    else if count = 0 then
      (c.afterLoop next 0 (c.header + 1 + c.frames - next)).map fun k => { c with pc := k, idx := c.idx.set level 0 }
    else some { c with pc := next, idx := c.idx.set level 0, loops := ⟨level, count, c.pc⟩ :: c.loops }
  | 2 =>
    match c.loops with
    | [] => none
    | l :: rest =>
      if l.level ≠ level then none
      else
        let i := (c.idx[level]?).getD 0 + 1
        let c1 := { c with idx := c.idx.set level i }
        if i.toNat < l.count then some { c1 with pc := l.slot + 1 } else some { c1 with pc := next, loops := rest }
  | 3 => some { c with pc := next, dispatching := false }
  | _ => some { c with pc := next }

/-- Whether the sequencer's frame is offending where it stands: past the table, or last and not END (R128). -/
def Core.misplaced (c : Core) (f : List Byte) : Bool :=
  let i := c.pc - c.header
  decide (c.frames < i) || i == 0 || (i == c.frames && !(frEngine f == 6 && frOp f == 3))

/-- A started frame without flags, watch counts or a DONE to await. -/
def startedOf (q : QFrame) : Started := ⟨q, 0, none, none⟩

/-- CORE_FAULT_AT of a queued frame. -/
def QFrame.at' (q : QFrame) : Word := faultAtWord q.slot (frEngine q.bytes) (frTag q.bytes)

/-- One signal of a completing frame, or TOKEN_OVERFLOW (R133, R136). -/
def State.applySignal (s : State) (p : Nat) (x : Started) (on : Bool) (k inc : Nat) : State :=
  if !on then s
  else match (s.core p).signal k inc with
    | some c => s.setCore p c
    | none => s.raiseFault p false faultToken x.frame.at'

/-- The signals of a completing frame (R133): none from one whose remote signal was refused. -/
def State.ownSignals (s : State) (p : Nat) (x : Started) (complete : Bool) : State :=
  let g := frSignal x.frame.bytes
  let s1 := s.applySignal p x (complete && bitAt g 7) (bits g 4 0) (bits g 23 16)
  s1.applySignal p x (complete && bitAt g 15) (bits g 12 8) (bits g 31 24)

/-- Whether the cores are clocked: in P1 and P2 they are gated or off (R559). -/
def State.coresClocked (s : State) : Bool := s.keeper.powerState == 0

/-- FRAME_DISPATCH: the sequencer handles its next frame: a bad one faults, a SEQ frame runs once its waits are met, any other
goes to the tail of its engine's queue once that has room (R124, R127 to R130). -/
def execFrameDispatch (p : Nat) (s : State) : Host.Outcome State Fault Refusal :=
  let c := s.core p
  let f := c.slotBytes c.pc
  .next (if !(c.active && c.dispatching && s.coresClocked) then s
  else if c.misplaced f || frameBad c.owned f then
    s.raiseFault p false faultFrameBad (faultAtWord c.pc (frEngine f) (frTag f))
  else if frEngine f = 6 then
    if (c.runSeq f).isSome && !c.waitsMet f then s
    else match (c.takeTokens f).runSeq f with
      | none => s.raiseFault p false faultFrameBad (faultAtWord c.pc 6 (frTag f))
      | some c1 =>
        let s1 := s.setCore p { c1 with headSince := tset c1.headSince 6 s.now }
        let s2 := s1.ownSignals p (startedOf ⟨c.pc, f, c.idx⟩) true
        s2.setCore p (s2.core p).settle
  else
    let q := c.queue (frEngine f)
    if 64 ≤ q.length then s
    else s.setCore p { c with
      pc := c.pc + 1
      queues := tset c.queues (frEngine f) (q ++ [⟨c.pc, f, c.idx⟩])
      headSince := tset (if q.isEmpty then tset c.headSince (frEngine f) s.now else c.headSince) 6 s.now })

/-! ### Frames in queues (R132 to R137) -/

/-- The order of R135 among those that could take units in one cycle. -/
def takeOrder : List Nat := [6, 0, 1, 3, 4, 5, 2]

/-- The frame with which a unit of a core would take tokens next: a queue head, or the sequencer's SEQ frame where it does not
fault. -/
def Core.taker (c : Core) (e : Nat) : Option (List Byte) :=
  if e = 6 then
    let f := c.slotBytes c.pc
    if c.dispatching && frEngine f == 6 && !(c.misplaced f || frameBad c.owned f) && (c.runSeq f).isSome then some f else none
  else (c.queue e).head?.map QFrame.bytes

/-- The core after some units, in order, have each taken the units of their next frame where the counters then hold enough (R135). -/
def Core.afterTakes (c : Core) (units : List Nat) : Core :=
  units.foldl (fun d x =>
    match d.taker x with
    | some g => if d.waitsMet g then d.takeTokens g else d
    | none => d) c

/-- Whether the counters hold enough for a unit's frame once the units that take before it have taken (R132, R135). -/
def Core.mayTake (c : Core) (e : Nat) (f : List Byte) : Bool := (c.afterTakes (takeOrder.takeWhile fun x => x != e)).waitsMet f

/-- The head of an engine's queue when it can start: the core runs, and the units that take first leave it what it needs (R132,
R135). -/
def Core.ready (c : Core) (e : Nat) : Option QFrame :=
  if !c.active then none
  else match c.queue e with
    | [] => none
    | q :: _ => if c.mayTake e q.bytes then some q else none

/-- The head of an engine's queue that starts on a core. -/
def State.head (s : State) (p e : Nat) : Option QFrame := if s.coresClocked then (s.core p).ready e else none

/-- The core once the head of an engine's queue has left it, its units taken. -/
def Core.popHead (c : Core) (e : Nat) (f : List Byte) (now : Nat) : Core :=
  let c1 := c.takeTokens f
  { c1 with queues := tset c1.queues e ((c1.queue e).drop 1), headSince := tset c1.headSince e now }

/-- Put a frame among those of its engine that have started. -/
def Core.addStarted (c : Core) (e : Nat) (x : Started) : Core := { c with started := tset c.started e (c.running e ++ [x]) }

/-- The head of an engine's queue faults as it starts: it leaves the queue and raises the bit (R170). -/
def State.faultHead (s : State) (p e : Nat) (q : QFrame) (veu : Bool) (bit : Nat) : State :=
  (s.setCore p ((s.core p).popHead e q.bytes s.now)).raiseFault p veu bit q.at'

/-- Merge the counts of one watched frame into the entries (R204, Table 5.8): `none` when all 32 are valid and none matches. -/
def watchMerge (ws : List WatchSum) (w : WatchSum) : Option (List WatchSum) :=
  if ws.any fun x => x.tag == w.tag then
    some (ws.map fun x => if x.tag == w.tag then
      { x with
        elems := x.elems + w.elems
        zeros := x.zeros + w.zeros
        sats := x.sats + w.sats
        nonfin := x.nonfin + w.nonfin
        recomp := x.recomp + w.recomp
        fallback := x.fallback + w.fallback
        amax := if (val32 x.amax.toNat).lt (val32 w.amax.toNat) then w.amax else x.amax } else x)
  else if ws.length < 32 then some (ws ++ [w]) else none

/-- A remote signal on this module (R138): applied when the target runs under the same stamp, else answered ROLE_STALE. -/
def State.remoteSignal (s : State) (logical ctr inc : Nat) (stamp : Word) : Option State :=
  let t := s.logicalCore logical
  let c := s.core t
  if c.stepSeq = stamp ∧ c.mode = .running then
    match c.signal ctr inc with
    | some c' => some (s.setCore t c')
    | none => some (s.raiseUnplaced t false faultToken)
  else none

/-- The watch counts of a completing frame entered, or WATCH_FULL. -/
def State.enterWatch (s : State) (p : Nat) (x : Started) : State :=
  match x.watch with
  | none => s
  | some w =>
    match watchMerge (s.core p).watch w with
    | some ws => s.setCore p { s.core p with watch := ws }
    | none => s.raiseFault p true veuWatchFull x.frame.at'

/-- The remote signal of a completing COPY (R138, R161), and whether it was accepted: a refusal raises ROLE_STALE, and the frame does
not complete (Table 4.7). -/
def State.remotePart (s : State) (p : Nat) (x : Started) : State × Bool :=
  let f := x.frame.bytes
  let r := field f 38 2
  if frEngine f = 2 ∧ frOp f = 1 ∧ bitAt r 15 then
    match s.remoteSignal (bits r 8 0) (field f 40 1) (field f 41 1) (s.core p).stepSeq with
    | some s' => (s', true)
    | none => (s.raiseFault p false faultRole x.frame.at', false)
  else (s, true)

/-- FRAME_COMPLETE: the oldest started frame of an engine completes: lane flags and watch counts are entered (R201, R206), the
remote signal is sent, then counters are signalled (R133, R136), and the core settles. -/
def execFrameComplete (p : Nat) (e : Engine) (s : State) : Host.Outcome State Fault Refusal :=
  let c := s.core p
  let k := engineCode e
  .next (match c.running k with
  | [] => s
  | x :: rest =>
    if x.awaits.isSome || !s.coresClocked then s
    else
      let c1 := { c with
        started := tset c.started k rest
        veuFlags := c.veuFlags ||| BitVec.setWidth 32 x.flags
        veuFlagsStep := c.veuFlagsStep ||| BitVec.setWidth 32 x.flags }
      let r := ((s.setCore p c1).enterWatch p x).remotePart p x
      let s2 := r.1.ownSignals p x r.2
      s2.setCore p (s2.core p).settle)

/-- WAIT_TIMEOUT: a wait unmet for CORE_WAIT_LIMIT ticks since its frame reached the head, or the sequencer reached it, raises
WAIT_TIMEOUT at the first tick outside the interval; a limit of 0 disables it (R137, R36). -/
def execWaitTimeout (p : Nat) (e : Engine) (s : State) : Host.Outcome State Fault Refusal :=
  let c := s.core p
  let k := engineCode e
  .next (match c.taker k with
  | none => s
  | some f =>
    if c.active && !c.waitsMet f && c.waitLimit != 0 && decide (tgetD c.headSince k 0 + c.waitLimit.toNat ≤ s.now) then
      let slot := if k = 6 then c.pc else ((c.queue k).head?.map QFrame.slot).getD 0
      s.raiseFault p false faultWait (faultAtWord slot k (frTag f))
    else s)

end Sys2Proof.Machine
end

