-- ==== Sys2Proof/Machine/LoadStore.lean ====
section
/-! DEFINITION. LOAD, STORE and the copies of XFER on the module (R145 to R152, R161), with the overflow attempts and spill
entries of R95 to R98 and the watch counts of Table 5.8. Data moves when the frame starts; its signals wait for its
completion. -/

namespace Sys2Proof.Machine

/-! ### What every memory frame shares -/

/-- The device-physical addresses of a frame outside the memory tiers: a read there delivers 0 and a write has no effect, and each is
counted with its address (R19; assumption 146). -/
def State.reservedAt (s : State) (p : Nat) (q : QFrame) : List Nat :=
  (addressFields q.bytes).filterMap fun o =>
    match (s.core p).address q o with
    | (.phys, a) => if isMemory a then none else some a
    | (.ctx _, _) => none

/-- Accesses at reserved register addresses, each counted (R19). -/
def State.countReserved (s : State) (addrs : List Nat) : State := addrs.foldl (fun t a => t.ignored a none) s

/-- Start a frame whose data movement is `r`: it leaves its queue and is among those started, or raises a fault bit. -/
def State.startFrame (s : State) (p e : Nat) (q : QFrame) (r : Except Nat (State × Started)) : State :=
  match r with
  | .error bit => s.faultHead p e q false bit
  | .ok (s', x) =>
    let s1 := s'.countReserved (s.reservedAt p q)
    s1.setCore p (((s1.core p).popHead e q.bytes s1.now).addStarted e x)

/-- The device pieces of a frame's address range, aligned as the operation requires, or ADDR_FAULT (R126, R218). -/
def State.frameRange (s : State) (p : Nat) (q : QFrame) (o off n align : Nat) (write : Bool) : Except Nat (List (Nat × Nat)) :=
  let a := (s.core p).address q o
  if (a.2 + off) % align ≠ 0 then .error faultAddr
  else match s.resolveRange a.1 (a.2 + off) n write with
    | some ps => .ok ps
    | none => .error faultAddr

/-- Whether capping holds a frame's write (R219). -/
def State.frameHeld (s : State) (p : Nat) (q : QFrame) (o off n : Nat) : Bool :=
  let a := (s.core p).address q o
  s.rangeHeld a.1 (a.2 + off) n

/-- The device pieces of a frame's range for reading, none where it does not resolve. -/
def State.readPieces (s : State) (p : Nat) (q : QFrame) (o off n : Nat) : List (Nat × Nat) :=
  let a := (s.core p).address q o
  (s.resolveRange a.1 (a.2 + off) n false).getD []

/-- The bytes at an offset into a range of device pieces. -/
def State.pieceRead (s : State) (ps : List (Nat × Nat)) (o n : Nat) : List Byte :=
  (List.range n).map fun i => memGet s.mem (pieceAddr ps (o + i))

/-- Write bytes at an offset into a range of device pieces. -/
def State.pieceWrite (s : State) (ps : List (Nat × Nat)) (o : Nat) : List Byte → State
  | [] => s
  | b :: rest =>
    let d := pieceAddr ps o
    (if isMemory d then { s with mem := memSet s.mem d b } else s).pieceWrite ps (o + 1) rest

/-! ### LOAD -/

/-- The metadata byte of row `r` of a stored tile (R97, R141). -/
def State.rowMeta (s : State) (ps : List (Nat × Nat)) (fmt r : Nat) : Nat :=
  if isShort fmt then leNat (s.pieceRead ps (metaOffset fmt r) 1) else 0

/-- The address of the spill entry of row `r` of a stored tile: by the spill index in its storage and the spill area its STORE named
(R98, R152, assumption 13). -/
def State.spillEntry (s : State) (ps : List (Nat × Nat)) (fmt r : Nat) : Option Nat :=
  (tget s.spillOf (pieceAddr ps (tileOffset fmt r 0))).map fun area =>
    area + 256 * (leNat (s.pieceRead ps (tileOffset fmt r 0) 4) + 1)

/-- Whether one of the first `n` rows of a stored tile has a spill entry whose address does not translate (R126, R218). `sp` is the
space of the tile's address. -/
def State.spillsLost (s : State) (sp : Space) (ps : List (Nat × Nat)) (fmt : Nat) (rows : List Nat) : Bool :=
  rows.any fun r => bitAt (s.rowMeta ps fmt r) 2 &&
    match s.spillEntry ps fmt r with
    | some a => (s.resolveRange sp a 256 false).isNone
    | none => false

/-- Element (r, c) of a stored tile (R140, R141, R97, R98): a row segment with WIDE set comes from its spill entry. -/
def State.tileElem (s : State) (sp : Space) (ps : List (Nat × Nat)) (fmt : Nat) (j : Int) (r c : Nat) : Elem :=
  let rowMeta := s.rowMeta ps fmt r
  if bitAt rowMeta 2 then
    match (s.spillEntry ps fmt r).bind fun a => s.resolveRange sp a 256 false with
    | none => ⟨2, Config.freeValue (s.free + 128 * r + c) % 2 ^ 16, 0, 127⟩
    | some ep => ⟨2, leNat (s.pieceRead ep (2 * c) 2), 0, 127⟩
  else
    let e := if isShort fmt then j - 2 * (bits rowMeta 1 0 : Nat) else 0
    let o := tileOffset fmt r c
    if fmt = 6 then
      let byte := leNat (s.pieceRead ps o 1)
      ⟨6, if c % 2 = 0 then bits byte 3 0 else bits byte 7 4, e, leNat (s.pieceRead ps (blockOffset r (c / 32)) 1)⟩
    else ⟨fmt, leNat (s.pieceRead ps o (widthOf fmt / 8)), e, 127⟩

/-- SCALE_J of a frame. -/
def frScale (f : List Byte) (o : Nat) : Int := signed 8 (field f o 1)

/-- Rows of elements: `n` rows from `i`, each of `cols` columns, by a function of row and column. -/
def elemRows (g : Nat → Nat → Elem) (cols : Nat) (rows : Nat) : List (List Elem) :=
  (List.range rows).map fun r => (List.range cols).map fun c => g r c

/-- Put delivered elements into a core's buffer; an accumulator takes them as FP32 (assumption 15). -/
def Core.putBuf (c : Core) (k fmt : Nat) (rows : List (List Elem)) : Core :=
  if isAcc k then
    c.setAcc k { Acc.empty with cells := rows.map fun r => r.map fun e => (rne32 e.val : Int) }
  else { c with bufs := tset c.bufs k ⟨fmt, rows⟩ }

/-- LOAD TILE: the stored tile at SRC, transposed when asked (R145). -/
def State.loadTile (s : State) (p : Nat) (q : QFrame) : Except Nat (State × Started) :=
  let f := q.bytes
  let fmt := field f 25 1
  match s.frameRange p q 16 0 (tileBytes fmt) 128 false with
  | .error b => .error b
  | .ok ps =>
    let sp := ((s.core p).address q 16).1
    let g (r c : Nat) := s.tileElem sp ps fmt (frScale f 27) r c
    let t := field f 26 1 == 1
    let rows := elemRows (fun r c => if t then g c r else g r c) (field f 29 1 + 1) (field f 28 1 + 1)
    if s.spillsLost sp ps fmt (List.range (field f (if t then 29 else 28) 1 + 1)) then .error faultAddr
    else .ok ((s.setCore p ((s.core p).putBuf (field f 24 1) fmt rows)).bumpFree, startedOf q)

/-- A row index of GATHER, SCATTER or SCATTER_ADD. -/
def State.rowIndex (s : State) (ps : List (Nat × Nat)) (i : Nat) : Nat := leNat (s.pieceRead ps (4 * i) 4)

/-- The rows of LOAD GATHER, one after another: a row at or above the bound is +0 (R58, R148). -/
def State.gatherRows (s : State) (p : Nat) (q : QFrame) (ixs : List (Nat × Nat)) (cols : Nat) :
    Nat → Nat → Except Nat (List (List Elem))
  | _, 0 => .ok []
  | i, n + 1 =>
    let f := q.bytes
    let fmt := field f 25 1
    let row := s.rowIndex ixs i
    let here : Except Nat (List Elem) :=
      if field f 44 4 ≤ row then .ok ((List.range cols).map fun _ => Elem.zero fmt)
      else match s.frameRange p q 16 (row / 128 * field f 40 4 * tileBytes fmt) (tileBytes fmt) 128 false with
        | .error b => .error b
        | .ok ps =>
          let sp := ((s.core p).address q 16).1
          if s.spillsLost sp ps fmt [row % 128] then .error faultAddr
          else .ok ((List.range cols).map fun c => s.tileElem sp ps fmt (frScale f 27) (row % 128) c)
    match here with
    | .error b => .error b
    | .ok r =>
      match s.gatherRows p q ixs cols (i + 1) n with
      | .error b => .error b
      | .ok rest => .ok (r :: rest)

/-- Element (r, c) of a list of rows. -/
def rowElem (rows : List (List Elem)) (fmt r c : Nat) : Elem := ((rows[r]?).bind fun x => x[c]?).getD (.zero fmt)

/-- LOAD GATHER: buffer row i from source row INDEX[i]; transposed when asked (R145, R148). -/
def State.loadGather (s : State) (p : Nat) (q : QFrame) : Except Nat (State × Started) :=
  let f := q.bytes
  let fmt := field f 25 1
  let t := field f 26 1 == 1
  let rows := field f 28 1 + 1
  let cols := field f 29 1 + 1
  let n := if t then cols else rows
  match s.frameRange p q 48 0 (4 * n) 4 false with
  | .error b => .error b
  | .ok ixs =>
    match s.gatherRows p q ixs (if t then rows else cols) 0 n with
    | .error b => .error b
    | .ok got =>
      let out := if t then elemRows (fun r c => rowElem got fmt c r) cols rows else got
      .ok ((s.setCore p ((s.core p).putBuf (field f 24 1) fmt out)).bumpFree, startedOf q)

/-- Put plain bytes into a buffer or an accumulator. -/
def Core.putBytes (c : Core) (k base : Nat) (bs : List Byte) : Core :=
  let c1 := if isAcc k then c.setAcc k ((c.acc k).rawCells base) else c
  { c1 with bufs := tset c1.bufs k (.ofBytes bs) }

/-- LOAD LINEAR: COLS + 1 blocks of 64 bytes unchanged (R147). -/
def State.loadLinear (s : State) (p : Nat) (q : QFrame) : Except Nat (State × Started) :=
  let f := q.bytes
  let n := 64 * (field f 29 1 + 1)
  match s.frameRange p q 16 0 n 64 false with
  | .error b => .error b
  | .ok ps =>
    .ok ((s.setCore p ((s.core p).putBytes (field f 24 1) s.free (s.pieceRead ps 0 n))).bumpFree, startedOf q)

/-- The offsets in a tile of what row `r` occupies: its elements, FP4 exponents and metadata byte (R140, R141). -/
def rowSpans (fmt r : Nat) : List (Nat × Nat) :=
  ((List.range 4).map fun k => (tileOffset fmt r (32 * k), 4 * widthOf fmt)) ++ (if fmt = 6 then [(blockOffset r 0, 4)] else []) ++
    if isShort fmt then [(metaOffset fmt r, 1)] else []

/-- The device bytes of some rows of a tile at `off` from a frame's address, and of their spill entries. -/
def State.rowReads (s : State) (p : Nat) (q : QFrame) (off fmt : Nat) (rows : List Nat) : List (Nat × Nat) :=
  let ps := s.readPieces p q 16 off (tileBytes fmt)
  if ps.isEmpty then []
  else rows.flatMap fun r =>
    (rowSpans fmt r).map (fun x => (pieceAddr ps x.1, x.2)) ++
      if bitAt (s.rowMeta ps fmt r) 2 then
        ((s.spillEntry ps fmt r).bind fun a => s.resolveRange ((s.core p).address q 16).1 a 256 false).getD []
      else []

/-- The rows at an index field's entries, below the bound. -/
def State.indexRows (s : State) (ixs : List (Nat × Nat)) (bound n : Nat) : List Nat :=
  ((List.range n).map fun i => s.rowIndex ixs i).filter fun r => decide (r < bound)

/-- The device bytes that a memory frame reads as it starts: its source, its row indices, the rows that they name, and the rows that
SCATTER_ADD adds to. -/
def State.frameReads (s : State) (p e : Nat) (q : QFrame) : List (Nat × Nat) :=
  let f := q.bytes
  let fmt := field f 25 1
  let t := e = 0 ∧ field f 26 1 = 1
  let n := field f (if t then 29 else 28) 1 + 1
  match e, frOp f with
  | 0, 1 => s.rowReads p q 0 fmt (List.range n)
  | 0, 2 =>
    let ixs := s.readPieces p q 48 0 (4 * n)
    ixs ++ (s.indexRows ixs (field f 44 4) n).flatMap fun r =>
      s.rowReads p q (r / 128 * field f 40 4 * tileBytes fmt) fmt [r % 128]
  | 0, _ => s.readPieces p q 16 0 (64 * (field f 29 1 + 1))
  | 1, 2 => s.readPieces p q 48 0 (4 * n)
  | 1, 3 =>
    let ixs := s.readPieces p q 48 0 (4 * n)
    ixs ++ (s.indexRows ixs (field f 44 4) n).flatMap fun r =>
      s.rowReads p q (r / 128 * Config.scatterTcols f * tileBytes 1) 1 [r % 128]
  | 2, _ => s.readPieces p q 16 0 (field f 32 4)
  | _, _ => []

/-- The outcome of a frame's reads (R226 to R228): an uncorrectable error faults the frame, and the second part is `false`. -/
def State.readOutcome (s : State) (p e : Nat) (q : QFrame) (m : MemOutcome) : State × Bool :=
  match s.readErrors (s.frameReads p e q) (s.core p).ctx m with
  | (s1, true) => (s1, true)
  | (s1, false) => (s1.faultHead p e q false faultMem, false)

/-- Start the head frame of an engine's queue on physical core `p` when it is of opcode `op`, after its reads' outcome. -/
def State.startHead (s : State) (p e op : Nat) (m : MemOutcome) (k : State → QFrame → Except Nat (State × Started)) : State :=
  match s.head p e with
  | none => s
  | some q =>
    if frOp q.bytes ≠ op then s
    else
      match s.readOutcome p e q m with
      | (s1, false) => s1
      | (s1, true) => s1.startFrame p e q (k s1 q)

/-- LOAD_TILE (R145). -/
def execLoadTile (p : Nat) (m : MemOutcome) (s : State) : Host.Outcome State Fault Refusal :=
  .next (s.startHead p 0 1 m fun s q => s.loadTile p q)

/-- LOAD_GATHER (R148). -/
def execLoadGather (p : Nat) (m : MemOutcome) (s : State) : Host.Outcome State Fault Refusal :=
  .next (s.startHead p 0 2 m fun s q => s.loadGather p q)

/-- LOAD_LINEAR (R147). -/
def execLoadLinear (p : Nat) (m : MemOutcome) (s : State) : Host.Outcome State Fault Refusal :=
  .next (s.startHead p 0 3 m fun s q => s.loadLinear p q)

/-! ### Conversion of a row segment (R80 to R99, R151) -/

/-- A written row segment: attempt kept, whether BF16, element codes, FP4 block exponents, and its counts. -/
structure RowOut where
  attempt : Nat
  wide : Bool
  codes : List Nat
  blocks : List Nat
  sats : Nat
  zeros : Nat
  nonfin : Nat
  deriving DecidableEq, Repr

/-- Whether an element code of a format is a zero of either sign. -/
def codeZero (fmt x : Nat) : Bool := if fmt = 7 then x == 0 else x % 2 ^ (widthOf fmt - 1) == 0

/-- Whether an element code of a format is NaN or an infinity. -/
def codeNonfinite (fmt x : Nat) : Bool := !(decodeFmt fmt x).isFinite

/-- Convert 128 values as FP4 with a scale exponent; counts run over the first `cols` (R87, R88, Table 5.8). -/
def convertFp4 (vals : List Val) (j : Int) (cols : Nat) : RowOut :=
  let bs := (chunksOf 32 4 vals).map fun b => encodeBlock (b.map fun v => v.scale j)
  let codes := bs.flatMap Fp4Block.codes
  let bad := bs.flatMap fun b => b.codes.map fun _ => b.nonfin
  ⟨0, false, codes, bs.map Fp4Block.exponent, (bs.map Fp4Block.sats).sum,
    ((codes.zip bad).take cols |>.filter fun x => !x.2 && x.1 % 8 == 0).length, ((bad.take cols).filter id).length⟩

/-- Convert 128 values to a format other than FP4 with a scale exponent. -/
def convertPlain (fmt : Nat) (vals : List Val) (j : Int) (cols : Nat) : RowOut :=
  let cs := vals.map fun v => encodeFmt fmt (if isShort fmt then v.scale j else v)
  let here := cs.take cols
  ⟨0, false, cs.map Conv.bits, [], (cs.filter Conv.sat).length,
    (here.filter fun c => !c.nonfin && codeZero fmt c.bits).length,
    (here.filter fun c => c.nonfin || codeNonfinite fmt c.bits).length⟩

/-- Convert a row segment once. -/
def convertOnce (fmt : Nat) (vals : List Val) (j : Int) (cols : Nat) : RowOut :=
  if fmt = 6 then convertFp4 vals j cols else convertPlain fmt vals j cols

/-- The attempts of R95 from `n` on: the first in which nothing saturates, else BF16. -/
def attempts (fmt : Nat) (vals : List Val) (j : Int) (cols : Nat) : Nat → Nat → RowOut
  | _, 0 => { convertPlain 2 vals 0 cols with wide := true, attempt := 3 }
  | n, fuel + 1 =>
    let jn := j - 2 * (n : Int)
    let r := convertOnce fmt vals jn cols
    if jn < -127 ∨ 0 < r.sats then attempts fmt vals j cols (n + 1) fuel else { r with attempt := n }

/-- A row segment converted as STORE does (R151). -/
def convertRow (fmt : Nat) (retry : Bool) (vals : List Val) (j : Int) (cols : Nat) : RowOut :=
  if retry && isShort fmt then attempts fmt vals j cols 0 4 else convertOnce fmt vals j cols

/-- The largest finite magnitude among the first `cols` values (AMAX of Table 5.8), as FP32: a magnitude that is no FP32 value rounds by
RNE, beyond FP32's range to the infinity (DESIGN CHOICE, assumption 149). -/
def rowAmax (vals : List Val) (cols : Nat) : Word := BitVec.ofNat 32 (rne32 (maxMagnitude (vals.take cols)))

/-- The watch counts of one row segment. -/
def rowWatch (tag : Nat) (r : RowOut) (vals : List Val) (cols : Nat) : WatchSum :=
  ⟨tag, cols, r.zeros, if r.wide then 0 else r.sats, r.nonfin, r.attempt, b2n r.wide, rowAmax vals cols⟩

/-- The sum of two watch counts of one tensor. -/
def watchJoin (a b : WatchSum) : WatchSum :=
  ⟨a.tag, a.elems + b.elems, a.zeros + b.zeros, a.sats + b.sats, a.nonfin + b.nonfin, a.recomp + b.recomp,
    a.fallback + b.fallback, if (val32 a.amax.toNat).lt (val32 b.amax.toNat) then b.amax else a.amax⟩

/-- The element bytes of a row segment, by column pairs for FP4: offset and byte. -/
def rowCells (fmt r : Nat) (codes : List Nat) : List (Nat × List Byte) :=
  if fmt = 6 then
    (List.range 64).map fun i =>
      (tileOffset 6 r (2 * i), [BitVec.ofNat 8 ((codes[2 * i]?).getD 0 + 16 * (codes[2 * i + 1]?).getD 0)])
  else (List.range codes.length).map fun c => (tileOffset fmt r c, leBytes (widthOf fmt / 8) ((codes[c]?).getD 0))

/-- Write each piece of a row segment. -/
def State.writeCells (s : State) (ps : List (Nat × Nat)) (cells : List (Nat × List Byte)) : State :=
  cells.foldl (fun t x => t.pieceWrite ps x.1 x.2) s

/-- Write row `r` of a tile: its elements, FP4 exponents and metadata byte (R97, R141, R151). -/
def State.writeRow (s : State) (ps : List (Nat × Nat)) (fmt r : Nat) (o : RowOut) : State :=
  let s1 := s.writeCells ps (rowCells fmt r o.codes)
  let s2 := s1.writeCells ps ((List.range o.blocks.length).map fun b =>
    (blockOffset r b, leBytes 1 ((o.blocks[b]?).getD 0)))
  if isShort fmt then s2.pieceWrite ps (metaOffset fmt r) (leBytes 1 o.attempt) else s2

/-- What stops a STORE frame: the state with what it wrote before, and a fault bit, or `heldWrite` (assumption 132). -/
abbrev StoreStop := State × Nat

/-- A STORE frame stops because capping holds a write to its spill area: no fault bit, the frame has not started (R219). -/
def heldWrite : Nat := 32

/-- The device pieces of a frame's range, or the stop of a STORE frame that has written what `s` holds. -/
def State.storeRange (s : State) (p : Nat) (q : QFrame) (o off n align : Nat) (write : Bool) : Except StoreStop (List (Nat × Nat)) :=
  match s.frameRange p q o off n align write with
  | .error b => .error (s, b)
  | .ok ps => .ok ps

/-- The device pieces of a part of the spill area, written unless capping holds it. Its address is 8-byte aligned, as its count needs
(DESIGN CHOICE, assumption 22). -/
def State.spillRange (s : State) (p : Nat) (q : QFrame) (off n : Nat) : Except StoreStop (List (Nat × Nat)) :=
  if s.frameHeld p q 32 off n then .error (s, heldWrite) else s.storeRange p q 32 off n 8 true

/-- Write row `r` of a tile as a BF16 row segment: the spill index taken from the area's count, the entry, the index in the
row's storage and the metadata byte (R98, R151, R152). SPILL_FULL where the index reaches SPILL_CAP, the count taken. -/
def State.writeWide (s : State) (p : Nat) (q : QFrame) (ps : List (Nat × Nat)) (fmt r : Nat) (o : RowOut) : Except StoreStop State :=
  match s.spillRange p q 0 8 with
  | .error b => .error b
  | .ok cp =>
    let index := leNat (s.pieceRead cp 0 8)
    match s.damagedIn cp with
    | some w => .error (s.memUncorrectable w false (s.core p).ctx, faultMem)
    | none =>
    let s1 := s.pieceWrite cp 0 (leBytes 8 (index + 1))
    if field q.bytes 40 4 ≤ index then .error (s1, faultSpill)
    else match s1.spillRange p q (256 * (index + 1)) 256 with
      | .error b => .error b
      | .ok ep =>
        let s2 := s1.pieceWrite ep 0 ((o.codes.take 128).flatMap fun x => leBytes 2 x)
        let s3 := s2.writeCells ps (rowCells fmt r (List.replicate 128 0))
        let s4 := s3.pieceWrite ps (tileOffset fmt r 0) (leBytes 4 index)
        let s5 := s4.pieceWrite ps (metaOffset fmt r) (leBytes 1 4)
        .ok { s5 with spillOf := tset s5.spillOf (pieceAddr ps (tileOffset fmt r 0)) ((s.core p).address q 32).2 }

/-- The 128 values of row `r` of a STORE source: +0 outside COLS. -/
def Core.storeRow (c : Core) (f : List Byte) (base r : Nat) : List Val :=
  let cols := field f 29 1 + 1
  (List.range 128).map fun col => if col < cols then c.source (field f 24 1) base r col else Val.zero

/-- Store row `r` of the source as row `dr` of the tile at `ps`: the state and the row's counts. -/
def State.storeRowAt (s : State) (p : Nat) (q : QFrame) (ps : List (Nat × Nat)) (r dr : Nat) : Except StoreStop (State × WatchSum) :=
  let f := q.bytes
  let fmt := field f 25 1
  let cols := field f 29 1 + 1
  let vals := (s.core p).storeRow f s.free r
  let o := convertRow fmt (bitAt (field f 26 1) 0) vals (frScale f 27) cols
  let w := rowWatch (frTag f) o vals cols
  if o.wide then
    match s.writeWide p q ps fmt dr o with
    | .error b => .error b
    | .ok s' => .ok (s', w)
  else .ok (s.writeRow ps fmt dr o, w)

/-- A started STORE frame with its counts when WATCH is set (R206). -/
def storeStarted (q : QFrame) (w : WatchSum) : Started :=
  ⟨q, 0, if bitAt (field q.bytes 26 1) 1 then some w else none, none⟩

/-- The rows of STORE TILE in order. -/
def State.storeRows (s : State) (p : Nat) (q : QFrame) (ps : List (Nat × Nat)) :
    Nat → Nat → WatchSum → Except StoreStop (State × WatchSum)
  | _, 0, w => .ok (s, w)
  | r, n + 1, w =>
    match s.storeRowAt p q ps r r with
    | .error b => .error b
    | .ok (s', w') => s'.storeRows p q ps (r + 1) n (watchJoin w w')

/-- No counts yet for a tensor. -/
def watchNone (tag : Nat) : WatchSum := ⟨tag, 0, 0, 0, 0, 0, 0, 0⟩

/-- STORE TILE: ROWS row segments converted and written, +0 in every other element of the tile (R142, R151). -/
def State.storeTile (s : State) (p : Nat) (q : QFrame) : Except StoreStop (State × Started) :=
  let f := q.bytes
  match s.storeRange p q 16 0 (tileBytes (field f 25 1)) 128 true with
  | .error b => .error b
  | .ok ps =>
    let s0 := ps.foldl (fun (t : State) d => t.zero d.1 (d.1 + d.2)) s
    match s0.storeRows p q ps 0 (field f 28 1 + 1) (watchNone (frTag f)) with
    | .error b => .error b
    | .ok (s1, w) => .ok (s1, storeStarted q w)

/-- The rows of SCATTER in order: an index at or above the bound writes nothing (R58, R59, R148). -/
def State.scatterRows (s : State) (p : Nat) (q : QFrame) (ixs : List (Nat × Nat)) :
    Nat → Nat → WatchSum → Except StoreStop (State × WatchSum)
  | _, 0, w => .ok (s, w)
  | i, n + 1, w =>
    let f := q.bytes
    let row := s.rowIndex ixs i
    if field f 44 4 ≤ row then s.scatterRows p q ixs (i + 1) n w
    else
      let fmt := field f 25 1
      match s.storeRange p q 16 (row / 128 * Config.scatterTcols f * tileBytes fmt) (tileBytes fmt) 128 true with
      | .error b => .error b
      | .ok ps =>
        match s.storeRowAt p q ps i (row % 128) with
        | .error b => .error b
        | .ok (s', w') => s'.scatterRows p q ixs (i + 1) n (watchJoin w w')

/-- STORE SCATTER (R148). -/
def State.storeScatter (s : State) (p : Nat) (q : QFrame) : Except StoreStop (State × Started) :=
  let n := field q.bytes 28 1 + 1
  match s.storeRange p q 48 0 (4 * n) 4 false with
  | .error b => .error b
  | .ok ixs =>
    match s.scatterRows p q ixs 0 n (watchNone (frTag q.bytes)) with
    | .error b => .error b
    | .ok (s1, w) => .ok (s1, storeStarted q w)

/-- Add one row of values into an FP32 row of a tile, column by column (R149). -/
def State.addRow (s : State) (ps : List (Nat × Nat)) (r : Nat) : Nat → List Val → State
  | _, [] => s
  | c, v :: rest =>
    let o := tileOffset 1 r c
    let old := leNat (s.pieceRead ps o 4)
    (s.pieceWrite ps o (leBytes 4 (sum32 ((val32 old).add v)))).addRow ps r (c + 1) rest

/-- The watch counts of FP32 rows that SCATTER_ADD leaves in memory. -/
def addedWatch (tag : Nat) (codes : List Nat) (vals : List Val) : WatchSum :=
  ⟨tag, codes.length, (codes.filter fun x => codeZero 1 x).length, 0, (codes.filter fun x => codeNonfinite 1 x).length, 0, 0,
    BitVec.ofNat 32 (rne32 (maxMagnitude vals))⟩

/-- The rows of SCATTER_ADD in increasing order (R59, R149). -/
def State.scatterAddRows (s : State) (p : Nat) (q : QFrame) (ixs : List (Nat × Nat)) :
    Nat → Nat → WatchSum → Except StoreStop (State × WatchSum)
  | _, 0, w => .ok (s, w)
  | i, n + 1, w =>
    let f := q.bytes
    let row := s.rowIndex ixs i
    if field f 44 4 ≤ row then s.scatterAddRows p q ixs (i + 1) n w
    else match s.storeRange p q 16 (row / 128 * Config.scatterTcols f * tileBytes 1) (tileBytes 1) 128 true with
      | .error b => .error b
      | .ok ps =>
        let cols := field f 29 1 + 1
        let vals := ((s.core p).storeRow f s.free i).take cols
        let s1 := s.addRow ps (row % 128) 0 vals
        let codes := (List.range cols).map fun c => leNat (s1.pieceRead ps (tileOffset 1 (row % 128) c) 4)
        s1.scatterAddRows p q ixs (i + 1) n (watchJoin w (addedWatch (frTag f) codes (codes.map val32)))

/-- STORE SCATTER_ADD (R149). -/
def State.storeScatterAdd (s : State) (p : Nat) (q : QFrame) : Except StoreStop (State × Started) :=
  let n := field q.bytes 28 1 + 1
  match s.storeRange p q 48 0 (4 * n) 4 false with
  | .error b => .error b
  | .ok ixs =>
    match s.scatterAddRows p q ixs 0 n (watchNone (frTag q.bytes)) with
    | .error b => .error b
    | .ok (s1, w) => .ok (s1, storeStarted q w)

/-- STORE LINEAR: COLS + 1 blocks of 64 bytes unchanged (R147). Its bytes have no elements of a tensor, so WATCH feeds no entry (DESIGN
CHOICE, assumption 148). -/
def State.storeLinear (s : State) (p : Nat) (q : QFrame) : Except StoreStop (State × Started) :=
  let f := q.bytes
  let n := 64 * (field f 29 1 + 1)
  match s.storeRange p q 16 0 n 64 true with
  | .error b => .error b
  | .ok ps => .ok (s.writePieces ps (((s.core p).buf (field f 24 1)).byteList s.free n), startedOf q)

/-- Bytes that a STORE frame may write from its DST, for the capping hold (R219): its tile, its rows' tiles, or its blocks. -/
def State.storeHeld (s : State) (p : Nat) (q : QFrame) : Bool :=
  let f := q.bytes
  let fmt := field f 25 1
  match frOp f with
  | 1 => s.frameHeld p q 16 0 (tileBytes fmt)
  | 4 => s.frameHeld p q 16 0 (64 * (field f 29 1 + 1))
  | _ =>
    let t := if frOp f = 3 then tileBytes 1 else tileBytes fmt
    match s.frameRange p q 48 0 (4 * (field f 28 1 + 1)) 4 false with
    | .error _ => false
    | .ok ixs => (List.range (field f 28 1 + 1)).any fun i =>
        let row := s.rowIndex ixs i
        decide (row < field f 44 4) && s.frameHeld p q 16 (row / 128 * Config.scatterTcols f * t) t

/-! ### Fingerprints of compared writes (R500, R501) -/

/-- Add one term to a fingerprint: XOR in the low half, sum in the high half. -/
def fpAdd (fp : Long) (t : Nat) : Long :=
  BitVec.ofNat 64 (((fp.toNat % 2 ^ 32) ^^^ (t % 2 ^ 32)) + 2 ^ 32 * ((fp.toNat / 2 ^ 32 + t) % 2 ^ 32))

/-- The term of a write: CRC-32C over its bytes, the context address of the first byte, and the length. -/
def writeTerm (addr : Nat) (b : List Byte) : Nat := crc32c (b ++ leBytes 8 addr ++ leBytes 4 b.length)

/-- A run of bytes in the single writes of a frame: address and length of each; what the split leaves over is one more. -/
def splitRun (a n : Nat) : List Nat → List (Nat × Nat)
  | [] => if n = 0 then [] else [(a, n)]
  | k :: rest => if n = 0 then [] else if k = 0 then splitRun a n rest else (a, min k n) :: splitRun (a + min k n) (n - min k n) rest

/-- Whether a context address lies in a compared region of the run of context `c` (R501): the KV planes and the logits buffer in
a generation step, the bucket send area in a learning pass. -/
def State.compared (s : State) (c a : Nat) : Bool :=
  let r := s.creg c
  (s.steps.any fun t => t.ctx == c && t.phase == .running &&
    (decide (r.kvBase.toNat + r.listArea ≤ a ∧ a < r.kvBase.toNat + r.poolBytes) ||
      match (s.ctx c).bind fun x => (tget x.packages t.package).map Loaded.package with
      | some p => decide (p.logitsBase ≤ a ∧ a < p.logitsBase + p.logitsStride * p.maxTokens)
      | none => false)) ||
  s.learnSteps.any fun t => t.ctx == c && t.running &&
    match (s.ctx c).bind fun x => (tget x.packages t.plan.package).map Loaded.package with
    | some p => p.inArea [.send] a 1
    | none => false

/-- Add the terms of a run of bytes at a context address to the fingerprint of the context's run. -/
def State.fingerprint (s : State) (c a : Nat) (b : List Byte) : State :=
  if !s.compared c a then s
  else
    let terms := (splitRun a b.length (Config.writeSplit a b.length)).map fun w =>
      writeTerm w.1 ((b.drop (w.1 - a)).take w.2)
    let fold (fp : Long) : Long := terms.foldl fpAdd fp
    let s1 : State := { s with
      steps := s.steps.map fun t => if t.ctx == c && t.phase == .running then { t with fp := fold t.fp } else t
      learnSteps := s.learnSteps.map fun t => if t.ctx == c && t.running then { t with fp := fold t.fp } else t }
    { s1 with guard := { s1.guard with fp := fold s1.guard.fp } }

/-- The bytes of a stored row's pieces with a spill index taken as 0: elements by column blocks, block exponents, metadata. -/
def State.rowPieces (s : State) (c a fmt r : Nat) : List (Nat × List Byte) :=
  let run (k : Nat) : Nat × List Byte :=
    let o := a + tileOffset fmt r (32 * k)
    (o, s.readCtx c o (32 * widthOf fmt / 8))
  let wide := isShort fmt && bitAt (leNat (s.readCtx c (a + metaOffset fmt r) 1)) 2
  let els := (List.range 4).map fun k => if k = 0 && wide then ((run 0).1, zeroField (run 0).2 0) else run k
  els ++ (if fmt = 6 then [(a + blockOffset r 0, s.readCtx c (a + blockOffset r 0) 4)] else []) ++
    if isShort fmt then [(a + metaOffset fmt r, s.readCtx c (a + metaOffset fmt r) 1)] else []

/-- The pieces of a whole tile, in row order. -/
def State.tilePieces (s : State) (c a fmt : Nat) : List (Nat × List Byte) := (List.range 128).flatMap fun r => s.rowPieces c a fmt r

/-- Add the writes of a STORE frame that has moved its data to its run's fingerprint. -/
def State.fingerprintFrame (s : State) (p : Nat) (q : QFrame) : State :=
  let f := q.bytes
  match (s.core p).address q 16 with
  | (.ctx c, a) =>
    let fmt := if frOp f = 3 then 1 else field f 25 1
    let ps :=
      if frOp f = 1 then s.tilePieces c a fmt
      else if frOp f = 4 then [(a, s.readCtx c a (64 * (field f 29 1 + 1)))]
      else
        let ix := ((s.core p).address q 48).2
        (List.range (field f 28 1 + 1)).flatMap fun i =>
          let row := leNat (s.readCtx c (ix + 4 * i) 4)
          if field f 44 4 ≤ row then [] else s.rowPieces c (a + row / 128 * Config.scatterTcols f * tileBytes fmt) fmt (row % 128)
    ps.foldl (fun t w => t.fingerprint c w.1 w.2) s
  | (.phys, _) => s

/-- What a STORE frame comes to, its data movement being `r`: its fingerprint terms and its start, the fault that stopped it with
what it had written before, or `s`, the state before it, where capping holds its spill area. Free values that a plain-byte source needed are used
up. -/
def State.endStore (s : State) (p : Nat) (q : QFrame) (r : Except StoreStop (State × Started)) : State :=
  match r with
  | .ok (t, x) => ((t.fingerprintFrame p q).startFrame p 1 q (.ok (t.fingerprintFrame p q, x))).bumpFree
  | .error (t, bit) => if bit = heldWrite then s else (t.faultHead p 1 q false bit).bumpFree

/-- Start a STORE frame of opcode `op` unless capping holds its write (R219). -/
def State.startStore (s : State) (p op : Nat) (m : MemOutcome) (k : State → QFrame → Except StoreStop (State × Started)) : State :=
  match s.head p 1 with
  | none => s
  | some q =>
    if frOp q.bytes ≠ op ∨ s.storeHeld p q = true then s
    else
      match s.readOutcome p 1 q m with
      | (s1, false) => s1
      | (s1, true) => s.endStore p q (k s1 q)

/-- STORE_TILE (R151). -/
def execStoreTile (p : CoreRead) (s : State) : Host.Outcome State Fault Refusal :=
  .next (s.startStore p.core 1 p.read fun s q => s.storeTile p.core q)

/-- STORE_SCATTER (R148). -/
def execStoreScatter (p : Nat) (m : MemOutcome) (s : State) : Host.Outcome State Fault Refusal :=
  .next (s.startStore p 2 m fun s q => s.storeScatter p q)

/-- STORE_SCATTER_ADD (R149). -/
def execStoreScatterAdd (p : Nat) (m : MemOutcome) (s : State) : Host.Outcome State Fault Refusal :=
  .next (s.startStore p 3 m fun s q => s.storeScatterAdd p q)

/-- STORE_LINEAR (R147). -/
def execStoreLinear (p : Nat) (s : State) : Host.Outcome State Fault Refusal :=
  .next (s.startStore p 4 .ok fun s q => s.storeLinear p q)

/-! ### XFER COPY (R161) -/

/-- The spill areas named at a copy's source stand for the rows at its destination (R97, assumption 13). -/
def State.moveSpills (s : State) (src dst : List (Nat × Nat)) (n : Nat) : State :=
  let moved := (s.spillOf.filter fun e => src.any fun d => decide (d.1 ≤ e.1 ∧ e.1 < d.1 + d.2)).map fun e =>
    (pieceAddr dst (pieceOffset src e.1), e.2)
  { s with spillOf := if n = 0 then s.spillOf else moved.foldl (fun t e => tset t e.1 e.2) s.spillOf }

/-- XFER COPY: LENGTH bytes from SRC to DST. -/
def State.copyFrame (s : State) (p : Nat) (q : QFrame) : Except Nat (State × Started) :=
  let n := field q.bytes 32 4
  match s.frameRange p q 16 0 n 64 false with
  | .error b => .error b
  | .ok src =>
    match s.frameRange p q 24 0 n 64 true with
    | .error b => .error b
    | .ok dst =>
      let s1 := s.writePieces dst (src.flatMap fun d => s.read d.1 d.2)
      .ok (s1.moveSpills src dst n, startedOf q)

/-- COPY: memory to memory on the module, held where capping protects the destination (R161, R219). -/
def execCopy (p : Nat) (m : MemOutcome) (s : State) : Host.Outcome State Fault Refusal :=
  .next (match s.head p 2 with
  | none => s
  | some q =>
    if frOp q.bytes = 1 ∧ s.frameHeld p q 24 0 (field q.bytes 32 4) then s
    else s.startHead p 2 1 m fun s q => s.copyFrame p q)

end Sys2Proof.Machine
end

