-- ==== Sys2Proof/Machine/Matrix.lean ====
section
/-! DEFINITION. The matrix engines FME and BME (R153 to R160): the tile operation and the finish of a segment. -/

namespace Sys2Proof.Machine

/-- M. -/
def frM (f : List Byte) : Nat := bits (field f 20 1) 6 0 + 1
/-- N. -/
def frN (f : List Byte) : Nat := bits (field f 21 1) 6 0 + 1
/-- DEPTH in sub-blocks. -/
def frDepth (f : List Byte) : Nat := bits (field f 22 1) 1 0 + 1
/-- CLEAR. -/
def frClear (f : List Byte) : Bool := bitAt (field f 22 1) 7
/-- KSEQ. -/
def frKseq (f : List Byte) : Nat := bits (field f 23 1) 6 0
/-- Whether a tile operation is of INT8 operands. -/
def frInt (f : List Byte) : Bool := bits (field f 19 1) 3 0 == 7

/-- One product as it enters level 1: the operands' stored values, with the factor of R158 by the reference exponents. -/
def tileTerm (a b : Elem) (rA rB : Int) : Val := (a.raw.mul b.raw).scale ((rA - a.exponent) + (rB - b.exponent))

/-- The 32 products of sub-block `sub` of a tile operation for output element (m, n). -/
def tileTerms (ab bb : Buf) (base sub m n : Nat) (rA rB : Int) : List Val :=
  (List.range 32).map fun i =>
    tileTerm (ab.elem base m (32 * sub + i)) (bb.elem (base + 0x4000) (32 * sub + i) n) rA rB

/-- The integer a finite value is, within 32 signed bits; `none` where it is none. -/
def exactInt (v : Val) : Option Int :=
  match v with
  | .fin n m e =>
    if m ≠ 0 && decide (e < 0) && m % 2 ^ (-e).toNat != 0 then none
    else
      let k := m * 2 ^ e.toNat / 2 ^ (-e).toNat
      let i : Int := if n then -(k : Int) else k
      if -(2 ^ 31 : Int) ≤ i ∧ i < 2 ^ 31 then some i else none
  | _ => none

/-- An integer accumulator element after the products of a tile operation (R159): exact, and free where the exact sum is no
integer of 32 bits, which no rule gives a result for. -/
def intCell (old : Int) (terms : List Val) (free : Nat) : Int :=
  match exactInt (terms.foldl Val.add (.ofInt old)) with
  | some i => i
  | none => signed 32 (Config.freeValue free)

/-- One accumulator element after a tile operation: sub-blocks folded in increasing index (level 2 of Table 2.1). Outside M × N
every term is absent and the element stays (R48, R156). -/
def mmaCell (int : Bool) (f : List Byte) (ab bb : Buf) (base m n : Nat) (rA rB old : Int) : Int :=
  if frM f ≤ m || frN f ≤ n then old
  else if int then
    intCell old ((List.range (frDepth f)).flatMap fun sub => tileTerms ab bb base sub m n rA rB) (base + 0x8000 + 128 * m + n)
  else
    ((List.range (frDepth f)).foldl (fun acc sub => addSum acc (subBlock (tileTerms ab bb base sub m n rA rB))) old.toNat : Nat)

/-- The reference exponents of a segment's rows or columns: taken at its first contraction index (R158). -/
def refsOf (first : Bool) (old : List Int) (n : Nat) (g : Nat → Int) : List Int :=
  if first then (List.range n).map g else old

/-- The element an accumulator holds where the running kind (integer or FP32) is the tile operation's own; the bits of the
other kind are free. -/
def Acc.carry (a : Acc) (int : Bool) (base m n : Nat) : Int :=
  if a.int == int || a.cells.isEmpty then a.cell m n
  else if int then signed 32 (Config.freeValue (base + 0xC000 + 128 * m + n))
  else (Config.freeValue (base + 0xC000 + 128 * m + n) % 2 ^ 32 : Nat)

/-- An accumulator after MMA, its index checks made (R157). -/
def Acc.mma (a : Acc) (f : List Byte) (ab bb : Buf) (base : Nat) : Acc :=
  let int := frInt f
  let a0 : Acc := if frClear f then Acc.empty else a
  let first := frClear f || (a0.cells.isEmpty && frKseq f == 0) || (!int && frKseq f == 0)
  let refA := refsOf first a0.refA (frM f) fun m => (ab.elem base m 0).exponent
  let refB := refsOf first a0.refB (frN f) fun n => (bb.elem (base + 0x4000) 0 n).exponent
  let next := (frKseq f + frDepth f) % 128
  let rows := max (frM f) a0.cells.length
  let cols := max (frN f) ((a0.cells.head?.map List.length).getD 0)
  { cells := (List.range rows).map fun m => (List.range cols).map fun n =>
      mmaCell int f ab bb base m n ((refA[m]?).getD 0) ((refB[n]?).getD 0) (a0.carry int base m n)
    int := int
    next := next
    complete := !int && next == 0
    finished := false
    refA := refA
    refB := refB }

/-- Whether MMA's KSEQ is the index that R157 requires. -/
def Acc.kseqOk (a : Acc) (f : List Byte) : Bool :=
  if frClear f then frKseq f == 0 else !a.complete && frKseq f == a.next

/-- The tile operation of an MMA frame. -/
def State.mmaFrame (s : State) (p : Nat) (q : QFrame) : Except Nat (State × Started) :=
  let f := q.bytes
  let c := s.core p
  let k := field f 18 1
  let a := c.acc k
  if !a.kseqOk f then .error faultKseq
  else .ok (s.setCore p (c.setAcc k (a.mma f (c.buf (field f 16 1)) (c.buf (field f 17 1)) s.free)), startedOf q)

/-- An accumulator element after FIN (R158, R159): an integer converts to FP32 by RNE first. A negative sum that the multiplication by
2^−(rA + rB) rounds to zero is −0, as R84 has it of a rounded value; R48 gives +0 to sums (DESIGN CHOICE, assumption 150). -/
def finCell (int : Bool) (rA rB x : Int) : Int :=
  let v : Nat := if int then rne32 (.ofInt x) else x.toNat
  (scale32 v (-(rA + rB)) : Nat)

/-- An accumulator after FIN: level-2 results in FP32. -/
def Acc.fin (a : Acc) : Acc :=
  { a with
    cells := (List.range a.cells.length).map fun m =>
      let row := (a.cells[m]?).getD []
      (List.range row.length).map fun n => finCell a.int ((a.refA[m]?).getD 0) ((a.refB[n]?).getD 0) ((row[n]?).getD 0)
    int := false
    finished := true }

/-- The finish of a segment. -/
def State.finFrame (s : State) (p : Nat) (q : QFrame) : Except Nat (State × Started) :=
  let c := s.core p
  let k := field q.bytes 18 1
  .ok (s.setCore p (c.setAcc k (c.acc k).fin), startedOf q)

/-- MMA: the tile operation of an FME or BME frame (R153 to R159). -/
def execMma (p : Nat) (e : Engine) (s : State) : Host.Outcome State Fault Refusal :=
  .next (if matrixOk e then (s.startHead p (engineCode e) 1 .ok fun s q => s.mmaFrame p q).bumpFree else s)

/-- FIN: the finish of a segment (R158, R159). -/
def execFin (p : Nat) (e : Engine) (s : State) : Host.Outcome State Fault Refusal :=
  .next (if matrixOk e then s.startHead p (engineCode e) 2 .ok fun s q => s.finFrame p q else s)

end Sys2Proof.Machine
end

