-- ==== Sys2Proof/Machine/Veu.lean ====
section
/-! DEFINITION. The vector engine (R172 to R203): chains, their stages, sources, functions, draws, reductions and lane flags. -/

namespace Sys2Proof.Machine

/-! ### Chain descriptors (Table 5.2) -/

/-- A stage word. -/
structure Stage where
  op : Nat
  fmt : Nat
  a : Nat
  b : Nat
  c : Nat
  func : Nat
  sidx : Nat
  column : Bool
  deriving DecidableEq, Repr

/-- Stage word `s` of a chain descriptor. -/
def stageAt (d : List Byte) (s : Nat) : Stage :=
  let o := 16 + 8 * s
  ⟨field d o 1, bits (field d (o + 1) 1) 3 0, field d (o + 2) 1, field d (o + 3) 1, field d (o + 4) 1, field d (o + 5) 1,
    bits (field d (o + 6) 1) 5 0, bitAt (field d (o + 6) 1) 6⟩

/-- STAGES. -/
def chainStages (d : List Byte) : Nat := field d 0 1

/-- The stages of a chain, in order. -/
def chainList (d : List Byte) : List Stage := (List.range (chainStages d)).map (stageAt d)

/-- An operation of Table 5.3. -/
def isOp (op : Nat) : Bool := (decide (1 ≤ op) && decide (op ≤ 0x15)) || op == 0x18

/-- How many sources an operation reads. -/
def opArity : Nat → Nat
  | 0x01 => 2 | 0x02 => 2 | 0x03 => 2 | 0x04 => 3 | 0x05 => 2 | 0x06 => 1 | 0x07 => 1 | 0x08 => 1 | 0x09 => 2 | 0x0A => 2
  | 0x0B => 1 | 0x0C => 1 | 0x0D => 2 | 0x0E => 3 | 0x0F => 1 | 0x10 => 1 | 0x11 => 2 | 0x12 => 2 | 0x13 => 0 | 0x14 => 2
  | 0x15 => 1 | 0x18 => 1
  | _ => 0

/-- The source codes an operation reads. -/
def Stage.sources (g : Stage) : List Nat := [g.a, g.b, g.c].take (opArity g.op)

/-- A source code of Table 5.4 that stage `s` may name. -/
def sourceOk (s code : Nat) : Bool :=
  code == 0 || (decide (1 ≤ code) && decide (code ≤ 3)) || (decide (8 ≤ code) && decide (code ≤ 14) && decide (code - 8 < s)) ||
    (decide (0x10 ≤ code) && decide (code ≤ 0x14))

/-- A function code of Table 5.5. -/
def isFunc (code : Nat) : Bool := (decide (1 ≤ code) && decide (code ≤ 12)) || (decide (0x10 ≤ code) && decide (code ≤ 0x12))

/-- Whether a stage's FUNC holds a code of its operation. -/
def Stage.funcOk (g : Stage) (c : Core) : Bool :=
  match g.op with
  | 0x0D => decide (g.func ≤ 3)
  | 0x0F => isFunc g.func && (decide (g.func < 0x10) || bitAt (c.user (g.func - 0x10)).cfg.toNat 0)
  | 0x10 => isFunc g.func && (decide (g.func < 0x10) || bitAt (c.user (g.func - 0x10)).cfg.toNat 0)
  | 0x13 => decide (1 ≤ g.func) && decide (g.func ≤ 5)
  | 0x14 => decide (g.func ≤ 3)
  | 0x18 => decide (bits g.func 3 0 ≤ 6)
  | _ => true

/-- Whether the inputs a source code names are given by the frame (R183). -/
def sourceGiven (f : List Byte) (bsrc : Bool) (code : Nat) : Bool :=
  if 1 ≤ code && code ≤ 3 then field f (16 + code) 1 != 255
  else if code == 0x10 && !bsrc then field f 21 1 != 255
  else true

/-- Whether stage `s` of `n` passes the checks of R183, R191, R194 and R199. A source field that the operation does not read may name
an input given as 0xFF (DESIGN CHOICE, assumption 152). -/
def Stage.ok (g : Stage) (c : Core) (f : List Byte) (bsrc : Bool) (s n : Nat) : Bool :=
  isOp g.op && [1, 2, 3, 4, 5, 7].contains g.fmt && [g.a, g.b, g.c].all (sourceOk s) && g.funcOk c &&
    (g.op != 0x18 || s + 1 == n) && g.sources.all (sourceGiven f bsrc) &&
    (!(g.op == 0x13 || g.op == 0x14) || field f 27 1 != 255)

/-- BSRC of a chain. -/
def chainBsrc (d : List Byte) : Bool := bitAt (field d 1 1) 0

/-- Whether a chain passes the checks of CHAIN_BAD. -/
def chainOk (c : Core) (f d : List Byte) : Bool :=
  let n := chainStages d
  bitAt c.chainValid.toNat (field f 16 1) && decide (1 ≤ n) && decide (n ≤ 8) &&
    (List.range n).all fun s => (stageAt d s).ok c f (chainBsrc d) s n

/-- The buffers a chain reads: inputs, the broadcast vector, the row keys of its draws, and OUT where a reduction continues in it. -/
def chainReads (f d : List Byte) : List Nat :=
  let gs := chainList d
  let codes := gs.flatMap Stage.sources
  let draws := gs.any fun g => g.op == 0x13 || (g.op == 0x14 && g.func != 0)
  let cont := bitAt (field f 25 1) 0 && gs.any fun g => g.op == 0x18
  ([1, 2, 3].filter codes.contains).map (fun k => field f (16 + k) 1) ++
    (if codes.contains 0x10 && !chainBsrc d then [field f 21 1] else []) ++
    (if draws then [field f 27 1] else []) ++ if cont then [field f 20 1] else []

/-- Whether a chain may read a buffer: no FP4, no integer sums that FIN has not converted (R177). -/
def Core.veuReadable (c : Core) (k : Nat) : Bool := if isAcc k then !(c.acc k).int else (c.buf k).format != 6

/-! ### Elements in a chain -/

/-- A result in a chain: its value as later stages read it, its encoding, and its element's flags so far. -/
structure Lane where
  val : Val
  bits : Nat
  flags : BitVec 7
  deriving DecidableEq, Repr

/-- What a frame's elements share: the core, frame, chain, context key and the base of free values. -/
structure ChainRun where
  core : Core
  frame : List Byte
  chain : List Byte
  key : BitVec 128
  base : Nat

/-- SCALE_J of a stage format: it applies to 8-bit formats only (R180). -/
def ChainRun.scaleOf (x : ChainRun) (fmt : Nat) : Int := if isShort fmt then frScale x.frame 26 else 0

/-- The conversion of an exact value to a stage format. -/
def ChainRun.conv (x : ChainRun) (fmt : Nat) (v : Val) : Conv := encodeFmt fmt (v.scale (x.scaleOf fmt))

/-- The value that a later stage reads back from an encoding of a stage format. -/
def ChainRun.back (x : ChainRun) (fmt b : Nat) : Val := (decodeFmt fmt b).scale (-(x.scaleOf fmt))

/-- The broadcast operand of a stage for element (r, c) (R186, R187). -/
def ChainRun.broadcast (x : ChainRun) (g : Stage) (r c : Nat) : Val :=
  if chainBsrc x.chain then val32 ((tgetD x.core.scalars g.sidx 0).toNat % 2 ^ 32)
  else
    let v := field x.frame 22 1
    let b := x.core.buf (field x.frame 21 1)
    ((if g.column then b.elem (x.base + 0xC000) r v else b.elem (x.base + 0xC000) v c)).val

/-- The value of a source for element (r, c), given the results of the stages below (Table 5.4). -/
def ChainRun.source (x : ChainRun) (g : Stage) (r c : Nat) (done : List Lane) (code : Nat) : Val :=
  if 1 ≤ code && code ≤ 3 then x.core.source (field x.frame (16 + code) 1) (x.base + 0x4000 * (code - 1)) r c
  else if 8 ≤ code && code ≤ 14 then ((done[code - 8]?).map Lane.val).getD .zero
  else if code = 0x10 then x.broadcast g r c
  else if code = 0x11 then val32 (field x.chain 4 4)
  else if code = 0x12 then val32 (field x.chain 8 4)
  else if code = 0x13 then .ofInt c
  else if code = 0x14 then .ofInt r
  else .zero

/-- Whether a source code is read from outside the chain, for NONFINITE_IN. -/
def sourceOutside (code : Nat) : Bool := (decide (1 ≤ code) && decide (code ≤ 3)) || (decide (0x10 ≤ code) && decide (code ≤ 0x12))

/-! ### Functions (R195 to R199) -/

/-- The floor of the exact quotient of two values by a power of two, for a finite value. -/
def Val.floorDiv (v : Val) (w : Int) : Int :=
  match v with
  | .fin n m e =>
    let k : Int := if 0 ≤ e - w then (m * 2 ^ (e - w).toNat : Nat) else 0
    let d := (w - e).toNat
    if 0 ≤ e - w then (if n then -k else k)
    else if n then -(((m + 2 ^ d - 1) / 2 ^ d : Nat) : Int) else ((m / 2 ^ d : Nat) : Int)
  | _ => 0

/-- User function `n` at x as an exact value before the stage's rounding (R197, R198). -/
def ChainRun.userFunc (x : ChainRun) (n : Nat) (d : Bool) (v : Val) : Val :=
  let u := x.core.user n
  let ends := if d then u.dinf else u.vinf
  match v with
  | .nan => .nan
  | .inf neg => val32 (if neg then bits ends.toNat 31 0 else bits ends.toNat 63 32)
  | v =>
    let lo := val32 u.lo.toNat
    if !lo.isFinite then val32 (Config.freeValue x.base % 2 ^ 32)
    else
      let w := signed 8 (bits u.cfg.toNat 15 8)
      let i := (max 0 (min 255 ((v.add lo.neg).floorDiv w))).toNat
      let t := rne32 (v.add (lo.add ((Val.ofInt i).scale w)).neg)
      let row := slice (x.core.userTable n d) (12 * i) 12
      let p := sum32 (((val32 (field row 8 4)).mul (val32 t)).add (val32 (field row 4 4)))
      ((val32 p).mul (val32 t)).add (val32 (field row 0 4))

/-- The draw of a FOLD or DRAW stage at element (r, c) (R194). -/
def ChainRun.draw (x : ChainRun) (purpose r c : Nat) : Nat :=
  let keys := (x.core.buf (field x.frame 27 1)).byteList (x.base + 0xF000) 2048
  drawW x.key ⟨purpose, (tgetD x.core.scalars 0 0).toNat % 2 ^ 32, field keys (16 * r) 8, field keys (16 * r + 8) 4,
    field x.frame 28 4, (field x.frame 32 8 + r * field x.frame 44 4 + c) % 2 ^ 64, field x.frame 40 4⟩

/-! ### Stages (Table 5.3) -/

/-- Whether a stage delivers +0 for a zero result (R181): the sums, and a user function's final FMA at a finite input (R197). -/
def Stage.plusZero (g : Stage) (a : Val) : Bool :=
  g.op == 0x01 || g.op == 0x02 || g.op == 0x04 || g.op == 0x14 ||
    ((g.op == 0x0F || g.op == 0x10) && decide (0x10 ≤ g.func) && a.isFinite)

/-- 1.0 or +0. -/
def truth (b : Bool) : Val := if b then .fin false 1 0 else .zero

/-- CMP by its FUNC. -/
def compareVals (func : Nat) (a b : Val) : Bool :=
  match func with
  | 0 => a.eqv b
  | 1 => a.lt b
  | 2 => a.lt b || a.eqv b
  | _ => !a.eqv b

/-- A × 2^B (SCALB). -/
def scalb (a b : Val) : Val :=
  match b with
  | .fin n m e =>
    if m = 0 then a
    else if !isInteger m e then .nan
    else
      let k : Nat := if 12 ≤ topExp m e then 4096 else (m * 2 ^ e.toNat) / 2 ^ (-e).toNat
      a.scale (if n then -(k : Int) else k)
  | _ => .nan

/-- The exact result of a stage, as a value that its format rounds as the exact result. -/
def ChainRun.exact (x : ChainRun) (g : Stage) (r c : Nat) (a b d : Val) : Val :=
  match g.op with
  | 0x01 => a.add b
  | 0x02 => a.add b.neg
  | 0x03 => a.mul b
  | 0x04 => (a.mul b).add d
  | 0x05 => a.div b
  | 0x06 => a.sqrt
  | 0x07 => a.rsqrt
  | 0x08 => (Val.fin false 1 0).div a
  | 0x09 => vmax a b
  | 0x0A => vmin a b
  | 0x0B => a.abs
  | 0x0C => a.neg
  | 0x0D => truth (compareVals g.func a b)
  | 0x0E => if a.isZero then d else b
  | 0x0F => if 0x10 ≤ g.func then x.userFunc (g.func - 0x10) false a else tableFunc (x.conv g.fmt) false g.func a
  | 0x10 => if 0x10 ≤ g.func then x.userFunc (g.func - 0x10) true a else tableFunc (x.conv g.fmt) true g.func a
  | 0x11 => scalb a b
  | 0x13 => .fin false (x.draw g.func r c / 2 ^ 40) (-24)
  | 0x14 => a.add b
  | _ => a

/-- The one rounding of a stage's exact result to its format (R52, R180): stochastic for a FOLD with a purpose, else by RNE. -/
def ChainRun.round (x : ChainRun) (g : Stage) (r c : Nat) (v : Val) : Conv :=
  if g.op = 0x14 ∧ g.func ≠ 0 then stochasticFmt g.fmt (v.scale (x.scaleOf g.fmt)) (x.draw g.func r c) else x.conv g.fmt v

/-- Flags a stage raises (Table 5.7): its operation, its sources, its exact result and what it delivers. DIVZERO of LN is that of its
value, not of its derivative (DESIGN CHOICE, assumption 151). -/
def stageFlags (g : Stage) (srcs : List Val) (outside : List Val) (a b exact got : Val) (sat : Bool) : BitVec 7 :=
  laneIf (got.isNan && srcs.all fun v => !v.isNan) laneInvalid |||
  laneIf ((g.op == 0x05 && b.isZero && a.isFinite && !a.isZero) || (g.op == 0x0F && g.func == 3 && a.isZero)) laneDivZero |||
  laneIf ((srcs.all Val.isFinite) && !got.isFinite && !got.isNan) laneOverflow |||
  laneIf sat laneSaturate |||
  laneIf (outside.any fun v => !v.isFinite) laneNonfiniteIn |||
  laneIf (g.op == 0x12 && (a.isNan || b.lt a.abs)) laneRange |||
  laneIf (got.isZero && exact.isFinite && !exact.isZero) laneUnderflow

/-- One stage for element (r, c). RECIP divides 1 by its source, so its DIVZERO test is that of a quotient of 1. -/
def ChainRun.stage (x : ChainRun) (g : Stage) (r c : Nat) (done : List Lane) : Lane :=
  let codes := g.sources
  let vs := codes.map (x.source g r c done)
  let a := (vs[0]?).getD .zero
  let b := (vs[1]?).getD .zero
  let d := (vs[2]?).getD .zero
  let e := x.exact g r c a b d
  let k := x.round g r c e
  let v0 := x.back g.fmt k.bits
  let plus := g.plusZero a && v0.isZero
  let v := if plus then .zero else v0
  let outside := ((codes.zip vs).filter fun p => sourceOutside p.1).map Prod.snd
  let one : Val := .fin false 1 0
  let dz := laneIf (g.op == 0x08 && a.isZero) laneDivZero
  let prior := (done.getLast?.map Lane.flags).getD 0
  ⟨v, if plus then 0 else k.bits, prior ||| dz ||| stageFlags g vs outside (if g.op == 0x08 then one else a) b e v k.sat⟩

/-- The results of the first `n` stages for element (r, c). -/
def ChainRun.stages (x : ChainRun) (r c : Nat) (gs : List Stage) : List Lane :=
  gs.foldl (fun done g => done ++ [x.stage g r c done]) []

/-! ### Reductions (R191 to R193) -/

/-- The value of a reduction along a line: its terms in order, +0 in the places beyond them (R178), the running value where RCONT is
set, and the running index of ARGMAX and ARGMIN with the index of the first term. -/
def reduceLine (kind : Nat) (terms : List Val) (run : Option (Val × Val)) (base : Nat) : Val × Val :=
  let ts := terms ++ List.replicate (128 - terms.length) Val.zero
  let fold (g : Val → Val → Val) : Val :=
    match run, ts with
    | some u, ts => ts.foldl g u.1
    | none, t :: ts => ts.foldl g t
    | none, [] => .zero
  let sums (ts : List Val) : Val :=
    let subs := (chunksOf 32 4 ts).map subBlock
    match run with
    | some u => val32 (subs.foldl addSum (rne32 u.1))
    | none => val32 (leftFold subs)
  let arg (beats : Val → Val → Bool) : Val :=
    let ixs := (List.range ts.length).map fun i => Val.ofInt ((base + i : Nat) : Int)
    let best : Val × Val := match run, ts.zip ixs with
      | some u, ts => ts.foldl (fun w t => if beats w.1 t.1 then t else w) u
      | none, t :: ts => ts.foldl (fun w t => if beats w.1 t.1 then t else w) t
      | none, [] => (.zero, .zero)
    best.2
  match kind with
  | 0 => (sums ts, .zero)
  | 1 => (sums (ts.map fun t => t.mul t), .zero)
  | 2 => (fold vmax, .zero)
  | 3 => (fold vmin, .zero)
  | 4 => (ts.foldl maxFin (match run with | some u => maxFin .zero u.1 | none => .zero), .zero)
  | 5 => (fold vmax, arg beatsMax)
  | _ => (fold vmin, arg beatsMin)

/-- The exact result of a reduction, for UNDERFLOW (Table 5.7): a sum without roundings, else the result itself. -/
def reduceExact (kind : Nat) (terms : List Val) (run : Option (Val × Val)) (got : Val) : Val :=
  let start := match run with | some u => u.1 | none => .zero
  match kind with
  | 0 => terms.foldl Val.add start
  | 1 => (terms.map fun t => t.mul t).foldl Val.add start
  | _ => got

/-- An element of the output, of the last stage's format. -/
def ChainRun.out (x : ChainRun) (fmt b : Nat) : Elem := ⟨fmt, b, x.scaleOf fmt, 127⟩

/-- The buffer of a frame that ends in no reduction, and its flags. -/
def ChainRun.plain (x : ChainRun) (rows cols : Nat) : Buf × BitVec 7 :=
  let gs := chainList x.chain
  let fmt := (gs.getLast?.map Stage.fmt).getD 1
  let all := (List.range rows).map fun r => (List.range cols).map fun c =>
    ((x.stages r c gs).getLast?).getD ⟨.zero, 0, 0⟩
  (⟨fmt, all.map fun row => row.map fun l => x.out fmt l.bits⟩, (all.flatMap id).foldl (fun a l => a ||| l.flags) 0)

/-- The buffer of a frame that ends in REDUCE, and its flags. -/
def ChainRun.reduce (x : ChainRun) (rows cols : Nat) (g : Stage) : Buf × BitVec 7 :=
  let gs := (chainList x.chain).dropLast
  let column := bitAt g.func 4
  let kind := bits g.func 3 0
  let cont := bitAt (field x.frame 25 1) 0
  let old := x.core.buf (field x.frame 20 1)
  let lanes := (List.range rows).map fun r => (List.range cols).map fun c =>
    let done := x.stages r c gs
    let v := x.source g r c done g.a
    (v, (done.getLast?.map Lane.flags).getD 0 ||| laneIf (sourceOutside g.a && !v.isFinite) laneNonfiniteIn)
  let lines := if column then (List.range cols).map fun c => lanes.filterMap fun row => row[c]? else lanes
  let at' (i k : Nat) : Val := if column then (old.elem (x.base + 0x14000) k i).val else (old.elem (x.base + 0x14000) i k).val
  let res := (List.range lines.length).map fun i =>
    let ts := ((lines[i]?).getD []).map Prod.fst
    let run := if cont then some (at' i 0, at' i 1) else none
    let w := reduceLine kind ts run (field x.frame 32 8)
    let srcs := ts ++ (match run with | some u => [u.1] | none => [])
    let k := x.conv g.fmt w.1
    let v := x.back g.fmt k.bits
    (k.bits, rne32 w.2, stageFlags g srcs [] .zero .zero (reduceExact kind ts run w.1) v k.sat)
  let pair (e : Nat × Nat × BitVec 7) : List Elem :=
    if 5 ≤ kind then [x.out g.fmt e.1, x.out 1 e.2.1] else [x.out g.fmt e.1]
  let out := if column then (List.range (if 5 ≤ kind then 2 else 1)).map fun k => res.map fun e => ((pair e)[k]?).getD (.zero g.fmt)
    else res.map pair
  (⟨g.fmt, out⟩, (lanes.flatMap id).foldl (fun a l => a ||| l.2) 0 ||| res.foldl (fun a e => a ||| e.2.2) 0)

/-- The result of a chain over a frame's elements. -/
def ChainRun.result (x : ChainRun) : Buf × BitVec 7 :=
  let rows := field x.frame 23 1 + 1
  let cols := field x.frame 24 1 + 1
  match (chainList x.chain).getLast? with
  | some g => if g.op = 0x18 then x.reduce rows cols g else x.plain rows cols
  | none => x.plain rows cols

/-- The context key a core draws with: that of CORE_CONTEXT (R194). -/
def State.drawKey (s : State) (c : Core) : BitVec 128 :=
  match c.ctx.bind s.ctx with
  | some x => x.key
  | none => 0

/-- The chain of a VEU frame: its checks, then OUT and the frame's flags (R178, R183, R177). A chain that is badly formed and of
another context raises CHAIN_BAD (DESIGN CHOICE, assumption 153). -/
def State.chainFrame (s : State) (p : Nat) (q : QFrame) : Except Nat (State × Started) :=
  let f := q.bytes
  let c := s.core p
  let d := c.chainBytes (field f 16 1)
  if !chainOk c f d then .error veuChainBad
  else if field d 2 2 != bits c.context.toNat 8 0 then .error veuContext
  else if !(chainReads f d).all c.veuReadable then .error veuBufFormat
  else
    let r := (ChainRun.mk c f d (s.drawKey c) s.free).result
    .ok (s.setCore p { c with bufs := tset c.bufs (field f 20 1) r.1 }, { startedOf q with flags := r.2 })

/-- CHAIN: a VEU frame (R178). -/
def execChain (p : Nat) (s : State) : Host.Outcome State Fault Refusal :=
  .next (match s.head p 5 with
  | none => s
  | some q =>
    match s.chainFrame p q with
    | .error bit => s.faultHead p 5 q true bit
    | .ok r => ((s.startFrame p 5 q (.ok r)).bumpFree).bumpFree)

end Sys2Proof.Machine
end

