-- ==== Sys2Proof/Machine/Pool.lean ====
section
/-! DEFINITION. KV pages, lists, references, copy-on-write, block hashing and prefix handles (R298 to R330). The metadata block of R303 is
held as records, and its bytes are computed from them; list entries are also bytes of the context's list area, which its cores may
read. -/

namespace Sys2Proof.Machine

/-! ### Pages -/

/-- A FREE page. -/
def Page.unused : Page := ⟨0, true, false, false, false, ⟨0, 0, 0, 0⟩, []⟩

/-- Page `g`; a page without a record is FREE. -/
def KvPool.page (p : KvPool) (g : Nat) : Page := tgetD p.pages g .unused

/-- Update page `g`. -/
def KvPool.setPage (p : KvPool) (g : Nat) (e : Page) : KvPool := { p with pages := tset p.pages g e }

/-- An empty pool. -/
def KvPool.empty : KvPool := ⟨[], [], [], [], [], 0, [], 0⟩

/-- The KV pool of context `c`. -/
def State.pool (s : State) (c : Nat) : KvPool :=
  match s.ctx c with
  | some x => x.pool
  | none => .empty

/-- Update the KV pool of context `c`. -/
def State.setPool (s : State) (c : Nat) (p : KvPool) : State :=
  match s.ctx c with
  | some x => s.setCtx c { x with pool := p }
  | none => s

/-- Whether a step of context `c` runs: built and not yet at its boundary. -/
def State.stepRunning (s : State) (c : Nat) : Bool := s.steps.any fun t => t.ctx == c

/-- Take one reference (Table 8.4). -/
def KvPool.hold (p : KvPool) (g : Nat) : KvPool := let e := p.page g; p.setPage g { e with refs := e.refs + 1, free := false }

/-- Whether page `g` is one that becomes FREE at a boundary: no reference, not withdrawn by R330. -/
def Page.reclaimable (e : Page) : Bool := e.refs == 0 && !e.damaged

/-- Drop one reference (R316); with `busy` false a page left with none becomes FREE at once (R317). -/
def KvPool.drop (p : KvPool) (busy : Bool) (g : Nat) : KvPool :=
  let e := { p.page g with refs := (p.page g).refs - 1 }
  if !busy && e.reclaimable then { p with pages := terase p.pages g } else p.setPage g e

/-- Every reclaimable page becomes FREE (R317). -/
def KvPool.sweep (p : KvPool) : KvPool := { p with pages := p.pages.filter fun e => !e.2.reclaimable }

/-- FREE pages of a pool of `n` (BRD_KV_CTXn_FREE). -/
def KvPool.freeCount (p : KvPool) (n : Nat) : Nat := n - p.pages.length

/-- The age of a hash entry (R325). -/
def HashEntry.age (h : HashEntry) (stamp : Word) : Nat := (stamp - h.used).toNat

/-- Whether entry `a` is taken before `b`: the greater age, then the lower page (R327, R328). -/
def HashEntry.before (stamp : Word) (a b : HashEntry) : Bool :=
  decide (b.age stamp < a.age stamp) || (a.age stamp == b.age stamp && decide (a.page < b.page))

/-- The hash entry to take among some whose pages have REFS 1. -/
def KvPool.victim (p : KvPool) (stamp : Word) (hs : Table HashEntry) : Option (Nat × HashEntry) :=
  (hs.filter fun h => (p.page h.2.page).refs == 1).foldl (fun best h =>
    match best with
    | none => some h
    | some b => if h.2.before stamp b.2 then some h else best) none

/-- Empty a hash entry: HASHED is cleared and its reference dropped (R328, R329). -/
def KvPool.emptyWay (p : KvPool) (busy : Bool) (k : Nat) : KvPool :=
  match tget p.hashes k with
  | none => p
  | some h =>
    let p1 := { p with hashes := terase p.hashes k }
    (p1.setPage h.page { p1.page h.page with hashed := false }).drop busy h.page

/-- A grant of the page allocator for a pool of `n` pages (R314): the lowest FREE page, else that of the hash entry evicted. The
flag says whether an entry was evicted. -/
def KvPool.grant (p : KvPool) (n : Nat) (stamp : Word) : Option (Nat × KvPool × Bool) :=
  let g := firstGap 0 (p.pages.map Prod.fst)
  if g < n then some (g, p, false)
  else match p.victim stamp p.hashes with
    | none => none
    | some h => some (h.2.page, p.emptyWay false h.1, true)

/-! ### Lists (R302) -/

/-- List `m` of a pool. -/
def KvPool.list (p : KvPool) (m : Nat) : Table Nat := tgetD p.lists m []

/-- A list entry's encoding (Table 8.1). -/
def listEntry : Option Nat → Nat
  | some g => g % 2 ^ 20 + 2 ^ 31
  | none => 0

/-- Set or clear entry `i` of list `m` of context `c`. -/
def State.setEntry (s : State) (c m i : Nat) (g : Option Nat) : State :=
  let p := s.pool c
  let l := match g with
    | some x => tset (p.list m) i x
    | none => terase (p.list m) i
  let s1 := s.setPool c { p with lists := tset p.lists m l }
  let base := (s.creg c).kvBase.toNat
  if base = 0 then s1 else s1.writeOwned c (base + m * 0x10000 + 4 * i) (leBytes 4 (listEntry g))

/-- Clear entry `i` of list `m` and drop its page's reference. -/
def State.dropEntry (s : State) (c m i : Nat) (busy : Bool) : State :=
  match tget ((s.pool c).list m) i with
  | none => s
  | some g =>
    let s1 := s.setEntry c m i none
    s1.setPool c ((s1.pool c).drop busy g)

/-- Clear the entries of list `m` that a condition on their index picks. -/
def State.dropEntries (s : State) (c m : Nat) (busy : Bool) (which : Nat → Bool) : State :=
  (((s.pool c).list m).filter fun e => which e.1).foldl (fun t e => t.dropEntry c m e.1 busy) s

/-- The lowest free list of context `c`. -/
def State.freeList (s : State) (c : Nat) : Option Nat := lowestFree (s.creg c).lists (s.pool c).listsUsed

/-- Take list `m`. -/
def State.takeList (s : State) (c m : Nat) : State :=
  let p := s.pool c
  s.setPool c { p with listsUsed := ninsert p.listsUsed m }

/-- Empty list `m` and free it (R319, R323). -/
def State.releaseList (s : State) (c m : Nat) (busy : Bool) : State :=
  let s1 := s.dropEntries c m busy fun _ => true
  let p := s1.pool c
  s1.setPool c { p with lists := terase p.lists m, listsUsed := p.listsUsed.filter fun x => x != m }

/-! ### Reservation (R313 to R315) -/

/-- A page granted in a build: the list entry it is for, the page, and the page it replaces by copy-on-write. -/
structure Grant where
  list : Nat
  index : Nat
  page : Nat
  old : Option Nat
  deriving DecidableEq, Repr

/-- The list indices from position `a` to `b` that need a new page (R313). -/
def KvPool.needs (p : KvPool) (m a b : Nat) : List Nat :=
  ((List.range (b / 64 + 1)).drop (a / 64)).filter fun i =>
    match tget (p.list m) i with
    | none => true
    | some g => decide (1 < (p.page g).refs)

/-- Grant pages for list indices: all of them or none (R313). The count is of evictions. -/
def KvPool.reserve (p : KvPool) (n : Nat) (stamp : Word) (m : Nat) (tag : PageTag) :
    List Nat → Option (KvPool × List Grant × Nat)
  | [] => some (p, [], 0)
  | i :: rest =>
    match p.grant n stamp with
    | none => none
    | some (g, p1, evicted) =>
      let p2 := p1.setPage g ⟨1, false, false, false, false, tag, []⟩
      match p2.reserve n stamp m tag rest with
      | none => none
      | some (p3, gs, k) => some (p3, ⟨m, i, g, tget (p.list m) i⟩ :: gs, k + b2n evicted)

/-- Copy a page's rows in every plane (R315). -/
def State.copyPage (s : State) (c src dst : Nat) : State :=
  let r := s.creg c
  (List.range r.kvLayers).foldl (fun t l => t.writeCtx c (r.pageAddr l dst) (t.readCtx c (r.pageAddr l src) r.pageBytes)) s

/-- A code word with an uncorrectable error that a copy of a page reads (R228, R330). -/
def State.pageDamage (s : State) (c g : Nat) : Option Nat :=
  let r := s.creg c
  s.damagedIn ((List.range r.kvLayers).flatMap fun l => (s.resolveRange (.ctx c) (r.pageAddr l g) r.pageBytes false).getD [])

/-- A copy has met an uncorrectable error: it is counted and reported (R227, R330), and the slots of the list end with the context's
step. -/
def State.copyFails (s : State) (c m d : Nat) : State :=
  let s1 := s.memUncorrectable d false (some c)
  let hurt := ((s.slots.filter fun e => e.2.state != .free && e.2.ctx == c && e.2.list == some m).map Prod.fst).map fun i => (i, stMem)
  { s1 with steps := s1.steps.map fun t => if t.ctx == c then { t with ending := t.ending ++ hurt } else t }

/-- Apply one grant after the step's references are taken: the copy of R315 where there is an old page, and the list entry. -/
def State.applyGrant (s : State) (c : Nat) (g : Grant) : State :=
  match g.old with
  | none => s.setEntry c g.list g.index (some g.page)
  | some o =>
    let s0 := match s.pageDamage c o with
      | some d => s.copyFails c g.list d
      | none => s
    let s1 := s0.copyPage c o g.page
    let p := s1.pool c
    let e := p.page o
    let p1 := p.setPage g.page { p.page g.page with tag := e.tag, mixed := e.mixed, tokens := e.tokens }
    let s2 := (s1.setPool c p1).setEntry c g.list g.index (some g.page)
    let s3 := s2.setPool c ((s2.pool c).drop true o)
    { s3 with cowCount := s3.cowCount + 1 }

/-! ### Hashing (R324 to R329) -/

/-- SETS. -/
def CtxRegs.sets (r : CtxRegs) : Nat := bits r.kvPrefix.toNat 4 0
/-- HASH_EN. -/
def CtxRegs.hashing (r : CtxRegs) : Bool := bitAt r.kvPrefix.toNat 5
/-- HANDLES. -/
def CtxRegs.handleCount (r : CtxRegs) : Nat := bits r.kvPrefix.toNat 22 8

/-- A tag's encoding (Table 8.3). -/
def PageTag.encode (t : PageTag) : Nat :=
  t.package + t.version * 2 ^ 8 + t.adapter * 2 ^ 24 + (if t.adapter = 0xFFFF then 0 else t.adapterVer) * 2 ^ 40

/-- K_h of a context key (R324). -/
def hashKey (key : BitVec 128) : List Byte := shake256 (leBytes 16 key.toNat ++ [0x4B, 0x56, 0x50, 0x48]) 16

/-- H_i from H_(i−1) and a block's token ids (R324). -/
def chainHash (kh prior : List Byte) (tag : PageTag) (tokens : List Nat) : List Byte :=
  shake256 (kh ++ prior ++ leBytes 8 tag.encode ++ tokens.flatMap fun t => leBytes 4 t) 16

/-- The 64 token ids of block `i` of a token list, zeros past its end. -/
def blockTokens (tokens : List Nat) (i : Nat) : List Nat :=
  let b := (tokens.drop (64 * i)).take 64
  b ++ List.replicate (64 - b.length) 0

/-- H_0 to H_(n−1) of a token list. -/
def chainHashes (kh : List Byte) (tag : PageTag) (tokens : List Nat) (n : Nat) : List (BitVec 128) :=
  ((List.range n).foldl (fun (acc : List Byte × List (BitVec 128)) i =>
    let h := chainHash kh acc.1 tag (blockTokens tokens i)
    (h, acc.2 ++ [BitVec.ofNat 128 (leNat h)])) (zeros 16, [])).2

/-- First way of the set of a hash. -/
def hashSet (r : CtxRegs) (h : BitVec 128) : Nat := 4 * (h.toNat % 2 ^ r.sets)

/-- The way that holds a hash, if any. -/
def KvPool.findHash (p : KvPool) (r : CtxRegs) (h : BitVec 128) : Option Nat :=
  ((List.range 4).map fun w => hashSet r h + w).find? fun k =>
    match tget p.hashes k with
    | some e => e.hash == h
    | none => false

/-- Insert page `g` under a hash (R327). -/
def KvPool.insertHash (p : KvPool) (r : CtxRegs) (stamp : Word) (h : BitVec 128) (g : Nat) (tag : PageTag) : KvPool :=
  if (p.findHash r h).isSome then p
  else
    let ways := (List.range 4).map fun w => hashSet r h + w
    let put (q : KvPool) (k : Nat) : KvPool :=
      let q1 := (q.hold g).setPage g { (q.hold g).page g with hashed := true }
      { q1 with hashes := tset q1.hashes k ⟨h, g, tag, stamp⟩ }
    match ways.find? fun k => (tget p.hashes k).isNone with
    | some k => put p k
    | none =>
      match p.victim stamp (p.hashes.filter fun e => ways.contains e.1) with
      | some e => put (p.emptyWay false e.1) e.1
      | none => p

/-- The tag and MIXED test of R321 and R327: pages 0 to `n` − 1 of a list carry one tag and none is MIXED. -/
def KvPool.uniform (p : KvPool) (m n : Nat) : Option PageTag :=
  let es := (List.range n).map fun i => (tget (p.list m) i).map p.page
  match es with
  | some e :: _ => if es.all fun x => match x with
      | some y => y.tag == e.tag && !y.mixed
      | none => false
    then some e.tag else none
  | _ => none

/-- The committed token ids of the first `n` pages of a list. -/
def KvPool.listTokens (p : KvPool) (m n : Nat) : List Nat :=
  (List.range n).flatMap fun i =>
    match tget (p.list m) i with
    | some g => (List.range 64).map fun k => tgetD (p.page g).tokens k 0
    | none => List.replicate 64 0

/-- Insert the full blocks of a list of which `kvlen` positions are committed (R327). -/
def State.insertBlocks (s : State) (c m kvlen : Nat) : State :=
  match s.ctx c with
  | none => s
  | some x =>
    let r := s.creg c
    let n := kvlen / 64
    if !r.hashing || n = 0 then s
    else
      let p := x.pool
      let upto := ((List.range n).takeWhile fun i => (p.uniform m (i + 1)).isSome).length
      match p.uniform m upto with
      | none => s
      | some tag =>
        let hs := chainHashes (hashKey x.key) tag (p.listTokens m upto) upto
        s.setPool c ((List.range upto).foldl (fun q i =>
          match hs[i]?, tget (q.list m) i with
          | some h, some g => q.insertHash r s.brdStarted h g tag
          | _, _ => q) p)

/-- Empty the hash entries whose tag a condition picks (R329). -/
def KvPool.purge (p : KvPool) (busy : Bool) (gone : PageTag → Bool) : KvPool :=
  (p.hashes.filter fun h => gone h.2.tag).foldl (fun q h => q.emptyWay busy h.1) p

/-! ### Handles (R320 to R323) -/

/-- A handle's 64 bits (Table 8.10). -/
def handleBits (index : Nat) (serial : Word) (c : Nat) : Nat := index + serial.toNat * 2 ^ 16 + c * 2 ^ 48

/-- The handle's context. -/
def handleCtx (h : Nat) : Nat := bits h 56 48

/-- The registered entry a handle of this context names, if any. -/
def KvPool.handle (p : KvPool) (h : Nat) : Option Handle :=
  if bits h 15 14 != 0 || bits h 63 57 != 0 then none
  else match tget p.handles (bits h 13 0) with
    | some e => if e.serial.toNat == bits h 47 16 && e.serial != 0 then some e else none
    | none => none

/-- The next SERIAL, counting from 1 and skipping 0. -/
def nextSerial (w : Word) : Word := if w + 1 = 0 then 1 else w + 1

/-- Pages that hold the first `n` positions. -/
def pagesOf (n : Nat) : Nat := (n + 63) / 64

/-- Register the first `n` positions of the list `src` as a handle in the lowest free entry and list (R321): the handle, or
`none` where no entry or list is free. -/
def State.registerHandle (s : State) (c src n : Nat) : Option (Nat × State) :=
  let p := s.pool c
  match lowestFree (s.creg c).handleCount (p.handles.map Prod.fst), s.freeList c, p.uniform src (pagesOf n) with
  | some i, some m, some tag =>
    let gs := (List.range (pagesOf n)).filterMap fun k => (tget (p.list src) k).map fun g => (k, g)
    let s1 := gs.foldl (fun t e => (t.setEntry c m e.1 (some e.2)).setPool c (((t.setEntry c m e.1 (some e.2)).pool c).hold e.2))
      (s.takeList c m)
    let serial := nextSerial p.serial
    let q := s1.pool c
    some (handleBits i serial c, s1.setPool c { q with
      serial := serial
      handles := tset q.handles i ⟨serial, n, tag, m, gs.any fun e => (p.page e.2).damaged⟩ })
  | _, _, _ => none

/-! ### The metadata block (R303, R320, R325) -/

/-- A page's descriptor (Table 8.2). -/
def Page.bytes (e : Page) : List Byte :=
  leBytes 4 e.refs ++ leBytes 2 (b2n e.free + 2 * b2n e.mixed + 4 * b2n e.hashed + 8 * b2n e.damaged) ++ zeros 2 ++ leBytes 8 e.tag.encode

/-- A page's token block (R303). -/
def Page.tokenBytes (e : Page) : List Byte := (List.range 64).flatMap fun k => leBytes 4 (tgetD e.tokens k 0)

/-- A hash table entry, or an empty one (Table 8.7). -/
def hashBytes : Option HashEntry → List Byte
  | some h => leBytes 16 h.hash.toNat ++ leBytes 4 h.page ++ leBytes 8 h.tag.encode ++ leBytes 4 h.used.toNat
  | none => zeros 16 ++ leBytes 4 0xFFFFFFFF ++ zeros 12

/-- A handle table entry, or a free one (Table 8.6). -/
def handleBytes : Option Handle → List Byte
  | some h => leBytes 4 h.serial.toNat ++ leBytes 4 h.length ++ leBytes 8 h.tag.encode ++ leBytes 2 h.list ++ leBytes 2 (b2n h.damaged) ++
      zeros 12
  | none => zeros 32

/-- The byte of a context's metadata block at an offset: descriptors, token blocks, hash table, handle table (R303). -/
def KvPool.metaByte (p : KvPool) (r : CtxRegs) (o : Nat) : Byte :=
  let n := r.pages
  let ways := 4 * 2 ^ r.sets
  let pick (b : List Byte) (k : Nat) : Byte := (b[k]?).getD 0
  if o < 16 * n then pick (p.page (o / 16)).bytes (o % 16)
  else if o < 272 * n then pick (p.page ((o - 16 * n) / 256)).tokenBytes ((o - 16 * n) % 256)
  else if o < 272 * n + 32 * ways then pick (hashBytes (tget p.hashes ((o - 272 * n) / 32))) ((o - 272 * n) % 32)
  else pick (handleBytes (tget p.handles ((o - 272 * n - 32 * ways) / 32))) ((o - 272 * n - 32 * ways) % 32)

/-- The length of a context's metadata block. -/
def CtxRegs.metaLength (r : CtxRegs) : Nat := 272 * r.pages + 128 * 2 ^ r.sets + 32 * r.handleCount

/-- A byte of device memory: of a context's metadata block where it lies in one, else as memory holds it. -/
def State.deviceByte (s : State) (a : Nat) : Byte :=
  match s.ctxs.find? fun e => let r := s.creg e.1; r.kvMeta != 0 && decide (r.kvMeta.toNat ≤ a ∧ a < r.kvMeta.toNat + r.metaLength) with
  | some e => e.2.pool.metaByte (s.creg e.1) (a - (s.creg e.1).kvMeta.toNat)
  | none => memGet s.mem a

/-- Release a handle: its references drop at once, its entry and list are freed (R323). -/
def State.releaseHandle (s : State) (c i : Nat) : State :=
  match tget (s.pool c).handles i with
  | none => s
  | some h =>
    let s1 := s.releaseList c h.list (s.stepRunning c)
    let p := s1.pool c
    s1.setPool c { p with handles := terase p.handles i }

end Sys2Proof.Machine
end

