-- ==== Sys2Proof/Machine/Brood.lean ====
section
/-! DEFINITION. Brood Table entries, nectar rings and the super (R256 to R263, R283 to R294): records and headers, binding, and the
end of a sequence. -/

namespace Sys2Proof.Machine

/-! ### Entries (Table 7.1) -/

/-- A state's code (Table 7.2). -/
def SlotState.code : SlotState → Nat
  | .free => 0
  | .prefill => 1
  | .decode => 2
  | .held => 3
  | .parked => 4
  | .closing => 5

/-- The state of a code; codes 6 and 7 are reserved and read as FREE. -/
def slotStateOf : Nat → SlotState
  | 1 => .prefill
  | 2 => .decode
  | 3 => .held
  | 4 => .parked
  | 5 => .closing
  | _ => .free

/-- Context address of list `m` of a context (R302). -/
def CtxRegs.listAddr (r : CtxRegs) (m : Nat) : Nat := r.kvBase.toNat + m * 0x10000

/-- The 128 bytes of an entry. -/
def Slot.bytes (e : Slot) : List Byte :=
  leBytes 8 e.seqId.toNat ++ leBytes 2 e.ctx ++
    leBytes 1 (e.state.code + 8 * b2n e.lc + 16 * b2n e.mirror + 32 * b2n e.cancel + 64 * b2n e.vchg) ++ leBytes 1 e.depth ++
    leBytes 2 e.version ++ leBytes 2 e.adapter ++ leBytes 2 e.adapterVer ++ leBytes 2 e.status ++ leBytes 4 e.promptLen ++
    leBytes 4 e.prefilled ++ leBytes 4 e.length ++ leBytes 4 e.maxNew ++ leBytes 4 e.temp.toNat ++ leBytes 4 e.topP.toNat ++
    leBytes 2 e.topK ++ leBytes 1 e.package ++ leBytes 1 e.nstop ++
    ((e.stops ++ List.replicate (8 - e.stops.length) 0).flatMap fun t => leBytes 4 t) ++ leBytes 8 e.admitTick ++
    leBytes 8 e.kvList ++ leBytes 8 e.supEntry ++ leBytes 4 e.ringProd ++ leBytes 4 e.ringCons ++
    leBytes 4 e.mirrorReg ++ leBytes 4 e.lastToken ++ leBytes 8 ((e.scoreTarget.map BitVec.toNat).getD 0)

/-- An entry with the fields that 128 bytes give; what the Keeper holds beside the entry stays. -/
def Slot.ofBytes (e : Slot) (r : CtxRegs) (b : List Byte) : Slot :=
  let f := field b 10 1
  { e with
    seqId := BitVec.ofNat 64 (field b 0 8)
    ctx := bits (field b 8 2) 8 0
    state := slotStateOf (bits f 2 0)
    lc := bitAt f 3
    mirror := bitAt f 4
    cancel := bitAt f 5
    vchg := bitAt f 6
    depth := bits (field b 11 1) 2 0
    version := field b 12 2
    adapter := field b 14 2
    adapterVer := field b 16 2
    status := field b 18 2
    promptLen := field b 20 4
    prefilled := field b 24 4
    length := field b 28 4
    maxNew := field b 32 4
    temp := field32 b 36
    topP := field32 b 40
    topK := field b 44 2
    package := field b 46 1
    stops := tokensAt b 48 8
    nstop := field b 47 1
    admitTick := field b 80 8
    kvList := field b 88 8
    list := if r.kvBase.toNat ≤ field b 88 8 ∧ field b 88 8 ≠ 0 then some ((field b 88 8 - r.kvBase.toNat) / 0x10000) else none
    supEntry := field b 96 8
    ringProd := field b 104 4
    ringCons := field b 108 4
    mirrorReg := field b 112 4
    lastToken := field b 116 4
    scoreTarget := if field b 120 8 = 0 then none else some (BitVec.ofNat 64 (field b 120 8)) }

/-- KVLEN (chapter 8, "The append path"). -/
def Slot.kvlen (e : Slot) : Nat := if e.prefilled < e.promptLen then e.prefilled else e.length - 1

/-- Whether a slot is in use. -/
def Slot.used (e : Slot) : Bool := e.state != .free

/-- The slots in use, by number. -/
def State.usedSlots (s : State) : List Nat := (s.slots.filter fun e => e.2.used).map Prod.fst

/-- The slots of context `c` in use. -/
def State.ctxSlots (s : State) (c : Nat) : List Nat := (s.slots.filter fun e => e.2.used && e.2.ctx == c).map Prod.fst

/-- The slot of context `c` that holds a SEQ_ID. -/
def State.findSlot (s : State) (c : Nat) (q : Long) : Option Nat := (s.ctxSlots c).find? fun i => (s.slot i).seqId == q

/-- Whether slot `i` is in a running step (R284, R291). -/
def State.inStep (s : State) (i : Nat) : Bool :=
  s.steps.any fun t => t.items.any (fun w => w.slot == i) || t.ending.any fun e => e.1 == i

/-! ### Current versions (R375) -/

/-- The CURRENT version of a package of a context; 0 when there is none. -/
def Ctx.currentTag (x : Ctx) (package : Nat) : Nat :=
  match x.versions.find? fun v => v.package == package && v.state == .current with
  | some v => v.tag
  | none => 0

/-- The CURRENT version of package slot `k` of context `c`. -/
def State.currentTag (s : State) (c k : Nat) : Nat :=
  match s.ctx c with
  | some x => x.currentTag k
  | none => 0

/-- The CURRENT version tag of adapter index `a`; 0 for none. -/
def State.adapterTag (s : State) (a : Nat) : Nat :=
  match tget s.adapters a with
  | some x =>
    match x.versions.find? fun v => v.state == .current with
    | some v => v.tag
    | none => 0
  | none => 0

/-- Whether the group is in the generation phase (R27). -/
def State.generating (s : State) : Bool := s.turns.learning.isNone

/-! ### The super (R292 to R294) -/

/-- Bytes of the padded prompt in an entry. -/
def promptBytes (n : Nat) : Nat := (4 * n + 15) / 16 * 16

/-- Reserved size of an entry (R292). -/
def entryBytes (prompt maxNew : Nat) : Nat := (64 + promptBytes prompt + 16 * maxNew + 4095) / 4096 * 4096

/-- The header of an entry (Table 7.7). -/
def SupEntry.header (e : SupEntry) : List Byte :=
  leBytes 8 e.seqId.toNat ++ leBytes 2 e.status ++
    leBytes 2 (b2n e.ready + 2 * b2n e.vchg + 4 * e.rewardState + 16 * b2n e.released) ++ leBytes 2 e.versionFirst ++
    leBytes 2 e.versionLast ++ leBytes 4 e.promptLen ++ leBytes 4 e.genLen ++ leBytes 2 e.adapter ++ leBytes 2 e.adapterVer ++
    leBytes 4 e.reward.toNat ++ leBytes 4 e.bytes ++ leBytes 4 e.endStamp.toNat ++ zeros 24

/-- A token record (Table 7.6, KIND 0). -/
def TokenRec.bytes (t : TokenRec) (phase : Bool) : List Byte :=
  leBytes 4 (t.token % 2 ^ 18 + 2 ^ 18 * b2n t.vchg + 2 ^ 31 * b2n phase) ++ leBytes 4 t.logp.toNat ++ leBytes 4 t.entropy.toNat ++
    leBytes 2 t.version ++ leBytes 2 (t.pos % 65536)

/-- An end record (Table 7.6, KIND 1). -/
def endRecord (status length version : Nat) (phase : Bool) : List Byte :=
  leBytes 4 (2 ^ 29 + 2 ^ 31 * b2n phase) ++ leBytes 4 status ++ leBytes 4 length ++ leBytes 2 version ++ zeros 2

/-- The super entry of a SEQ_ID. -/
def Ctx.super (x : Ctx) (q : Long) : Option SupEntry := x.supers.find? fun e => e.seqId == q

/-- The super entry of a SEQ_ID of context `c`. -/
def State.super (s : State) (c : Nat) (q : Long) : Option SupEntry := (s.ctx c).bind fun x => x.super q

/-- Replace the super entry of its SEQ_ID, and write its header to memory. -/
def State.setSuper (s : State) (c : Nat) (e : SupEntry) : State :=
  match s.ctx c with
  | none => s
  | some x => (s.setCtx c { x with supers := x.supers.map fun o => if o.seqId == e.seqId then e else o }).writeCtx c e.addr e.header

/-- Where the next entry of `n` bytes starts, as a count, past the bytes skipped at the end of the region (R294); `none` where it
has no room. -/
def CtxRegs.superPlace (r : CtxRegs) (n : Nat) : Option Nat :=
  let size := r.supBytes.toNat
  if size = 0 || size < n then none
  else
    let at' := r.supHead % size
    let start := if size < at' + n then r.supHead + (size - at') else r.supHead
    if start + n - r.supTail ≤ size then some start else none

/-- Reserve an entry at the head and write its header and prompt ids (R292, R293): the entry's address. -/
def State.reserveSuper (s : State) (c start n : Nat) (e : Slot) : Nat × State :=
  let r := s.creg c
  let addr := r.supBase.toNat + start % r.supBytes.toNat
  let sup : SupEntry := ⟨e.seqId, addr, start, n, 0, false, false, 0, false, 0, 0, e.promptLen, 0, e.adapter, e.adapterVer, 0, 0,
    e.prompt, []⟩
  match s.ctx c with
  | none => (addr, s)
  | some x =>
    let s1 := (s.setCtx c { x with supers := x.supers ++ [sup] }).setCreg c { r with supHead := start + n }
    let ids := e.prompt.flatMap fun t => leBytes 4 t
    (addr, s1.writeCtx c addr (sup.header ++ ids ++ zeros (promptBytes e.promptLen - ids.length)))

/-- The tail passes every released entry at the front (R294). -/
def passTail : Nat → List SupEntry → Nat × List SupEntry
  | t, [] => (t, [])
  | t, e :: rest => if e.released then passTail (e.start + e.bytes) rest else (t, e :: rest)

/-- Move the tail of context `c`. -/
def State.moveTail (s : State) (c : Nat) : State :=
  match s.ctx c with
  | none => s
  | some x =>
    let r := s.creg c
    let t := passTail r.supTail x.supers
    (s.setCtx c { x with supers := t.2 }).setCreg c { r with supTail := if t.2.isEmpty then r.supHead else t.1 }

/-! ### Nectar rings (R287 to R291) -/

/-- Ring room (R289); 256 while a restored ring stands below its consumer (R535). -/
def Slot.room (e : Slot) : Nat :=
  match e.rewind with
  | some v => if e.ringProd < v then 256 else 256 - (e.ringProd + 2 ^ 32 - e.ringCons) % 2 ^ 32
  | none => 256 - (e.ringProd + 2 ^ 32 - e.ringCons) % 2 ^ 32

/-- Write one record into slot `i`'s ring and mirror; a sequence without MIRROR, or whose mirror's connection failed, writes
none. -/
def State.ringWrite (s : State) (i : Nat) (rec' : Bool → List Byte) : State :=
  let e := s.slot i
  if !e.mirror || e.ringOff then s
  else
    let p := e.ringProd
    let b := rec' ((p / 256 + 1) % 2 == 1)
    let s1 := s.setSlot i { e with ringProd := (p + 1) % 2 ^ 32 }
    let s2 := s1.write (s.necRingBase.toNat + i * 4096 + 16 * (p % 256)) b
    match s.registration (e.ctx + 1) e.mirrorReg with
    | none => s2
    | some r => s2.postOp r.qpn (.write (r.addr + e.mirrorOffset + 16 * (p % 256)) r.rkey b)

/-- Record one committed token of slot `i`: ring and super (R287, R293). -/
def State.recordToken (s : State) (i : Nat) (t : TokenRec) : State :=
  let e := s.slot i
  let s1 := s.ringWrite i t.bytes
  match s1.super e.ctx e.seqId with
  | none => s1
  | some x =>
    if e.scoreTarget.isSome then s1
    else
      let k := x.records.length
      let x' := { x with
        records := x.records ++ [t]
        genLen := k + 1
        vchg := x.vchg || t.vchg
        versionFirst := if k = 0 then t.version else x.versionFirst
        versionLast := t.version }
      match s1.ctx e.ctx with
      | none => s1
      | some c => (s1.setCtx e.ctx { c with supers := c.supers.map fun o => if o.seqId == x.seqId then x' else o }).writeCtx e.ctx
          (x.addr + 64 + promptBytes x.promptLen + 16 * k) (t.bytes false)

/-! ### Ending a sequence -/

/-- Write a slot's binding into the header of its super entry, which holds ADAPTER_VER as the slot does (Table 7.7). -/
def State.syncSuper (s : State) (i : Nat) : State :=
  let e := s.slot i
  match s.super e.ctx e.seqId with
  | none => s
  | some x => if e.scoreTarget.isSome || x.ready then s else s.setSuper e.ctx { x with adapterVer := e.adapterVer }

/-- Close slot `i` with a status: the end record and the super header (Table 7.2, R293), whose END_STAMP is that of the sequence's final
commit. -/
def State.closeSlot (s : State) (i status : Nat) : State :=
  let e := s.slot i
  if e.state = .free || e.state = .closing then s
  else
    let s1 := (s.setSlot i { e with state := .closing, status := status }).ringWrite i fun ph => endRecord status e.length e.version ph
    match s1.super e.ctx e.seqId with
    | none => s1
    | some x => if e.scoreTarget.isSome then s1
      else s1.setSuper e.ctx { x with status := status, adapterVer := e.adapterVer, endStamp := e.commitStamp, ready := true }

/-- The SEQUENCE completion of slot `i` (Table 12.9). -/
def State.postSequence (s : State) (i : Nat) (origin : Bool) (fault : Word) : State :=
  let e := s.slot i
  s.answer ⟨e.ctx + 16, e.tag, 0x0101, e.ctx⟩
    ⟨1, e.seqId.toNat, e.length % 2 ^ 32 + 2 ^ 32 * e.version + 2 ^ 48 * e.adapterVer, e.supEntry, e.status, origin, true, e.lastStamp, fault⟩

/-- CLOSING ends: the completion is posted, the list and held pages are released, and the slot becomes FREE (R319). -/
def State.freeSlot (s : State) (i : Nat) (origin : Bool) (fault : Word) : State :=
  let e := s.slot i
  if e.state != .closing then s
  else
    let busy := s.stepRunning e.ctx
    let s1 := s.postSequence i origin fault
    let s2 := match e.list with
      | some m => s1.releaseList e.ctx m busy
      | none => s1
    let s3 := e.held.foldl (fun t g => t.setPool e.ctx ((t.pool e.ctx).drop busy g)) s2
    { s3 with slots := terase s3.slots i }

/-- End slot `i` at once: it is in no running step. -/
def State.endSlot (s : State) (i status : Nat) : State := (s.closeSlot i status).freeSlot i false 0

/-- End slots that are in no running step. -/
def State.endSlots (s : State) (is : List Nat) (status : Nat) : State := is.foldl (fun t i => t.endSlot i status) s

/-! ### Due slots and damaged versions (R259, R394) -/

/-- Whether a slot is due (R259). -/
def Slot.due (e : Slot) : Bool := (e.state == .prefill || e.state == .decode) && e.version != 0

/-- Whether a slot is bound to a DAMAGED version, of its package or of its adapter. -/
def State.boundDamaged (s : State) (e : Slot) : Bool :=
  ((s.ctx e.ctx).any fun x => x.versions.any fun v => v.tag == e.version && v.damaged) ||
  (e.adapter != 0xFFFF && (tget s.adapters e.adapter).any fun a => a.versions.any fun v => v.tag == e.adapterVer && v.damaged)

/-- End slot `i` where it is due, in no running step and bound to a DAMAGED version (R394). -/
def State.endDamagedSlot (s : State) (i : Nat) : State :=
  if (s.slot i).due && !s.inStep i && s.boundDamaged (s.slot i) then s.endSlot i stMem else s

/-- The same for every slot of context `c`. -/
def State.endDamaged (s : State) (c : Nat) : State := (s.ctxSlots c).foldl State.endDamagedSlot s

/-! ### Binding (R262, R322, R326) -/

/-- The tag of a slot's binding (Table 8.3). -/
def Slot.tagOf (e : Slot) (version : Nat) : PageTag := ⟨e.package, version, e.adapter, e.adapterVer⟩

/-- Set list entries of slot `i` from index `k` on to pages that already hold a reference for it. -/
def State.adoptPages (s : State) (c m : Nat) : Nat → List Nat → State
  | _, [] => s
  | k, g :: rest => (s.setEntry c m k (some g)).adoptPages c m (k + 1) rest

/-- Look up blocks from `j` on (R326): the hits, in order, stop at the first miss. -/
def lookupBlocks (p : KvPool) (r : CtxRegs) (hs : List (BitVec 128)) (j : Nat) : List (Nat × Nat) :=
  ((hs.drop j).map fun h => (p.findHash r h).bind fun k => (tget p.hashes k).map fun e => (k, e.page))
    |>.takeWhile Option.isSome |>.filterMap id

/-- End a slot that a cancel or its mirror's failure has marked, once it is in no running step (R284, R291). -/
def State.settleMarked (s : State) (i : Nat) : State :=
  let e := s.slot i
  if s.inStep i then s else if e.ringOff then s.endSlot i stLinkDown else if e.cancel then s.endSlot i stCancelled else s

/-- Take the hits of a lookup: each entry's USED is written and its page held. -/
def KvPool.takeHits (p : KvPool) (stamp : Word) (hits : List (Nat × Nat)) : KvPool :=
  hits.foldl (fun q h =>
    let q1 := q.hold h.2
    match tget q1.hashes h.1 with
    | some e => { q1 with hashes := tset q1.hashes h.1 { e with used := stamp } }
    | none => q1) p

/-- Bind slot `i` to the current versions: its reuse from a handle and by block hashing, and PREFILLED (R262, R322, R326). -/
def State.bindSlot (s : State) (i : Nat) : State :=
  let e0 := s.slot i
  let c := e0.ctx
  let v := s.currentTag c e0.package
  match s.ctx c, e0.list with
  | some x, some m =>
    if v = 0 then s
    else
      let e := { e0 with version := v, adapterVer := if e0.adapter = 0xFFFF then 0 else s.adapterTag e0.adapter }
      let r := s.creg c
      let tag := e.tagOf v
      let cap := (e.promptLen - 1) / 64
      let same := e.held.length != 0 && e.heldTag == tag.encode
      let j := if same then min e.held.length cap else 0
      let busy := s.stepRunning c
      let drop := if same then e.held.drop j else e.held
      let s1 := (s.setSlot i { e with held := [], heldTag := 0 }).adoptPages c m 0 (if same then e.held.take j else [])
      let s2 := drop.foldl (fun t g => t.setPool c ((t.pool c).drop busy g)) s1
      let p := s2.pool c
      let hits := if r.hashing then lookupBlocks p r (chainHashes (hashKey x.key) tag e.prompt cap) j else []
      let s3 := (s2.setPool c (p.takeHits s.brdStarted hits)).adoptPages c m j (hits.map Prod.snd)
      let n := 64 * (j + hits.length)
      let s4 := (s3.setSlot i { s3.slot i with prefilled := n }).syncSuper i
      let q := s4.pool c
      (s4.setPool c { q with reused := q.reused + n }).endDamagedSlot i
  | _, _ => s

/-- Bind every unbound slot of context `c` whose package has a CURRENT version, in the generation phase. -/
def State.bindWaiting (s : State) (c : Nat) : State :=
  if s.generating then
    ((s.ctxSlots c).filter fun i => (s.slot i).version == 0 && (s.slot i).state == .prefill).foldl State.bindSlot s
  else s

end Sys2Proof.Machine
end

