-- ==== Sys2Proof/Machine/Sampler.lean ====
section
/-! DEFINITION. The token samplers (R278, R279) and the fingerprint terms of a run (R500, R501). -/

namespace Sys2Proof.Machine

/-! ### FP32 operations by RNE -/

/-- RN(a − b). -/
def sub32 (a b : Nat) : Nat := rne32 ((val32 a).add (val32 b).neg)

/-- RN(a / b). -/
def div32 (a b : Nat) : Nat := rne32 ((val32 a).div (val32 b))

/-- exp by the function-table rule, in FP32. -/
def exp32 (x : Nat) : Nat := rne32 (tableFunc fp32.encode false 1 (val32 x))

/-- ln by the function-table rule, in FP32. -/
def ln32 (x : Nat) : Nat := rne32 (tableFunc fp32.encode false 3 (val32 x))

/-- Whether an FP32 encoding is −∞. -/
def isMinusInf (x : Nat) : Bool := x == 0xFF800000

/-! ### A row (R278) -/

/-- The tempered row z, from the row's values and the temperature. -/
def tempered (x : List Val) (temp : Word) : List Nat :=
  let t := if (val32 temp.toNat).isZero then 0x3F800000 else div32 0x3F800000 temp.toNat
  x.map fun v => rne32 (v.mul (val32 t))

/-- Whether a tempered row yields no token (R279). -/
def yieldsNone (z : List Nat) : Bool :=
  (z.any fun a => (val32 a).isNan || a == 0x7F800000) || z.all isMinusInf

/-- The lowest index of the largest of some numbers by R53. -/
def argmaxOf (vs : List Val) : Nat :=
  match vs.zip (List.range vs.length) with
  | [] => 0
  | p :: rest => (rest.foldl (fun w t => if beatsMax w.1 t.1 then t else w) p).2

/-- max of a row. -/
def rowMax (z : List Nat) : Nat :=
  match z with
  | [] => 0
  | a :: rest => rne32 ((rest.map val32).foldl vmax (val32 a))

/-- Insert an id in the order of z descending, lower id first among equal z. -/
def insertById (z : List Nat) (i : Nat) : List Nat → List Nat
  | [] => [i]
  | j :: rest => if (val32 ((z[i]?).getD 0)).lt (val32 ((z[j]?).getD 0)) || !(val32 ((z[j]?).getD 0)).lt (val32 ((z[i]?).getD 0)) && decide (j < i)
      then j :: insertById z i rest else i :: j :: rest

/-- The ids of a row by z descending, lower id first among equal z. -/
def idsByZ (z : List Nat) : List Nat := (List.range z.length).foldl (fun l i => insertById z i l) []

/-- The shortest part from the front whose running fold reaches `limit`. -/
def keepUntil (e : Nat → Nat) (limit : Nat) : Nat → List Nat → List Nat
  | _, [] => []
  | c, i :: rest =>
    let c' := addSum c (e i)
    if (val32 c').lt (val32 limit) then i :: keepUntil e limit c' rest else [i]

/-- The first id whose running fold exceeds `r`, else the last. -/
def pickFrom (e : Nat → Nat) (r : Nat) : Nat → List Nat → Nat
  | _, [] => 0
  | _, [i] => i
  | c, i :: rest =>
    let c' := addSum c (e i)
    if (val32 r).lt (val32 c') then i else pickFrom e r c' rest

/-- A fold from the first value's own. -/
def foldE (e : Nat → Nat) (ids : List Nat) : Nat := leftFold (ids.map e)

/-- The kept candidates of a row: TOP_K, then TOP_P (steps 5 and 6 of R278). -/
def candidates (z : List Nat) (e : Nat → Nat) (topK : Nat) (topP : Word) : List Nat :=
  let sorted := idsByZ z
  let cut := if topK = 0 then sorted else sorted.take topK
  if (val32 topP.toNat).lt (.fin false 1 0) then
    keepUntil e (mul32 topP.toNat (foldE e cut)) 0 cut
  else cut

/-- The token a sampler chooses from the kept candidates (step 7 of R278). -/
def chooseToken (e : Nat → Nat) (kept : List Nat) (w : Nat) : Nat :=
  let ids := kept.foldl ninsert []
  let u := rne32 (.fin false (w / 2 ^ 40) (-24))
  pickFrom e (mul32 u (foldE e ids)) 0 ids

/-- A row's result: the token, log-probability and entropy, or no token. -/
structure RowResult where
  token : Option Nat
  logp : Word
  entropy : Word
  deriving DecidableEq, Repr

/-- The sampler's results for a row (R278, R279). -/
def sampleRow (x : List Val) (temp topP : Word) (topK : Nat) (w : Nat) : RowResult :=
  let z := tempered x temp
  if yieldsNone z then ⟨none, 0, 0⟩
  else
    let m := rowMax z
    let d := z.map fun a => sub32 a m
    let es := d.map exp32
    let e (i : Nat) : Nat := (es[i]?).getD 0
    let total := canonicalSum (es.map val32)
    let terms := (z.zip (d.zip es)).map fun p => if isMinusInf p.1 then Val.zero else val32 (mul32 p.2.2 p.2.1)
    let big := canonicalSum terms
    let lnS := ln32 total
    let id := if (val32 temp.toNat).isZero then argmaxOf x else chooseToken e (candidates z e topK topP) w
    ⟨some id, BitVec.ofNat 32 (sub32 ((d[id]?).getD 0) lnS), BitVec.ofNat 32 (sub32 lnS (div32 big total))⟩

/-! ### Fingerprints (R500, R501) -/

/-- The term of a sampled row. -/
def sampleTerm (q : Long) (pos token : Nat) (logp entropy : Word) : Nat :=
  crc32c (leBytes 8 q.toNat ++ leBytes 4 pos ++ leBytes 4 token ++ leBytes 4 logp.toNat ++ leBytes 4 entropy.toNat)

/-! ### Steps -/

/-- The running or built step of context `c`. -/
def State.genStep (s : State) (c : Nat) : Option GenStep := s.steps.find? fun t => t.ctx == c

/-- Update the step of its context. -/
def State.setStep (s : State) (t : GenStep) : State :=
  { s with steps := s.steps.map fun o => if o.ctx == t.ctx then t else o }

/-- The package of a step. -/
def State.stepPackage (s : State) (t : GenStep) : Option Package :=
  (s.ctx t.ctx).bind fun x => (tget x.packages t.package).map Loaded.package

/-- Index of the first row of slot `i` among a step's rows, in list order. -/
def rowBase (items : List WorkItem) (i : Nat) : Nat := ((items.takeWhile fun w => w.slot != i).map WorkItem.rows).sum

/-- Whether row `k` of a list item yields a token (R275): of a scoring sequence none, of a prompt's last chunk its last row, of a
decoding slot every row. -/
def State.rowSampled (s : State) (w : WorkItem) (k : Nat) : Bool :=
  let e := s.slot w.slot
  if w.decode then decide (k < w.rows)
  else e.scoreTarget.isNone && k + 1 == w.rows && w.first + w.rows == e.promptLen

/-- Whether sampler `k`, that of comb `k`, may take rows of a step: in partitioned mode only those of the partition whose mask holds its
comb (R595). -/
def State.samplerServes (s : State) (k : Nat) (t : GenStep) : Bool := !s.propolis.partitioned || bitAt (s.creg t.ctx).combs.toNat k

/-- The position a sampled row chooses a token for. -/
def rowPosition (w : WorkItem) (k : Nat) : Nat := w.first + k + 1

/-- Decode `n` logits from bytes, FP32 or BF16. -/
def logitsOf (fmt : Nat) (b : List Byte) (n : Nat) : List Val :=
  let w := if fmt = 2 then 2 else 4
  (List.range n).map fun i => decodeFmt (if fmt = 2 then 2 else 1) (field b (w * i) w)

/-- The logits row of a step by its row index: the buffer's base and stride are those the package declares. -/
def State.logitsRow (s : State) (c : Nat) (p : Package) (row : Nat) : List Val :=
  let w := if p.logitsFormat = 2 then 2 else 4
  logitsOf p.logitsFormat (s.readCtx c (p.logitsBase + row * p.logitsStride) (w * p.vocab)) p.vocab

/-- Take one row of step `t` by a sampler. -/
def State.takeRow (s : State) (t : GenStep) (p : Package) (w : WorkItem) (k : Nat) : State :=
  let e := s.slot w.slot
  let key := match s.ctx t.ctx with
    | some x => x.key
    | none => 0
  let pos := rowPosition w k
  let d := drawW key ⟨4, t.version, e.seqId.toNat, pos, 0, 0, 0⟩
  let r := sampleRow (s.logitsRow t.ctx p (rowBase t.items w.slot + k)) e.temp e.topP e.topK d
  let fp := match r.token with
    | some id => fpAdd t.fp (sampleTerm e.seqId pos id r.logp r.entropy)
    | none => t.fp
  let drew := r.token.isSome && !(val32 e.temp.toNat).isZero
  let s1 := s.setStep { t with samples := t.samples ++ [⟨w.slot, k, r.token, r.logp, r.entropy⟩], fp := fp }
  let s2 := { s1 with guard := { s1.guard with fp := fp } }
  if drew then s2.setSlot w.slot { s2.slot w.slot with drawn := max e.drawn pos } else s2

/-- SAMPLE_ROW: a free sampler takes a complete row of a running step (R278, R279). By R64 neither the sampler nor the order of
the rows changes any bit; a row already taken, or one that is not sampled, is none to take. -/
def execSampleRow (sampler slot row : Nat) (s : State) : Host.Outcome State Fault Refusal :=
  .next (match s.steps.find? fun t => (t.phase == .running || t.phase == .coresDone) && t.items.any fun w => w.slot == slot with
  | none => s
  | some t =>
    match t.items.find? fun w => w.slot == slot, s.stepPackage t with
    | some w, some p =>
      if s.isQueen && s.samplerServes sampler t && s.rowSampled w row && !(t.samples.any fun x => x.slot == slot && x.row == row) then s.takeRow t p w row else s
    | _, _ => s)

end Sys2Proof.Machine
end

