-- ==== Sys2Proof/Machine/Tick.lean ====
section
/-! DEFINITION. What a timebase tick counts (R24, R25, R266): whether the module is clocked, the cores' busy ticks and their charges. -/

namespace Sys2Proof.Machine

/-- Whether the module is clocked: powered, out of reset, not held by a lost reference, not stopped (R25, R568, R628, R630). -/
def State.clocked (s : State) : Bool :=
  s.pins.pwrGood && s.pins.rails && !s.pins.modReset && !s.pins.refclkHold && s.pins.refclk && s.power.stopped.isNone

/-- Whether a core counts busy ticks (CORE_BUSY). -/
def Core.busyNow (c : Core) : Bool := c.mode == .running || c.mode == .aborting || c.mode == .faulted

/-- Busy counts of the running cores, one tick on. -/
def State.countBusy (s : State) : Table Core :=
  s.cores.map fun e => (e.1, if e.2.busyNow then { e.2 with busy := e.2.busy + 1 } else e.2)

/-- Cores busy for context `c`: those whose CORE_CONTEXT names it (R266). -/
def State.busyFor (s : State) (c : Nat) : Nat :=
  (s.cores.filter fun e => e.2.busyNow && bitAt e.2.context.toNat 31 && bits e.2.context.toNat 8 0 == c).length

/-- At tick n × 1,000,000 share window n begins: the usage of window n − 1 becomes the previous window's, and usage starts from 0 (R38, R39,
R266). -/
def State.rollShare (s : State) : State :=
  let w := s.now / 1000000
  if s.shareWindow < w then
    { s with
      shareWindow := w
      ctxRegs := s.ctxRegs.map fun e => (e.1, { e.2 with usagePrev := if s.shareWindow + 1 = w then e.2.usage else 0, usage := 0 }) }
  else s

/-- Charge each existing context the tick's core-ticks (R266). -/
def State.chargeUsage (s : State) : Table CtxRegs :=
  s.ctxs.foldl (fun t e =>
    let n := s.busyFor e.1
    if n = 0 then t
    else
      let r := tgetD t e.1 .reset
      tset t e.1 { r with usage := r.usage + n }) s.ctxRegs

end Sys2Proof.Machine
end

