-- ==== Sys2Proof/Machine/Builder.lean ====
section
/-! DEFINITION. The work-list builder (R264 to R274, R311 to R315) and the end of a share window (R266). -/

namespace Sys2Proof.Machine

/-! ### Combs and cores of a mask -/

/-- The working positions of a comb mask in increasing comb and position (R504, R519). -/
def State.maskPositions (s : State) (mask : Word) : List Nat :=
  (List.range 512).filter fun c => bitAt mask.toNat (c / 16) && !s.isRetired (s.positionCore c)

/-- The working cores of a comb mask. -/
def State.maskCores (s : State) (mask : Word) : List Nat := (s.maskPositions mask).map s.positionCore

/-- Whether two masks share a comb. -/
def masksMeet (a b : Word) : Bool := a &&& b != 0

/-- Whether every comb of a mask is idle: no step and no learning pass on it, and no core of it under test (R265, R515). -/
def State.combsIdle (s : State) (mask : Word) : Bool :=
  (s.steps.all fun t => !masksMeet t.mask mask) &&
  (s.learnSteps.all fun t => !t.running || !masksMeet (s.creg t.ctx).combs mask) &&
  s.guard.testing.all fun p => !bitAt mask.toNat (combOf p)

/-! ### Due slots in order (R267) -/

/-- Whether slot `a` comes before slot `b` in the order of R267. -/
def State.slotBefore (s : State) (a b : Nat) : Bool :=
  let x := s.slot a
  let y := s.slot b
  (x.lc && !y.lc) || (x.lc == y.lc && (decide (x.admitTick < y.admitTick) || (x.admitTick == y.admitTick && decide (a < b))))

/-- Insert a slot in the order of R267. -/
def State.insertSlot (s : State) (i : Nat) : List Nat → List Nat
  | [] => [i]
  | j :: rest => if s.slotBefore i j then i :: j :: rest else j :: s.insertSlot i rest

/-- The due slots of context `c` in the order of R267. -/
def State.dueSlots (s : State) (c : Nat) : List Nat :=
  ((s.ctxSlots c).filter fun i => (s.slot i).due).foldl (fun l i => s.insertSlot i l) []

/-! ### The context (R265) -/

/-- WEIGHT of a context. -/
def CtxRegs.weight (r : CtxRegs) : Nat := bits r.cfg.toNat 15 0

/-- Whether context `a` is chosen before context `b`, each with its due slots in order (R265). -/
def State.ctxBefore (s : State) (a b : Nat × List Nat) : Bool :=
  let lc (x : Nat × List Nat) : Bool := x.2.any fun i => (s.slot i).lc
  let ua := (s.creg a.1).usage * (s.creg b.1).weight
  let ub := (s.creg b.1).usage * (s.creg a.1).weight
  let tick (x : Nat × List Nat) : Nat := ((x.2.head?).map fun i => (s.slot i).admitTick).getD 0
  if lc a != lc b then lc a
  else if bitAt s.brdCtrl.toNat 1 && ua != ub then decide (ua < ub)
  else if tick a != tick b then decide (tick a < tick b)
  else decide (a.1 < b.1)

/-- Whether context `c` waits at a step boundary for its capture point (R524). -/
def State.awaitsCapture (s : State) (c : Nat) : Bool :=
  s.guard.cap.any (fun k => k.state == .capturing && k.ctx == c && !k.begun) && !s.learnSteps.any fun t => t.ctx == c

/-- The enabled contexts of a mask that have a due slot and no step running, and wait for no capture point. -/
def State.candidatesFor (s : State) (mask : Word) : List (Nat × List Nat) :=
  (s.ctxs.map Prod.fst).filterMap fun c =>
    let r := s.creg c
    let d := s.dueSlots c
    if bitAt r.cfg.toNat 16 && r.combs == mask && !d.isEmpty && !s.stepRunning c && !s.awaitsCapture c then some (c, d) else none

/-- The context the builder chooses. -/
def State.chooseContext (s : State) (mask : Word) : Option (Nat × List Nat) :=
  match s.candidatesFor mask with
  | [] => none
  | a :: rest => some (rest.foldl (fun best x => if s.ctxBefore x best then x else best) a)

/-! ### The key (R268, R269) -/

/-- The key of slot `i`: its package, and its own version in DRAIN or the package's current version in CONTINUE. -/
def State.slotKey (s : State) (i : Nat) : Nat × Nat :=
  let e := s.slot i
  let cur := s.currentTag e.ctx e.package
  (e.package, if s.turns.continueMode && cur != 0 then cur else e.version)

/-- The distinct keys of some slots, in the order of each one's first slot. -/
def State.keysOf (s : State) (due : List Nat) : List (Nat × Nat) :=
  due.foldl (fun ks i => if ks.contains (s.slotKey i) then ks else ks ++ [s.slotKey i]) []

/-- The most steps that a due slot of a key has waited through. -/
def State.keyWait (s : State) (due : List Nat) (k : Nat × Nat) : Nat :=
  ((due.filter fun i => s.slotKey i == k).map fun i => (s.slot i).waits).foldl max 0

/-- When a key last ran, counted in steps of its context; 0 for never. -/
def Ctx.lastRun (x : Ctx) (k : Nat × Nat) : Nat :=
  match x.keyRuns.find? fun r => r.package == k.1 && r.version == k.2 with
  | some r => r.lastRun
  | none => 0

/-- The first element that no later one beats. -/
def bestOf {α : Type} (beats : α → α → Bool) : List α → Option α
  | [] => none
  | a :: rest => some (rest.foldl (fun b x => if beats x b then x else b) a)

/-- The key the builder chooses among the due slots of a context (R269). Keys stand in the order of their earliest slot. -/
def State.chooseKey (s : State) (x : Ctx) (due : List Nat) : Option (Nat × Nat) :=
  let keys := s.keysOf due
  let old := keys.filter fun k => decide (8 ≤ s.keyWait due k)
  let lc (k : Nat × Nat) : Bool := due.any fun i => s.slotKey i == k && (s.slot i).lc
  if !old.isEmpty then bestOf (fun a b => decide (s.keyWait due b < s.keyWait due a)) old
  else bestOf (fun a b => if lc a != lc b then lc a else decide (x.lastRun a < x.lastRun b)) keys

/-! ### The list (R270, R313) -/

/-- What a build holds so far: the pool with its grants, the list, its sequences and rows, evictions, and whether a slot lacked
pages. -/
structure Build where
  pool : KvPool
  grants : List Grant
  items : List WorkItem
  toks : Nat
  evictions : Nat
  starved : Bool
  deriving DecidableEq, Repr

/-- The adapter version that a step runs slot `i` with: its own under DRAIN, the current one under CONTINUE (R406). -/
def State.runAdapter (s : State) (i : Nat) : Nat :=
  let e := s.slot i
  if e.adapter = 0xFFFF then e.adapterVer
  else
    let cur := s.adapterTag e.adapter
    if s.turns.continueMode && cur != 0 then cur else e.adapterVer

/-- Try to add slot `i` with `n` rows from position `first`. -/
def State.tryAdd (s : State) (version : Nat) (b : Build) (i : Nat) (decode : Bool) (first n : Nat) : Build :=
  let e := s.slot i
  match e.list with
  | none => b
  | some m =>
    match b.pool.reserve (s.creg e.ctx).pages s.brdStarted m ({ e with adapterVer := s.runAdapter i }.tagOf version) (b.pool.needs m first (first + n - 1)) with
    | none => { b with starved := true }
    | some (p, gs, k) =>
      { b with pool := p, grants := b.grants ++ gs, items := b.items ++ [⟨i, decode, first, n⟩], toks := b.toks + n,
               evictions := b.evictions + k }

/-- The decoding slots of a class, in order. -/
def State.buildDecode (s : State) (p : Package) (version : Nat) (slots : List Nat) (b : Build) : Build :=
  slots.foldl (fun b i =>
    let e := s.slot i
    let need := 1 + e.depth
    if p.maxSeqs < b.items.length + 1 || p.maxTokens < b.toks + need then b
    else s.tryAdd version b i true (e.length - 1) need) b

/-- The prefilling slots, in order. -/
def State.buildPrefill (s : State) (p : Package) (version : Nat) (slots : List Nat) (b : Build) : Build :=
  slots.foldl (fun b i =>
    let e := s.slot i
    let left := e.promptLen - e.prefilled
    let n0 := min (min left p.chunk) (p.maxTokens - b.toks)
    let n := if n0 < left then n0 - n0 % 64 else n0
    if n = 0 || p.maxSeqs < b.items.length + 1 then b else s.tryAdd version b i false e.prefilled n) b

/-- The work list of a key (R270). -/
def State.buildList (s : State) (c : Nat) (p : Package) (key : Nat × Nat) (due : List Nat) : Build :=
  let mine := due.filter fun i => s.slotKey i == key
  let dec (lc : Bool) := mine.filter fun i => (s.slot i).state == .decode && (s.slot i).lc == lc
  let b1 := s.buildDecode p key.2 (dec true) ⟨s.pool c, [], [], 0, 0, false⟩
  let b2 := s.buildDecode p key.2 (dec false) b1
  s.buildPrefill p key.2 (mine.filter fun i => (s.slot i).state == .prefill) b2

/-- The pages a step references: those its lists name and the sources of its copies, each once (Table 8.4). -/
def stepPages (p : KvPool) (lists : List Nat) (gs : List Grant) : List Nat :=
  union (union [] (lists.flatMap fun m => (p.list m).map Prod.snd)) ((gs.map Grant.page) ++ gs.filterMap Grant.old)

/-- Record that a key runs as the context's next step, and what the due slots have waited through. -/
def State.countStep (s : State) (c : Nat) (x : Ctx) (key : Nat × Nat) (due : List Nat) (items : List WorkItem) : State :=
  let n := x.stepCount + 1
  let others := x.keyRuns.filter fun r => !(r.package == key.1 && r.version == key.2)
  let s1 := s.setCtx c { x with stepCount := n, keyRuns := others ++ [⟨key.1, key.2, n⟩] }
  due.foldl (fun t i =>
    let e := t.slot i
    t.setSlot i { e with waits := if items.any fun w => w.slot == i then 0 else e.waits + 1 }) s1

/-- The rows of the list's item `n` (R274, R305, R307), its list's entries as they stand. -/
def State.itemRows (s : State) (n : Nat) (w : WorkItem) : List WorkRow :=
  let e := s.slot w.slot
  let entries := match e.list with
    | some m => (s.pool e.ctx).list m
    | none => []
  (List.range w.rows).map fun k =>
    let p := w.first + k
    let token := if w.decode then if k = 0 then some e.lastToken else none else some ((e.prompt[p]?).getD 0)
    ⟨n, p, token, 128 * tgetD entries (p / 64) 0 + p % 64⟩

/-- The rows of a work list, in list order. -/
def State.workRows (s : State) (items : List WorkItem) : List WorkRow :=
  (items.zip (List.range items.length)).flatMap fun x => s.itemRows x.2 x.1

/-- The page numbers of a list's sequences up to their highest row positions. -/
def State.pageTables (s : State) (items : List WorkItem) : List (List Nat) :=
  items.map fun w =>
    let e := s.slot w.slot
    match e.list with
    | some m => (List.range ((w.first + w.rows + 63) / 64)).map fun k => tgetD ((s.pool e.ctx).list m) k 0
    | none => []

/-- The built step: stamp, references, copies, list entries and descriptor (R305, R311, R315). -/
def State.makeStep (s : State) (c : Nat) (x : Ctx) (key : Nat × Nat) (mask : Word) (due : List Nat) (b : Build) : State :=
  let stamp := s.brdStamp + 1
  let lists := b.items.filterMap fun w => (s.slot w.slot).list
  let pages := stepPages b.pool lists b.grants
  let held := pages.foldl KvPool.hold b.pool
  let s1 := (s.countStep c x key due b.items).setPool c held
  let step : GenStep := {
    ctx := c, mask := mask, package := key.1, version := key.2, stamp := stamp, firstStamp := stamp,
    lc := b.items.any fun w => (s.slot w.slot).lc
    phase := .built, items := b.items, rows := [], tables := [], samples := [], runs := [], fp := 0, flags := 0, faultBits := 0, veuFaultBits := 0,
    faultAt := 0, ends := [], past := [], ending := [], pages := pages
    adapters := ((b.items.map fun w => ((s.slot w.slot).adapter, s.runAdapter w.slot)).filter fun a => a.1 != 0xFFFF).dedup
    status := 0, watches := [] }
  let s2 := { s1 with brdStamp := stamp, evictCount := s1.evictCount + b.evictions, steps := s1.steps ++ [step], cascade := (s1.learnStamp stamp).cascade }
  let s3 := b.items.foldl (fun t w => t.setSlot w.slot { t.slot w.slot with lastStamp := stamp })
    (b.grants.foldl (fun t g => t.applyGrant c g) s2)
  { s3 with steps := s3.steps.map fun t =>
    if t.ctx == c then { t with rows := s3.workRows b.items, tables := s3.pageTables b.items } else t }

/-- Build for a mask: choose a context and a key and build a list. An empty list for lack of pages ends the last due slot of the
context and builds again (R270, R272). -/
def State.buildFor (s : State) (mask : Word) : Nat → State
  | 0 => s
  | n + 1 =>
    match s.chooseContext mask with
    | none => s
    | some (c, due) =>
      match s.ctx c with
      | none => s
      | some x =>
        match s.chooseKey x due with
        | none => s
        | some key =>
          match tget x.packages key.1 with
          | none => s
          | some l =>
            let b := s.buildList c l.package key due
            if !b.items.isEmpty then s.makeStep c x key mask due b
            else if !b.starved then s
            else match due.getLast? with
              | none => s
              | some i => ({ s.endSlot i stCapacity with brdFault := setBit32 s.brdFault 1 }).buildFor mask n

/-- How often a build can begin again: each time ends a due slot of the mask's contexts. -/
def State.buildTries (s : State) (mask : Word) : Nat := ((s.candidatesFor mask).map fun c => c.2.length).sum + 1

/-- Whether the builder may start a step now: enabled, on the queen, in the generation phase outside a turn, firmware running and
the cores clocked. -/
def State.mayBuild (s : State) : Bool :=
  bitAt s.brdCtrl.toNat 0 && s.isQueen && s.generating && s.keeper.mode == .running && s.keeper.powerState == 0 &&
    s.turns.turn.isNone && !s.guard.cfgLost && (s.cascade.state == .none || s.cascade.state == .active)

/-- BUILD_WORK_LIST: the combs of a mask are idle, and the builder chooses a context and a key and builds a list (R265 to
R272). -/
def execBuildWorkList (mask : Word) (s : State) : Host.Outcome State Fault Refusal :=
  .next (if s.mayBuild && s.combsIdle mask then s.buildFor mask (s.buildTries mask) else s)

/-- SHARE_WINDOW_END: usage moves to the previous window and starts from 0 (R266). The tick that ends a window rolls it (R38), so the
command finds nothing left to do in a state that ticks have reached. -/
def execShareWindowEnd (s : State) : Host.Outcome State Fault Refusal := .next s.rollShare

end Sys2Proof.Machine
end

