-- ==== Sys2Proof/Machine/Steps.lean ====
section
/-! DEFINITION. Runs of a step on the cores (Table 7.4, R139, R188, R504), what a finished run leaves (R203, R207), the guard's
decision on it (R497, R502, R506 to R508, R516, R517), and suspect cores (R508, R514). -/

namespace Sys2Proof.Machine

/-! ### Tables on cores -/

/-- The offset d_k of run `k` on `w` working cores (R504). -/
def runOffset (k w : Nat) : Nat := if 17 * k % w = 0 then k else 17 * k % w

/-- Bytes as 64-byte units from unit `k` on of a table of units. -/
def putUnits (k : Nat) : Nat → List Byte → Table (List Byte) → Table (List Byte)
  | 0, _, t => t
  | n + 1, b, t => putUnits (k + 1) n (b.drop 64) (tset t k (slice b 0 64))

/-- The units of a step that working core `u` of `n` computes (R520). -/
def unitsOf (p : Package) (u n : Nat) : List UnitImage := p.units.filter fun x => x.unit % n == u

/-- The tensors that the frames of some units name, by 64-byte unit from `k` on. -/
def namedFrom : Nat → List UnitImage → List (Nat × Nat)
  | _, [] => []
  | k, x :: rest => x.named.map (fun e => (k + e.1, e.2)) ++ namedFrom (k + x.bytes.length / 64) rest

/-- The table the Keeper builds in DEGRADED for working core `u` of `n` (R520): a header over the frames of its units in operation
order. -/
def builtTable (p : Package) (ctx u n : Nat) : List Byte :=
  let frames := (unitsOf p u n).flatMap UnitImage.bytes
  let head := leBytes 2 0x0100 ++ leBytes 2 (frames.length / 64) ++ leBytes 2 0 ++ leBytes 2 ctx ++ leBytes 2 p.contract ++
    zeros 2 ++ leBytes 4 0 ++ leBytes 8 p.packageId ++ zeros 36
  head ++ leBytes 4 (crc32c (head ++ zeros 4 ++ frames)) ++ frames

/-- The table of work position `u` of `n` (R504, R520): the package's table `index` for the logical core, or the built one, with the step's
scales in the frames that name a tensor (R66, R67, R94, R338). -/
def State.workTable (s : State) (p : Package) (ctx index logical u n : Nat) (scale : Nat → Option Int) : List Byte :=
  if s.guard.degraded then scaledTable (builtTable p ctx u n) (namedFrom 1 (unitsOf p u n)) scale
  else match p.tables.find? fun t => t.core == logical && t.index == index with
    | some t => scaledTable t.bytes t.named scale
    | none => []

/-- The j that a scale table holds for a tensor. -/
def scaleIn (es : List ScaleEntry) (tensor : Nat) : Option Int :=
  (es.find? fun e => e.tensor == tensor && isShort e.format).map ScaleEntry.j

/-- The j that the scale table of a context's base version holds for a tensor (R66). -/
def State.versionScale (s : State) (c tag tensor : Nat) : Option Int := 
  ((s.ctx c).bind fun x => x.versions.find? fun v => v.tag == tag).bind fun v => scaleIn v.scales tensor

/-- The chain store a package fills (R179, R198): its chains and user tables. -/
def packageStore (p : Package) : Table (List Byte) :=
  let chains := p.chains.foldl (fun t c => putUnits (2 * c.1) 2 c.2 t) []
  p.userFuncs.foldl (fun t u => putUnits (128 + 96 * u.slot) 96 u.bytes t) chains

/-- A core with a package's table, chains and user functions, ready to start under a stamp (Table 7.4, R188). What another context
left in its stores is cleared first (R123, R209). -/
def Core.load (c : Core) (p : Package) (ctx : Nat) (table : List Byte) (stamp : Word) (params : Table Long) : Core :=
  { c with
    frameStore := putUnits 0 (table.length / 64) table (c.frameStore.filter fun e => tget c.slotCtx e.1 == some ctx)
    slotCtx := (List.range (table.length / 64)).foldl (fun t k => tset t k ctx) (c.slotCtx.filter fun e => e.2 == ctx)
    veuStore := packageStore p
    veuCtx := some ctx
    chainValid := BitVec.ofNat 64 ((p.chains.map fun x => 2 ^ x.1).sum)
    userRegs := p.userFuncs.foldl (fun t u => tset t u.slot ⟨u.lo, u.cfg &&& 0xFF01, u.crc, u.vinf, u.dinf⟩) []
    context := BitVec.ofNat 32 (ctx + 2 ^ 31)
    entry := 0
    stepSeq := stamp
    params := params }

/-- The parameters CORE_PARAM1 to CORE_PARAM15 that a step's descriptor gives a logical core (Table 7.4). -/
def descriptorParams (d : List Nat) (logical : Nat) : Table Long :=
  (List.range 15).map fun k => (k + 1, BitVec.ofNat 64 (Config.stepParam d logical (k + 1)))

/-- Write every comb scalar of comb `k` (R188): the draw Step value in scalar 0, and by `f` those a descriptor gives beyond it. -/
def State.putScalars (s : State) (k step : Nat) (f : Nat → Nat) : State :=
  let others := s.combScalars.filter fun e => decide (e.1 < 64 * k) || decide (64 * (k + 1) ≤ e.1)
  let mine := (List.range 64).filterMap fun n =>
    let v := if n = 0 then step % 2 ^ 32 else f n
    if v = 0 then none else some (64 * k + n, BitVec.ofNat 64 v)
  { s with combScalars := mine.foldl (fun t e => tset t e.1 e.2) others }

/-- The comb whose work runs on comb `c` in run `k` of a step on some positions (R346, R504): that of the work on its last
position. -/
def roleComb (pos : List Nat) (k c : Nat) : Nat :=
  let w := pos.length
  match ((List.range w).filter fun i => (pos[i]?).getD 0 / 16 == c).getLast? with
  | some i => (pos[(i + w - runOffset k w) % w]?).getD 0 / 16
  | none => c

/-- Start run `k` of a step on every working core of a mask: tables by the rotation of R504 with the step's scales, the descriptor's
parameters, the scalars with each comb's draw Step value by its role, and one stamp (R139). -/
def State.startRun (s : State) (p : Package) (ctx : Nat) (mask : Word) (index k : Nat) (stamp : Word) (desc : List Nat)
    (step : Nat → Nat) (scalar : Nat → Nat → Nat) (scale : Nat → Option Int) : State :=
  let pos := s.maskPositions mask
  let w := pos.length
  let s1 := ((List.range 32).filter fun c => bitAt mask.toNat c).foldl
    (fun (t : State) c => t.putScalars c (step (roleComb pos k c)) (scalar c)) s
  (List.range w).foldl (fun t u =>
    let logical := (pos[u]?).getD 0
    let core := t.positionCore ((pos[(u + runOffset k w) % w]?).getD 0)
    let c := t.core core
    if c.mode = .idle ∨ c.mode = .done then
      (t.setCore core (c.load p ctx (t.workTable p ctx index logical u w scale) stamp (descriptorParams desc logical))).startCore core
    else t) s1

/-- The numbers of a work-list descriptor: its slots, first positions and row counts, then its rows, then its page numbers. -/
def GenStep.numbers (t : GenStep) : List Nat :=
  (t.items.flatMap fun w => [w.slot, w.first, w.rows]) ++
    (t.rows.flatMap fun r => [r.segment, r.pos, r.token.getD 0, r.keyRow]) ++ t.tables.flatMap id

/-- Start the next run of a generation step on this module. -/
def State.startGenRun (s : State) (t : GenStep) : State :=
  match s.stepPackage t with
  | none => s
  | some p =>
    let k := t.runs.length
    let s1 := s.setStep { t with phase := .running, samples := [], fp := 0, ends := [] }
    let s2 : State := { s1 with guard := { s1.guard with
      run := k, fp := 0, runs := if k = 0 then s1.guard.runs else addLow s1.guard.runs 1 } }
    s2.startRun p t.ctx t.mask 0 k t.stamp t.numbers (fun _ => t.version) (Config.stepScalar t.numbers)
      (s.versionScale t.ctx t.version)

/-! ### A finished run (R203, R207) -/

/-- Whether a core has nothing running. -/
def Core.ended (c : Core) : Bool := c.mode != .running && c.mode != .aborting && c.quiet

/-- Merge watch summaries by tag: counts add, the largest AMAX stays (R207). -/
def mergeWatches (ws : List WatchSum) (vs : List WatchSum) : List WatchSum :=
  vs.foldl (fun acc v => if acc.any fun x => x.tag == v.tag then acc.map fun x => if x.tag == v.tag then watchJoin x v else x
    else acc ++ [v]) ws

/-- What the cores of a run leave together: fault bits, the first faulting core's CORE_FAULT_AT, flags and watch summaries. -/
structure RunEnd where
  bits : Word
  veuBits : Word
  at' : Word
  flags : BitVec 7
  watches : List WatchSum
  deriving DecidableEq, Repr

/-- Gather a run's end from its cores, in order. -/
def State.gather (s : State) (cores : List Nat) : RunEnd :=
  cores.foldl (fun r p =>
    let c := s.core p
    { bits := r.bits ||| c.fault
      veuBits := r.veuBits ||| c.veuFault
      at' := if r.bits == 0 && r.veuBits == 0 && c.faulting then c.faultAt else r.at'
      flags := r.flags ||| BitVec.setWidth 7 c.veuFlagsStep
      watches := mergeWatches r.watches c.watch }) ⟨0, 0, 0, 0, []⟩

/-- Whether the run faulted. -/
def RunEnd.faulted (r : RunEnd) : Bool := r.bits != 0 || r.veuBits != 0

/-- Clear the faults of a run's cores and return them to IDLE: the Keeper aborts them and refills their stores (R516). -/
def State.clearCores (s : State) (cores : List Nat) : State :=
  cores.foldl (fun t p =>
    let c := t.core p
    if c.mode = .retired then t
    else t.setCore p { c.abort with mode := .idle, fault := 0, veuFault := 0, faultAt := 0, started := [], stopping := false }) s

/-! ### The guard (R497 to R508) -/

/-- Whether a flag set flags a run (R497). -/
def flagged (f : BitVec 7) : Bool := f &&& (laneInvalid ||| laneDivZero ||| laneOverflow ||| laneRange) != 0

/-- T of a guard fraction code (R503). -/
def spotLimit : Nat → Nat
  | 0 => 0
  | 1 => 1
  | 2 => 4
  | _ => 16

/-- Whether two 4-byte numbers are spot-selected at a fraction code (R503). -/
def spotSelected (a b code : Nat) : Bool := decide (crc32c (leBytes 4 a ++ leBytes 4 b) % 64 < spotLimit code)

/-- FRACTION of a context. -/
def CtxRegs.fraction (r : CtxRegs) : Nat := bits r.guardCfg.toNat 1 0

/-- Whether two runs agree (R502). -/
def Run.agrees (a b : Run) : Bool := !a.faulted && !b.faulted && a.fp == b.fp && a.flags == b.flags

/-- Whether two members' reports of two runs agree. -/
def endsAgree (a b : Table StepEndReport) : Bool :=
  a.all fun e => match tget b e.1 with
    | some x => !e.2.faulted && !x.faulted && e.2.fp == x.fp && e.2.flags == x.flags
    | none => false

/-- Enter a physical core as suspect (R514, R515): its suspicion counts, and at the fourth it is retired without a test. -/
def State.suspect (s : State) (p : Nat) : State :=
  if s.guard.suspects.contains p || s.isRetired p then s
  else
    let n := tgetD s.guard.suspicions p 0 + 1
    let s1 := { s with guard := { s.guard with suspects := ninsert s.guard.suspects p, suspicions := tset s.guard.suspicions p n } }
    s1.report 0x0203 n p

/-- Make the cores of a run of a context's step suspect, and tell every other member to do so with its own (R508, R514). -/
def State.suspectRun (s : State) (ctx : Nat) (r : Run) : State :=
  (r.cores.foldl State.suspect s).tellAll kmSuspect (leBytes 2 ctx)

/-- Enter a decision with a run in the minority. -/
def State.countMinority (s : State) (run ctx : Nat) : State :=
  ({ s with guard := { s.guard with decided := addLow s.guard.decided 1 } }).report 0x0400 run ctx

/-- Enter a decision without a majority. -/
def State.countNoMajority (s : State) (ctx : Nat) : State :=
  ({ s with guard := { s.guard with decided := addHigh s.guard.decided 1, fault := setBit32 s.guard.fault 2 } }).report 0x0401 0 ctx

/-! ### Memory errors by granule (Table 13.5) -/

/-- The context addresses at which context `c` maps a device address. -/
def State.placesOf (s : State) (c d : Nat) : List Nat :=
  (s.mappedAt c (granuleOf d).1).map fun a => a + (d - (granuleOf d).1)

/-- The context addresses at which context `c` maps MEM_ERR_ADDR. -/
def State.errorPlaces (s : State) (c : Nat) : List Nat := s.placesOf c s.memCtl.errAddr.toNat

/-- The page lists of context `c` that name a page that holds one of some addresses. -/
def State.listsAt (s : State) (c : Nat) (places : List Nat) : List Nat :=
  let hit := places.flatMap fun a => (s.creg c).pagesIn a 64
  ((s.pool c).lists.filter fun l => l.2.any fun e => hit.contains e.2).map Prod.fst

/-- The slots of context `c` that use one of some page lists. -/
def State.slotsOfLists (s : State) (c : Nat) (ms : List Nat) : List Nat := (s.ctxSlots c).filter fun i => (s.slot i).list.any ms.contains

/-- The slots of context `c` bound to one of some versions. -/
def State.slotsOfVersions (s : State) (c : Nat) (tags : List Nat) : List Nat := (s.ctxSlots c).filter fun i => tags.contains (s.slot i).version

/-- The versions of a context with a shard at an address. -/
def Ctx.versionsAt (x : Ctx) (a : Nat) : List Nat :=
  (x.versions.filter fun v => v.shards.any fun h => decide (h.dest ≤ a ∧ a < h.dest + h.length)).map Version.tag

/-- The versions of a context with a shard at one of some addresses. -/
def State.versionsHit (s : State) (c : Nat) (places : List Nat) : List Nat :=
  match s.ctx c with
  | some x => places.flatMap x.versionsAt
  | none => []

/-- The slots that lost data at some addresses ends (Table 13.5): those of a KV page, of a damaged version, of a super entry. -/
def State.errorSlots (s : State) (c : Nat) (places : List Nat) : List Nat :=
  match s.ctx c with
  | none => []
  | some x =>
    let pages := s.slotsOfLists c (s.listsAt c places)
    let bound := s.slotsOfVersions c (s.versionsHit c places)
    let owners := (s.ctxSlots c).filter fun i => x.supers.any fun e => e.seqId == (s.slot i).seqId &&
      places.any fun a => decide (e.addr ≤ a ∧ a < e.addr + e.bytes)
    union (union (union [] pages) bound) owners

/-- The package slots of context `c` whose tables, chains or user tables in the Keeper's region, the first 8 GiB of LPDDR5X, lie at one
of some device addresses. -/
def State.packagesAt (s : State) (c : Nat) (ds : List Nat) : List Nat :=
  match s.ctx c with
  | none => []
  | some x => (x.packages.filter fun p => ds.any fun d =>
      decide (lpBase ≤ d ∧ d < lpBase + 0x200000000) && Config.packageHolds p.2.package.packageId d).map Prod.fst

/-- The slots of context `c` admitted to one of some packages. -/
def State.slotsOfPackages (s : State) (c : Nat) (ks : List Nat) : List Nat :=
  (s.ctxSlots c).filter fun i => ks.contains (s.slot i).package

/-- Mark some versions of a context DAMAGED (R394, R517). -/
def State.damageVersions (s : State) (c : Nat) (tags : List Nat) : State :=
  match s.ctx c with
  | none => s
  | some x =>
    s.setCtx c { x with versions := x.versions.map fun v => if tags.contains v.tag then { v with damaged := true } else v }

/-! ### The decision (R507, R508, R516) -/

/-- The status that a faulted run ends the step with at once: no run again (Table 13.4). -/
def fatalStatus (r : RunEnd) : Option Nat :=
  if bitAt r.bits.toNat faultSpill || bitAt r.veuBits.toNat veuWatchFull then some stCapacity
  else if bitAt r.bits.toNat faultRole then some stRoleStale
  else if bitAt r.bits.toNat faultLink then some stLinkDown
  else none

/-- The first status of members' reports that ends a step at once. -/
def endStatus (ends : Table StepEndReport) : Option Nat := (ends.map fun e => e.2.status).find? fun st => st != 0

/-- A step that fails: it commits nothing, and its sequences will end with the status (R508). -/
def State.failStep (s : State) (t : GenStep) (status : Nat) : State :=
  s.setStep { t with phase := .failed, status := status }

/-- Run a step again with the next rotation and a new stamp (R506, R507); with no slot left it ends. -/
def State.rerun (s : State) (t : GenStep) : State :=
  let stamp := s.brdStamp + 1
  let items := t.items.filter fun w => !t.ending.any fun e => e.1 == w.slot
  let s1 := ({ s with brdStamp := stamp } : State).learnStamp stamp
  if items.isEmpty then s1.failStep { t with stamp := stamp } stDone
  else
    (items.foldl (fun u w => u.setSlot w.slot { u.slot w.slot with lastStamp := stamp }) s1).setStep
      { t with phase := .built, stamp := stamp, items := items, rows := s1.workRows items, tables := s1.pageTables items }

/-- Decide a run of a step that has ended on every member (R507). -/
def State.decideRun (s : State) (t : GenStep) (r : RunEnd) : State :=
  let cores := s.maskCores t.mask
  let bad := r.faulted || t.ends.any fun e => e.2.faulted
  let run : Run := ⟨bad, t.fp, t.flags, cores⟩
  let runs := t.runs ++ [run]
  let past := t.past ++ [t.ends]
  let t1 := { t with runs := runs, past := past, faultAt := if t.faultAt == 0 then r.at' else t.faultAt }
  let s1 := s.clearCores cores
  match (if r.faulted then fatalStatus r else none) <|> endStatus t.ends with
  | some st => s1.failStep { t1 with
      ending := t1.ending ++ if st = stMem then (s.slotsOfPackages t.ctx [t.package]).map fun i => (i, stMem) else [] } st
  | none =>
    let own := r.faulted && bitAt r.bits.toNat faultMem
    let mem := own || t.ends.any fun e => !e.2.lists.isEmpty || !e.2.versions.isEmpty
    let places := if own then s.errorPlaces t.ctx else []
    let tags := s.versionsHit t.ctx places ++ t.ends.flatMap fun e => e.2.versions
    let lost := union (union (union (s.errorSlots t.ctx places) (s.slotsOfLists t.ctx (t.ends.flatMap fun e => e.2.lists)))
      (s.slotsOfVersions t.ctx tags))
      (s.slotsOfPackages t.ctx (if own then s.packagesAt t.ctx [s.memCtl.errAddr.toNat] else []))
    let ends := lost.map fun i => (i, stMem)
    let s1' := s1.damageVersions t.ctx tags
    let s2 := if (r.faulted && !own) || t.ends.any fun e => e.2.suspect then s1'.suspectRun t.ctx run else s1'
    let t2 := { t1 with ending := t1.ending ++ ends }
    let needs := spotSelected t.ctx t.firstStamp.toNat (s.creg t.ctx).fraction || runs.any (fun x => !x.faulted && flagged x.flags) ||
      (past.any fun p => p.any fun e => !e.2.faulted && flagged e.2.flags)
    let agree := (runs.dropLast.zip past.dropLast).map fun x => x.1.agrees run && endsAgree t.ends x.2
    if !bad && !needs then s2.setStep { t2 with phase := .decided }
    else if !bad && agree.any id then
      let minority := (List.range agree.length).filter fun k => agree[k]? == some false
      let s3 := minority.foldl (fun u _ => u.suspectRun t.ctx run) s2
      let s4 := match minority.head? with
        | some k => s3.countMinority k t.ctx
        | none => s3
      s4.setStep { t2 with phase := .decided }
    else if 3 ≤ runs.length then
      let s3 := runs.foldl (fun u x => u.suspectRun t.ctx x) s2
      (s3.countNoMajority t.ctx).failStep t2 (if mem then stMem else stDisagree)
    else s2.rerun t2

/-- Whether every sampled row of a step has been taken. -/
def State.allSampled (s : State) (t : GenStep) : Bool :=
  t.items.all fun w => (List.range w.rows).all fun k => !s.rowSampled w k || t.samples.any fun x => x.slot == w.slot && x.row == k

/-- GENERATION_GUARD_DECISION: the queen decides a run once its cores are DONE, its rows sampled, and every member has reported
(R507, R508). -/
def execGenerationGuardDecision (ctx : Nat) (s : State) : Host.Outcome State Fault Refusal :=
  .next (match s.genStep ctx with
  | none => s
  | some t =>
    let r := s.gather (s.maskCores t.mask)
    let bad := r.faulted || t.ends.any fun e => e.2.faulted
    if t.phase == .coresDone && s.isQueen && decide (t.ends.length + 1 = s.groupSize) && (bad || s.allSampled t) then s.decideRun t r
    else s)

end Sys2Proof.Machine
end

