-- ==== Sys2Proof/Machine/Commit.lean ====
section
/-! DEFINITION. The commit of a generation step (R273, R281 to R285, R290, R304, R306) and the reading of a HELD slot's consumer
word (R289, R290). -/

namespace Sys2Proof.Machine

/-! ### Accepted tokens (R281) -/

/-- Draft token `k` of the work list's item `n`: the package's draft buffer holds eight words for each item. -/
def State.draftToken (s : State) (t : GenStep) (n k : Nat) : Nat :=
  match s.stepPackage t with
  | some p => leNat (s.readCtx t.ctx (p.draftBase + 32 * n + 4 * k) 4)
  | none => 0

/-- The walk of R281 from row `k` on: the samples accepted, and whether it reached a row that yields no token. -/
def walkRows (sample : Nat → Option Sample) (draft : Nat → Nat) (depth : Nat) : Nat → Nat → List Sample × Bool
  | _, 0 => ([], false)
  | k, n + 1 =>
    match sample k with
    | none => ([], false)
    | some x =>
      match x.token with
      | none => ([], true)
      | some id =>
        if k < depth && draft k == id then
          let r := walkRows sample draft depth (k + 1) n
          (x :: r.1, r.2)
        else ([x], false)

/-- The accepted rows of a list item. -/
def State.walk (s : State) (t : GenStep) (n : Nat) (w : WorkItem) : List Sample × Bool :=
  let sample (k : Nat) : Option Sample := t.samples.find? fun x => x.slot == w.slot && x.row == k
  if w.decode then walkRows sample (s.draftToken t n) (w.rows - 1) 0 w.rows
  else if s.rowSampled w (w.rows - 1) then walkRows (fun _ => sample (w.rows - 1)) (fun _ => 0) 0 0 1
  else ([], false)

/-! ### Keys and values (R282, R304, R306) -/

/-- Write one committed position's token id into its page's token block, and set MIXED where the page's tag differs. -/
def State.commitPosition (s : State) (i : Nat) (tag : PageTag) (pos token : Nat) : State :=
  let e := s.slot i
  match e.list.bind fun m => tget ((s.pool e.ctx).list m) (pos / 64) with
  | none => s
  | some g =>
    let p := s.pool e.ctx
    let x := p.page g
    s.setPool e.ctx (p.setPage g { x with tokens := tset x.tokens (pos % 64) token, mixed := x.mixed || x.tag != tag })

/-- Write consecutive positions' token ids. -/
def State.commitPositions (s : State) (i : Nat) (tag : PageTag) : Nat → List Nat → State
  | _, [] => s
  | pos, tok :: rest => (s.commitPosition i tag pos tok).commitPositions i tag (pos + 1) rest

/-! ### Tokens (R273, R283) -/

/-- Append one token to slot `i`: its records, LENGTH and LAST_TOKEN, and the status that it ends the sequence with. -/
def State.appendToken (s : State) (i version : Nat) (x : Sample) (token : Nat) : State × Option Nat :=
  let e := s.slot i
  let s1 := s.recordToken i ⟨token, e.vchg, x.logp, x.entropy, version, e.length⟩
  let e1 := s1.slot i
  let s2 := s1.setSlot i { e1 with vchg := false, length := e.length + 1, lastToken := token }
  (s2, if (e.stops.take e.nstop).contains token then some stDoneStop
    else if e.length + 1 = e.promptLen + e.maxNew then some stDoneLength else none)

/-- Append the accepted tokens until one ends the sequence. -/
def State.appendTokens (s : State) (i version : Nat) : List Sample → State × Option Nat
  | [] => (s, none)
  | x :: rest =>
    match s.appendToken i version x (x.token.getD 0) with
    | (s1, some st) => (s1, some st)
    | (s1, none) => s1.appendTokens i version rest

/-- The reward of a scoring sequence, from its last prompt row's value (R285, R286). -/
def State.giveReward (s : State) (t : GenStep) (i row : Nat) : State :=
  let e := s.slot i
  match s.stepPackage t, e.scoreTarget.bind fun q => s.super e.ctx q with
  | some p, some x =>
    if x.rewardState = 0 then
      s.setSuper e.ctx { x with reward := BitVec.ofNat 32 (leNat (s.readCtx e.ctx (p.rewardBase + 4 * row) 4)), rewardState := 2 }
    else s
  | _, _ => s

/-! ### The commit of a slot -/

/-- The adapter version that a step ran a slot with. -/
def GenStep.adapterOf (t : GenStep) (e : Slot) : Nat :=
  if t.adapters.contains (e.adapter, e.adapterVer) then e.adapterVer
  else match t.adapters.find? fun a => a.1 == e.adapter with
    | some a => a.2
    | none => e.adapterVer

/-- The versions a slot runs under from this commit on (R273, R406). -/
def State.moveVersion (s : State) (i : Nat) (t : GenStep) : State :=
  let e := s.slot i
  if e.version = t.version ∧ e.adapterVer = t.adapterOf e then s
  else (s.setSlot i { e with version := t.version, adapterVer := t.adapterOf e, vchg := true }).syncSuper i

/-- How a slot stands after its commit: its status where it ends, else HELD or DECODE or PREFILL (R279, R283, R284, R290, R291). -/
def State.settleSlot (s : State) (i : Nat) (ended : Option Nat) (nonfinite : Bool) : State :=
  let e := s.slot i
  match ended with
  | some st => s.closeSlot i st
  | none =>
    if nonfinite then s.closeSlot i stNonfinite
    else if e.ringOff then s.closeSlot i stLinkDown
    else if e.cancel then s.closeSlot i stCancelled
    else if e.state = .decode ∧ e.mirror ∧ e.room < e.depth + 2 then s.setSlot i { e with state := .held, pollAt := s.now, polling := false }
    else s

/-- Commit one list item: positions, PREFILLED, tokens, state (R282 to R284, R306). A slot that a memory error ends commits nothing
(R227). -/
def State.commitItem (s : State) (t : GenStep) (n : Nat) (w : WorkItem) : State :=
  let i := w.slot
  if t.ending.any fun x => x.1 == i then s else
  let r := s.walk t n w
  let s00 := s.moveVersion i t
  let s0 := s00.setSlot i { s00.slot i with commitStamp := t.stamp }
  let e := s0.slot i
  let tag := e.tagOf t.version
  if w.decode then
    let a := s0.appendTokens i t.version r.1
    let taken := (a.1.slot i).length - e.length
    let inputs := (e.lastToken :: r.1.map fun x => x.token.getD 0).take taken
    (a.1.commitPositions i tag (e.length - 1) inputs).settleSlot i a.2 r.2
  else
    let s1 := s0.commitPositions i tag w.first ((e.prompt.drop w.first).take w.rows)
    let s2 := s1.setSlot i { s1.slot i with prefilled := w.first + w.rows }
    if w.first + w.rows < e.promptLen then s2.settleSlot i none false
    else if e.scoreTarget.isSome then (s2.giveReward t i (rowBase t.items i + w.rows - 1)).settleSlot i (some stDone) false
    else
      let a := (s2.setSlot i { s2.slot i with state := .decode }).appendTokens i t.version r.1
      a.1.settleSlot i a.2 r.2

/-- Commit the items of a list in order, counted from `n`. -/
def State.commitItems (s : State) (t : GenStep) : Nat → List WorkItem → State
  | _, [] => s
  | n, w :: rest => (s.commitItem t n w).commitItems t (n + 1) rest

/-- STEP_COMMIT: phases 5 and 6 of Table 7.4 with the results of the run taken; slots that a memory error ends close here too
(R276, R283, R517). -/
def execStepCommit (ctx : Nat) (s : State) : Host.Outcome State Fault Refusal :=
  .next (match s.genStep ctx with
  | none => s
  | some t =>
    if t.phase == .decided then
      let s1 := s.commitItems t 0 t.items
      (t.ending.foldl (fun u e => u.closeSlot e.1 e.2) s1).setStep { t with phase := .committed }
    else s)

/-! ### Consumer words (R289, R290) -/

/-- Take a consumer value read for slot `i` (R290). -/
def State.takeConsumer (s : State) (i c : Nat) : State :=
  let e := { s.slot i with polling := false }
  if e.state = .free then s
  else
    match e.rewind with
    | some 0 => s.setSlot i { e with rewind := some c }
    | _ =>
      if 256 < (e.ringProd + 2 ^ 32 - c) % 2 ^ 32 then (s.setSlot i e).report 0x0303 c i
      else
        let e1 := { e with ringCons := c }
        if e1.state = .held ∧ e1.depth + 2 ≤ e1.room then (s.setSlot i { e1 with state := .decode, waits := 0 }).endDamagedSlot i
        else s.setSlot i e1

/-- Post the RDMA READ of slot `i`'s consumer word. -/
def State.readConsumer (s : State) (i : Nat) : State :=
  let e := s.slot i
  match s.registration (e.ctx + 1) e.mirrorReg with
  | none => s
  | some r => (s.setSlot i { e with pollAt := s.now, polling := true }).postOp r.qpn
      (.read (r.addr + e.consOffset) r.rkey 4 (.consumer i))

/-- CONSUMER_POLL: every NEC_POLL ticks a HELD slot's consumer word is read (R290). -/
def execConsumerPoll (slot : Nat) (s : State) : Host.Outcome State Fault Refusal :=
  let e := s.slot slot
  .next (if e.state == .held && !e.polling && decide (e.pollAt + s.necPoll.toNat ≤ s.now) then s.readConsumer slot else s)

end Sys2Proof.Machine
end

