-- ==== Sys2Proof/Machine/Admin.lean ====
section
/-! DEFINITION. The admin commands of chapter 12 that set up the port, connections, mailboxes, registrations and contexts'
settings (R453 to R456, R484, R485), the identity report (R488) with its attestation (R582), and LOCK (R590). -/

namespace Sys2Proof.Machine

/-! ### The identity report (R488, Table 16 of chapter 12) -/

/-- STATE of the identity report. -/
def State.identityState (s : State) : Nat :=
  s.propolis.lifecycle % 4 + 4 * (s.propolis.level % 4) + 16 * (s.keeper.powerState % 4) + 64 * b2n s.guard.degraded +
    128 * b2n (s.keeper.mode == .running)

/-- The logical position within comb `k` that its spare serves, or 0xFF. -/
def State.spareFor (s : State) (k : Nat) : Nat :=
  match (List.range 16).find? fun j => s.positionCore (16 * k + j) == 17 * k + 16 with
  | some j => j
  | none => 0xFF

/-- A list of truth values as bytes, bit 0 of byte 0 first. -/
def packBits (n : Nat) (f : Nat → Bool) : List Byte :=
  (List.range n).map fun i => BitVec.ofNat 8 (((List.range 8).map fun k => b2n (f (8 * i + k)) * 2 ^ k).sum)

/-- VERSION of the ACTIVE image, 0 in boot-ROM mode (KPR_FW_VERSION). -/
def State.imageVersion (s : State) : Nat := if s.bootRom then 0 else (s.keeper.active.map fun i => i.version.toNat).getD 0

/-- The 256-byte identity report (Table 12.16). -/
def State.identityReport (s : State) : List Byte :=
  withCrc (leBytes 4 256 ++ leBytes 2 0x4101 ++ leBytes 2 (if s.bootRom then 0 else 0x0100) ++ leBytes 2 0x0100 ++
    leBytes 2 s.identityState ++ leBytes 2 s.coreCount ++ leBytes 2 (if s.memCtl.lpSlow then 8533 else 9600) ++
    leBytes 4 s.memCtl.sramWithdrawn.length ++ leBytes 4 s.memCtl.withdrawn ++ leBytes 4 s.memCtl.poolFree ++
    leBytes 6 s.port.mac.toNat ++ leBytes 2 (bits s.port.udpPort.toNat 15 0) ++ zeros 4 ++
    leBytes 8 s.imageVersion ++
    ((List.range 32).map fun k => BitVec.ofNat 8 (s.spareFor k)) ++ packBits 68 s.isRetired ++ zeros 104)

/-! ### Attestation (R582, Tables 15.3 and 15.4) -/

/-- A run of bytes brought to a length: cut, or filled with zeros. -/
def padTo (n : Nat) (b : List Byte) : List Byte := slice b 0 n

/-- A seed derived from the device secret: SHAKE256 over it, a label and further input (Table 15.2). -/
def derivedSeed (label : Nat) (further : List Byte) : List Byte :=
  shake256 (padTo 32 Config.deviceSecret ++ leBytes 1 label ++ further) 32

/-- Seed of the device identity key pair, DIK. -/
def dikSeed : List Byte := derivedSeed 0x02 []

/-- Seed of the alias key pair, AK, of an image's measurement. -/
def akSeed (measurement : BitVec 512) : List Byte := derivedSeed 0x03 (leBytes 64 measurement.toNat)

/-- DIK's public key. -/
def dikPublic : List Byte := padTo 1952 (Config.mldsaPublic dikSeed)

/-- DEVICE_ID: the first 16 bytes of SHAKE256 over DIK's public key (R576). -/
def deviceId : BitVec 128 := BitVec.ofNat 128 (leNat (shake256 dikPublic 16))

/-- PRP_CHALLENGE (R586). -/
def State.challenge (s : State) : Nat := s.propolis.starts % 2 ^ 32 + 2 ^ 32 * (s.ledger.powerCycles % 2 ^ 32)

/-- The device certificate without padding: the one stored at provisioning, else the unsigned one of BLANK. The places of the
fields within its header are not stated, so its bytes are free. -/
def State.deviceCertificate (s : State) : List Byte :=
  if s.propolis.certificate.isEmpty then
    padTo 64 (Config.freeBytes 1 (leBytes 16 deviceId.toNat)) ++ dikPublic ++ zeros 3309
  else padTo 5325 s.propolis.certificate

/-- SEC_VERSION of the ACTIVE image. -/
def State.secVersion (s : State) : Nat := (s.keeper.active.map fun i => i.secVersion.toNat).getD 0

/-- The alias certificate without padding: header and AK under DIK's signature. -/
def State.aliasCertificate (s : State) : List Byte :=
  let body := padTo 128 (Config.freeBytes 2 (leBytes 16 deviceId.toNat ++ leBytes 64 s.propolis.measure.toNat ++
    leBytes 4 s.secVersion ++ leBytes 8 s.imageVersion)) ++ padTo 1952 (Config.mldsaPublic (akSeed s.propolis.measure))
  body ++ padTo 3309 (Config.mldsaSign dikSeed body)

/-- The report body of Table 15.4. -/
def State.reportBody (s : State) (nonce : List Byte) : List Byte :=
  withCrc (leBytes 4 192 ++ leBytes 2 0x0100 ++ leBytes 2 s.identityState ++ leBytes 16 deviceId.toNat ++ padTo 32 nonce ++
    leBytes 64 s.propolis.measure.toNat ++ leBytes 4 s.secVersion ++ leBytes 4 s.propolis.floor.toNat ++ leBytes 8 s.challenge ++
    leBytes 8 s.imageVersion ++ leBytes 8 s.now ++
    leBytes 1 (s.propolis.lock.toNat + 8 * b2n s.propolis.partitioned + 16 * b2n s.propolis.testKey) ++ zeros 1 ++
    leBytes 2 s.coreCount ++ leBytes 4 (s.keeper.restarts % 2 ^ 32) ++ zeros 28)

/-- The bundle of Table 15.3. -/
def State.bundle (s : State) (nonce : List Byte) : List Byte :=
  let body := s.reportBody nonce
  padTo 5376 s.deviceCertificate ++ padTo 5440 s.aliasCertificate ++
    body ++ padTo 3309 (Config.mldsaSign (akSeed s.propolis.measure) body) ++ zeros 19

/-- Whether an IDENTIFY is an attestation (R582). -/
def State.attests (s : State) (mb : Nat) (m : List Byte) : Bool :=
  s.keeper.mode == .running && s.windowFit (domainOf mb) (windowAt m 32) true true attestLength

/-- An attesting IDENTIFY once its nonce has come. -/
def State.attestWith (s : State) (t : Ticket) (m nonce : List Byte) : State :=
  let w := windowAt m 32
  let s1 := s.writeWindow (domainOf t.mb) w s.identityReport
  (s1.writeWindow (domainOf t.mb) { w with offset := w.offset + 256 } (s.bundle nonce)).finish t stDone 0 0

/-- IDENTIFY: the identity report into the window, with the attestation bundle where R582 says so. In boot-ROM mode, where no
registration exists, the report goes to the mailbox's UDP source. -/
def State.takeIdentify (s : State) (m : List Byte) (t : Ticket) : State :=
  if s.bootRom then
    match (s.mailbox t.mb).udp with
    | some src => (s.transmit (.udp src s.identityReport)).finish t stDone 0 0
    | none => s.finish t stDone 0 0
  else if s.attests t.mb m then
    -- Table 15.11 permits no attestation in BLANK
    if s.propolis.lifecycle = 0 then s.finish t stNotPermitted 0 0
    else
      let w := windowAt m 32
      s.readWindow t m { w with offset := w.offset + 256, length := 32 }
  else if s.windowLive (domainOf t.mb) (windowAt m 32) then
    (s.writeWindow (domainOf t.mb) (windowAt m 32) s.identityReport).finish t stDone 0 0
  else s.finish t stLinkDown 0 0

/-- The command of code 0x0001, from a mailbox. -/
def execIdentify (mb : Nat) (s : State) : Host.Outcome State Fault Refusal := .next (s.serve mb 0x0001 State.takeIdentify)

/-! ### Port and connections (R453 to R456) -/

/-- NET_CONFIG: an address slot of the port is set, or cleared by a length of 0, once the completion is posted (R456). -/
def State.takeNetConfig (s : State) (m : List Byte) (t : Ticket) : State :=
  let s1 := s.finish t stDone 0 0
  let k := field m 32 1
  let n := field m 33 1
  let nets := if n = 0 then terase s1.port.nets k
    else tset s1.port.nets k ⟨n, BitVec.ofNat 16 (field m 34 2), field128 m 40⟩
  { s1 with port := { s1.port with nets := nets } }

/-- The command of code 0x0002, from a mailbox. -/
def execNetConfig (mb : Nat) (s : State) : Host.Outcome State Fault Refusal := .next (s.serve mb 0x0002 State.takeNetConfig)

/-- The connection a QP_CREATE describes. -/
def qpOf (m : List Byte) (rkey now : Nat) : Qp where
  mb := field m 32 2
  mtu := 1024 * 2 ^ field m 34 1
  ackT := bits (field m 35 1) 4 0
  retry := bits (field m 35 1) 7 5
  peerQpn := field m 36 4
  peerPsn := field m 40 4
  psn := field m 44 4
  peerIp := field128 m 48
  peerMac := BitVec.ofNat 48 (field m 64 6)
  vlan := BitVec.ofNat 16 (field m 70 2)
  dscp := field m 72 1
  rkey := rkey
  error := false
  unacked := []
  tries := 0
  rate := lineRate
  lastCnp := none
  calm := now
  queued := []

/-- QP_CREATE: a new connection with a free QPN and R_Key; 4,096 connections are the limit (Table 12.2). -/
def State.takeQpCreate (s : State) (m : List Byte) (t : Ticket) : State :=
  if 4096 ≤ s.port.qps.length then s.finish t stCapacity 0 0
  else
    let a := s.pickNumber (2 ^ 24) (s.port.qps.map Prod.fst)
    let b := a.2.fresh
    let rkey := b.1 % 2 ^ 32
    (b.2.setQp a.1 (qpOf m rkey s.now)).finish t stDone a.1 rkey

/-- The command of code 0x0003, from a mailbox. -/
def execQpCreate (mb : Nat) (s : State) : Host.Outcome State Fault Refusal := .next (s.serve mb 0x0003 State.takeQpCreate)

/-- The registration numbers that a waiting message names, by its command. -/
def messageRegs (m : List Byte) : List Nat :=
  match msgCommand m with
  | 0x0048 => [field m 40 4]
  | 0x0053 => [field m 40 4]
  | 0x0054 => [field m 40 4]
  | 0x0101 => [field m 136 4, field m 68 4]
  | _ => [field m 32 4]

/-- Whether a registration of a domain is named by a slot or an operation (R485). -/
def State.regNamed (s : State) (dom reg : Nat) : Bool :=
  (s.usedSlots.any fun i => let e := s.slot i; e.mirror && e.ctx + 1 == dom && e.mirrorReg == reg) ||
  (s.readings.any fun r => domainOf r.mb == dom && (messageRegs r.message).contains reg) ||
  s.guard.cap.any fun c => !c.toPeer && domainOf c.ticket.mb == dom && c.reg == reg

/-- Whether a connection is named by a binding, an operation or a registration (R485). -/
def State.qpNamed (s : State) (n : Nat) : Bool :=
  (s.mailboxes.any fun b => b.2.binding.any fun x => x.qpn == n) ||
  (s.regs.any fun d => d.2.any fun r => r.2.qpn == n) ||
  match s.qp n with
  | some q => !q.unacked.isEmpty || !q.queued.isEmpty
  | none => false

/-- Remove a connection. -/
def State.eraseQp (s : State) (n : Nat) : State := { s with port := { s.port with qps := terase s.port.qps n } }

/-- QP_DESTROY: the connection is removed unless something names it (R485). -/
def State.takeQpDestroy (s : State) (m : List Byte) (t : Ticket) : State :=
  let n := field m 32 4
  if (s.qp n).isNone then s.finish t stBad 0 0
  else if s.qpNamed n then s.finish t stNotPermitted 0 0
  else (s.eraseQp n).finish t stDone 0 0

/-- The command of code 0x0004, from a mailbox. -/
def execQpDestroy (mb : Nat) (s : State) : Host.Outcome State Fault Refusal := .next (s.serve mb 0x0004 State.takeQpDestroy)

/-! ### Mailboxes and registrations (R484, R485) -/

/-- A completion read back from a record that was numbered on the UDP carrier, to be numbered again (R470, R484). -/
def Completion.ofBytes (b : List Byte) : Completion where
  tag := BitVec.ofNat 64 (field b 0 8)
  item := BitVec.ofNat 64 (field b 8 8)
  value0 := BitVec.ofNat 64 (field b 16 8)
  value1 := BitVec.ofNat 64 (field b 24 8)
  status := field b 32 2
  kind := field b 34 1
  origin := bitAt (field b 35 1) 0
  final := bitAt (field b 35 1) 1
  command := field b 36 2
  ctx := field b 38 2
  stamp := field32 b 40
  fault := field32 b 44
  tick := field b 48 8

/-- A mailbox newly bound: counts 0, an empty ring, a stop ended; what was not delivered is pending again. -/
def Mailbox.rebind (b : Mailbox) (q : Binding) : Mailbox :=
  { b with
    ring := []
    arrivals := []
    prod := 0
    cons := 0
    cqCons := 0
    written := 0
    records := []
    pend := b.records.map Completion.ofBytes ++ b.pend
    binding := some q
    stopped := false
    closing := false }

/-- The binding an MBOX_BIND describes. -/
def bindingOf (m : List Byte) : Binding :=
  ⟨field m 36 4, field m 40 8, field m 48 4, field m 52 4, field m 56 8, field m 64 4⟩

/-- MBOX_BIND: the connection is checked, then the mailbox is bound (R484). -/
def State.takeMboxBind (s : State) (m : List Byte) (t : Ticket) : State :=
  let target := field m 32 2
  match s.qp (field m 36 4) with
  | none => s.finish t stBad 0 0
  | some q =>
    let b := s.mailbox target
    if q.mb ≠ target then s.finish t stBad 0 0
    else if q.error then s.finish t stNotPermitted 0 0
    else if !b.stopped && b.announced != 0 then s.finish t stNotPermitted 0 0
    else ((s.setMailbox target (b.rebind (bindingOf m))).flush target).finish t stDone 0 0

/-- The command of code 0x0005, from a mailbox. -/
def execMboxBind (mb : Nat) (s : State) : Host.Outcome State Fault Refusal := .next (s.serve mb 0x0005 State.takeMboxBind)

/-- MEM_REGISTER: a free registration number of the mailbox's domain (R485). -/
def State.takeMemRegister (s : State) (m : List Byte) (t : Ticket) : State :=
  let n := field m 32 4
  let dom := domainOf t.mb
  match s.qp n with
  | none => s.finish t stBad 0 0
  | some q =>
    if domainOf q.mb ≠ dom then s.finish t stBad 0 0
    else
      let mine := tgetD s.regs dom []
      if 4096 ≤ mine.length then s.finish t stCapacity 0 0
      else
        let a := s.pickNumber 4096 (mine.map Prod.fst)
        let r : Registration := ⟨n, bitAt (field m 36 1) 0, bitAt (field m 36 1) 1, field m 40 8, field m 48 4, field m 56 8⟩
        State.finish { a.2 with regs := tset a.2.regs dom (tset mine a.1 r) } t stDone a.1 0

/-- The command of code 0x0006, from a mailbox. -/
def execMemRegister (mb : Nat) (s : State) : Host.Outcome State Fault Refusal := .next (s.serve mb 0x0006 State.takeMemRegister)

/-- MEM_DEREGISTER: the registration is removed unless a slot or an operation names it (R485). -/
def State.takeMemDeregister (s : State) (m : List Byte) (t : Ticket) : State :=
  let k := field m 32 4
  let dom := domainOf t.mb
  if (s.registration dom k).isNone then s.finish t stBad 0 0
  else if s.regNamed dom k then s.finish t stNotPermitted 0 0
  else State.finish { s with regs := tset s.regs dom (terase (tgetD s.regs dom []) k) } t stDone 0 0

/-- The command of code 0x0007, from a mailbox. -/
def execMemDeregister (mb : Nat) (s : State) : Host.Outcome State Fault Refusal := .next (s.serve mb 0x0007 State.takeMemDeregister)

/-! ### Lock bits (R590 to R594) -/

/-- The comb masks of the enabled contexts. -/
def State.enabledMasks (s : State) : List Word :=
  (s.ctxs.map Prod.fst).filterMap fun c => let r := s.creg c; if bitAt r.cfg.toNat 16 then some r.combs else none

/-- Whether the masks of a list are pairwise disjoint. -/
def disjointMasks : List Word → Bool
  | [] => true
  | a :: rest => (rest.all fun b => !masksMeet a b) && disjointMasks rest

/-- Set lock bits: with CONTEXT_TABLE newly set, partitioned mode begins where the masks are disjoint (R590, R594). -/
def State.setLocks (s : State) (v : Nat) : State :=
  let lock := s.propolis.lock ||| BitVec.ofNat 3 v
  let begins := bitAt lock.toNat 1 && !bitAt s.propolis.lock.toNat 1 && disjointMasks s.enabledMasks
  { s with propolis := { s.propolis with lock := lock, partitioned := s.propolis.partitioned || begins } }

/-- LOCK (R590). -/
def State.takeLock (s : State) (m : List Byte) (t : Ticket) : State :=
  (s.setLocks (field m 32 1)).finish t stDone 0 0

/-- The command of code 0x0008, from a mailbox. -/
def execLock (mb : Nat) (s : State) : Host.Outcome State Fault Refusal := .next (s.serve mb 0x0008 State.takeLock)

/-! ### Context settings (R265) -/

/-- CTX_SET: the weight and LC_ALLOWED of a context, each where its flag asks. -/
def State.takeCtxSet (s : State) (m : List Byte) (t : Ticket) : State :=
  let c := msgContext m
  let r := s.creg c
  let f := field m 34 2
  let v1 := if bitAt f 1 then setBits r.cfg.toNat 15 0 (field m 32 2) else r.cfg.toNat
  let v2 := if bitAt f 2 then setBits v1 17 17 (b2n (bitAt f 0)) else v1
  (s.setCreg c { r with cfg := BitVec.ofNat 32 v2 }).finish t stDone 0 0

/-- The command of code 0x0012, from a mailbox. -/
def execCtxSet (mb : Nat) (s : State) : Host.Outcome State Fault Refusal := .next (s.serve mb 0x0012 State.takeCtxSet)

/-- SHARE_MODE: BRD_CTRL.SHARE (R265). -/
def State.takeShareMode (s : State) (m : List Byte) (t : Ticket) : State :=
  State.finish { s with brdCtrl := BitVec.ofNat 32 (setBits s.brdCtrl.toNat 1 1 (field m 32 1)) } t stDone 0 0

/-- The command of code 0x0013, from a mailbox. -/
def execShareMode (mb : Nat) (s : State) : Host.Outcome State Fault Refusal := .next (s.serve mb 0x0013 State.takeShareMode)

end Sys2Proof.Machine
end

