-- ==== Sys2Proof/Machine/Ether.lean ====
section
/-! DEFINITION. The Ethernet port's link (R451, R452, R454) and the answers it gives by itself: priority flow control, ARP,
Neighbor Discovery and echo (R451). -/

namespace Sys2Proof.Machine

/-! ### Link (R452) -/

/-- Set bits of ETH_FAULT. -/
def State.ethFault (s : State) (bit : Nat) : State := { s with port := { s.port with fault := setBit32 s.port.fault bit } }

/-- SPEED of ETH_CTRL. -/
def Port.speed (p : Port) : Nat := bits p.ctrl.toNat 2 1

/-- The link goes down: LINK_DOWN is set and ETH_DOWN entered; what flow control held is lost, and an enabled port trains. -/
def State.ethDown (s : State) : State :=
  let p := s.port
  let s1 := (s.report 0x0302 p.lanes.toNat noUnit).ethFault 1
  { s1 with port := { s1.port with
    up := false, lanes := 0, paused := 0, waiting := [], training := bitAt p.ctrl.toNat 0, trainAt := s.now } }

/-- Device address of ETH_CTRL. -/
def regEthCtrl : Nat := 0x816000000

/-- A write of ETH_CTRL: the port trains anew at the chosen speed; SPEED 3 is ignored and counted (R452, R493). -/
def State.writeEthCtrl (s : State) (v : Word) : State :=
  if bits v.toNat 2 1 = 3 then s.ignored regEthCtrl none
  else
    let s1 := if s.port.up then s.ethDown else s
    { s1 with port := { s1.port with ctrl := v &&& 7, slow := bits v.toNat 2 1 == 2, training := bitAt v.toNat 0, trainAt := s.now } }

/-- ETH_CTRL_WRITE. -/
def execEthCtrlWrite (v : Word) (s : State) : Host.Outcome State Fault Refusal := .next (s.writeEthCtrl v)

/-- ETH_LINK_WAIT_EXPIRY: a port at SPEED 0 that has trained at 1.6 Tb/s for ETH_LINK_WAIT ticks falls back to 800 Gb/s (R452). -/
def execEthLinkWaitExpiry (s : State) : Host.Outcome State Fault Refusal :=
  .next (if s.port.training && !s.port.up && s.port.speed == 0 && !s.port.slow &&
      decide (s.port.trainAt + s.port.linkWait.toNat ≤ s.now) then
    let s1 := s.ethFault 3
    { s1 with port := { s1.port with slow := true, trainAt := s.now } }
  else s)

/-- ETH_LINK_UP: training ends with the lanes that have lock. -/
def execEthLinkUp (lanes : BitVec 8) (s : State) : Host.Outcome State Fault Refusal :=
  .next (if s.port.training then
    { s with port := { s.port with up := true, training := false, lanes := lanes } }
  else s)

/-- ETH_LINK_DOWN: no connection ends by itself (R454). -/
def execEthLinkDown (s : State) : Host.Outcome State Fault Refusal := .next (if s.port.up then s.ethDown else s)

/-! ### Answers (R451) -/

/-- PFC_PAUSE_FRAME: for each priority the frame enables, a quanta of 0 resumes it and any other pauses it; only lossless
priorities are held. -/
def execPfcPauseFrame (enable : BitVec 8) (quanta : List Nat) (s : State) : Host.Outcome State Fault Refusal :=
  let paused := ((List.range 8).map fun k =>
    let now := bitAt s.port.paused.toNat k
    b2n (bitAt s.port.pfc.toNat k && if bitAt enable.toNat k then (quanta[k]?).getD 0 != 0 else now) * 2 ^ k).sum
  .next { s with port := ({ s.port with paused := BitVec.ofNat 8 paused } : Port).release }

/-- The link-local IPv6 address of a MAC address, as the 16 bytes of an ADDRESS field: fe80::/64 with the modified EUI-64. -/
def linkLocal (mac : BitVec 48) : BitVec 128 :=
  let m := leBytes 6 mac.toNat
  BitVec.ofNat 128 (leNat ([0xFE, 0x80] ++ zeros 6 ++ [(slice m 0 1).headD 0 ^^^ 2] ++ slice m 1 2 ++ [0xFF, 0xFE] ++ slice m 3 3))

/-- Whether an address is one of the port's: its link-local address, or a configured one (NET_CONFIG slots 0–3 hold IPv6
addresses and 4–7 IPv4 addresses). -/
def Port.owns (p : Port) (v6 : Bool) (a : BitVec 128) : Bool :=
  (v6 && a == linkLocal p.mac) || p.nets.any fun n => (decide (n.1 < 4) == v6) &&
    if v6 then n.2.addr == a else n.2.addr.toNat % 2 ^ 32 == a.toNat

/-- ARP_REQUEST: a request for one of the port's IPv4 addresses is answered. -/
def execArpRequest (target sender : BitVec 32) (senderMac : BitVec 48) (s : State) : Host.Outcome State Fault Refusal :=
  .next (if s.port.owns false (target.setWidth 128) then s.transmit (.arpReply target sender senderMac) else s)

/-- NEIGHBOR_SOLICITATION: a solicitation for one of the port's IPv6 addresses is answered. -/
def execNeighborSolicitation (target sender : BitVec 128) (s : State) : Host.Outcome State Fault Refusal :=
  .next (if s.port.owns true target then s.transmit (.neighborAdvert target sender) else s)

/-- ECHO_REQUEST: an echo request to one of the port's addresses is answered; to any other it is dropped as unmatched. -/
def execEchoRequest (dest source : BitVec 128) (v6 : Bool) (payload : List Byte) (s : State) :
    Host.Outcome State Fault Refusal :=
  .next (if s.port.owns v6 dest then s.transmit (.echoReply dest source v6 payload) else s.dropUnmatched)

end Sys2Proof.Machine
end

