-- ==== Sys2Proof/Machine/Links.lean ====
section
/-! DEFINITION. What arrives on the device links (R422 to R424, R434 to R436): XFER LINK_COPY, the checks of a packet, the hold area,
and the packets DATA, SIGNAL, DONE and LACK. -/

namespace Sys2Proof.Machine

/-! ### XFER LINK_COPY (R424) -/

/-- The pieces of a transfer, at most 8,192 bytes each, with their offsets. -/
def transferPieces (d : List Byte) (o : Nat) : Nat → List (Nat × List Byte)
  | 0 => []
  | n + 1 => if d.isEmpty then [] else (o, d.take 8192) :: transferPieces (d.drop 8192) (o + 8192) n

/-- LINK_COPY: LENGTH bytes to the target module in DATA packets, then a SIGNAL where REMOTE is set; the frame waits for the
DONE packet. A link that is down raises LINK_DOWN. -/
def State.linkCopyFrame (s : State) (p : Nat) (q : QFrame) : Except Nat (State × Started) :=
  let f := q.bytes
  let n := field f 32 4
  match s.frameRange p q 16 0 n 64 false with
  | .error b => .error b
  | .ok src =>
    let k := bits (field f 36 1) 1 0
    let dst := field f 37 1
    if !((s.link k).up && (s.link k).matched) then .error faultLink
    else
      let c := s.core p
      let ctx := (c.ctx).getD 0
      let stamp := c.stepSeq.toNat
      let flags := (if stamp % 2 = 0 then 1 else 2) + 8 * b2n (s.workLc ctx)
      let tag := s.cascade.nextTag
      let addr := (c.address q 24).2
      let data := src.flatMap fun d => s.read d.1 d.2
      let mk (ty a : Nat) (b : List Byte) : List Byte :=
        packet ty flags s.position dst s.cascade.epoch.toNat stamp ctx a tag 0 b
      let s1 := (transferPieces data 0 (n / 8192 + 1)).foldl (fun t x => t.originate [k] (mk 1 (addr + x.1) x.2)) s
      let r := field f 38 2
      let s2 := if bitAt r 15 then
          s1.originate [k] (mk 2 (bits r 8 0 + 2 ^ 16 * bits (field f 40 1) 4 0 + 2 ^ 24 * field f 41 1) [])
        else s1
      let s3 : State := { s2 with cascade := { s2.cascade with
        nextTag := (tag + 1) % 65536
        transfers := s2.cascade.transfers ++ [⟨tag, p, k⟩] } }
      .ok (s3, ⟨q, 0, none, some tag⟩)

/-- LINK_COPY (R161, R424). -/
def execLinkCopy (p : Nat) (m : MemOutcome) (s : State) : Host.Outcome State Fault Refusal :=
  .next (s.startHead p 2 2 m fun s q => s.linkCopyFrame p q)

/-! ### Receiving (R422, R434) -/

/-- Set a bit of DL_FAULT. -/
def State.dlFault (s : State) (bit : Nat) : State := { s with cascade := { s.cascade with fault := setBit32 s.cascade.fault bit } }

/-- Answer STALE (R434, Table 11.2). -/
def State.answerStale (s : State) (b : List Byte) : State :=
  (s.replyTo b 5 (s.cascade.group.toNat % 2 ^ 32 + 2 ^ 32 * s.cascade.epoch.toNat)).dlFault 2

/-- Whether a packet on link `k` is whole: its length is its UNITS', its CRC holds. -/
def pkWhole (b : List Byte) : Bool := b.length == 32 + 32 * pkUnits b && decide (pkUnits b ≤ 256) && crcOkAt b 28

/-- Forward a packet for another position (R426), or answer it with result 4 where its way is down (R424). A CONTROL packet takes the
first of its ways that is up (R427). -/
def State.forward (s : State) (k : Nat) (b : List Byte) : State :=
  match (if pkType b = 3 then (s.controlHops (pkDst b) k).find? fun j => (s.link j).up else s.hop (pkDst b) k) with
  | none => s
  | some j =>
    if (s.link j).up then
      let turned := s.topology == 2 && (decide (k < 2) != decide (j < 2))
      s.sendOn j (repacket b 0 (s.crosses j || (bitAt (pkFlags b) 2 && !turned)))
    else if pkType b = 1 || pkType b = 2 then s.answerDone b 4
    else s

/-- Packets of the hold area, in bytes (R436). -/
def State.holdBytes (s : State) : Nat := (s.cascade.held.map fun x => x.2.length).sum

/-- Whether a DATA or SIGNAL packet for the next stamp finds the hold area of 64 MiB full: its credit is held back (R436). -/
def State.holdsBack (s : State) (b : List Byte) : Bool :=
  pkDst b == s.position && pkEpoch b == s.cascade.epoch.toNat && pkStamp b != s.cascade.current.toNat &&
    pkStamp b == s.cascade.next.toNat && decide (0x4000000 < s.holdBytes + b.length)

/-- Receive a packet of a type on a link: whole and in order it is acknowledged with its credit and handled by `h`, forwarded,
or answered STALE; else a NAK asks for a replay (R422, R434). -/
def State.receive (s : State) (k : Nat) (b : List Byte) (ty : Nat) (h : State → State) : State :=
  let l := s.link k
  if !l.up || (ty != 6 && !l.matched) then s
  else if !pkWhole b || pkSeq b != l.expectSeq then s.sendLack k none true
  else if pkType b != ty then s
  else
    let kept := decide (ty ≤ 2) && s.holdsBack b
    let s1 := (s.setLink k { l with expectSeq := (l.expectSeq + 1) % 65536 }).sendLack k
      (if kept then none else some (pkBuffer b, pkCredit b)) false
    if ty = 6 then h s1
    else if s.cascade.state = .none then s1.answerStale b
    else if pkDst b != s.position then s1.forward k b
    else if decide (ty ≤ 3) && pkEpoch b != s.cascade.epoch.toNat then s1.answerStale b
    else h s1

/-- Deliver the bytes of a DATA packet to context memory (R222, R424). -/
def State.deliverData (s : State) (b : List Byte) : State :=
  let d := pkPayload b
  match s.writeRange (.ctx (pkCtx b)) (pkAddr b) d with
  | none => s.answerDone b 2
  | some s' =>
    if s.rangeHeld (.ctx (pkCtx b)) (pkAddr b) d.length then
      { s with guard := { s.guard with heldWrites := s.guard.heldWrites ++ [⟨pkCtx b, pkAddr b, d, some b, none⟩] } }
    else if Config.lastPacket b then s'.answerDone b 0 else s'

/-- Apply a SIGNAL packet to its core (R138, R435). -/
def State.deliverSignal (s : State) (b : List Byte) : State :=
  let a := pkAddr b
  match s.remoteSignal (bits a 8 0) (bits a 20 16) (bits a 31 24) (BitVec.ofNat 32 (pkStamp b)) with
  | some s' => s'.answerDone b 0
  | none => s.answerDone b 1

/-- Handle a DATA or SIGNAL packet by its STAMP (R435, R436). -/
def State.byStamp (s : State) (k : Nat) (b : List Byte) (deliver : State → State) : State :=
  if pkStamp b = s.cascade.current.toNat then deliver s
  else if pkStamp b = s.cascade.next.toNat then
    let s1 : State := { s with cascade := { s.cascade with held := s.cascade.held ++ [(k, b)] } }
    if 0x4000000 < s1.holdBytes then s1.dlFault 3 else s1
  else s.answerStale b

/-- The held packets beyond the 64 MiB of the hold area: those whose credit was held back. -/
def overflow : Nat → List (Nat × List Byte) → List (Nat × List Byte)
  | _, [] => []
  | n, x :: rest => if 0x4000000 < n + x.2.length then x :: overflow (n + x.2.length) rest else overflow (n + x.2.length) rest

/-- The packets held for the stamp that has become CURRENT, delivered in order. -/
def State.releaseHeld (s : State) : State :=
  let now := s.cascade.current.toNat
  let mine := s.cascade.held.filter fun x => pkStamp x.2 == now
  let s0 : State := { s with cascade := { s.cascade with held := s.cascade.held.filter fun x => pkStamp x.2 != now } }
  let s1 := (overflow 0 mine).foldl (fun t x => t.sendLack x.1 (some (pkBuffer x.2, pkCredit x.2)) false) s0
  mine.foldl (fun t x => if pkType x.2 = 1 then t.deliverData x.2 else t.deliverSignal x.2) s1

/-- Write CURRENT when a core step starts; NEXT equals it when no other is known (R438). The packets held for it are delivered once the
step's cores run (R435). -/
def State.startStamp (s : State) (stamp : Word) : State :=
  let next := if s.cascade.next = s.cascade.current then stamp else s.cascade.next
  { s with brdStarted := stamp, cascade := { s.cascade with current := stamp, next := next } }

/-- DATA: delivered, held, or answered STALE. -/
def execData (link : Nat) (packet : List Byte) (s : State) : Host.Outcome State Fault Refusal :=
  .next (s.receive link packet 1 fun s => s.byStamp link packet fun s => s.deliverData packet)

/-- SIGNAL: applied to a token counter, held, or answered. -/
def execSignal (link : Nat) (packet : List Byte) (s : State) : Host.Outcome State Fault Refusal :=
  .next (s.receive link packet 2 fun s => s.byStamp link packet fun s => s.deliverSignal packet)

/-! ### DONE and LACK -/

/-- The CORE_FAULT bit of a DONE result (Table 11.3). -/
def doneFault : Nat → Nat
  | 1 => faultRole
  | 2 => faultAddr
  | 3 => faultMem
  | _ => faultLink

/-- End the transfer of a TAG: its frame may complete, or raises a fault and is gone. -/
def State.endTransfer (s : State) (tag result : Nat) : State :=
  match s.cascade.transfers.find? fun x => x.tag == tag with
  | none => s
  | some x =>
    let s1 : State := { s with cascade := { s.cascade with transfers := s.cascade.transfers.filter fun y => y.tag != tag } }
    let c := s1.core x.core
    let mine := c.running 2
    if result = 0 then
      s1.setCore x.core { c with started := tset c.started 2 (mine.map fun y => if y.awaits == some tag then { y with awaits := none } else y) }
    else match mine.find? fun y => y.awaits == some tag with
      | none => s1
      | some y =>
        (s1.setCore x.core { c with started := tset c.started 2 (mine.filter fun z => z.awaits != some tag) }).raiseFault
          x.core false (doneFault result) y.frame.at'

/-- DONE: completes or faults the XFER frame of its tag (R424). -/
def execDone (link : Nat) (packet : List Byte) (s : State) : Host.Outcome State Fault Refusal :=
  .next (s.receive link packet 4 fun s => s.endTransfer (pkTag packet) (pkAddr packet % 65536))

/-- Credits returned by a LACK. -/
def addCredits (cs : List Nat) (addr : Nat) : List Nat :=
  (List.range 6).map fun i => min 128 ((cs[i]?).getD 0 + addr / 2 ^ (8 * i) % 256)

/-- Whether packet `b` comes at or before LSEQ `n`. -/
def seqDone (n : Nat) (b : List Byte) : Bool := decide ((n + 65536 - pkSeq b) % 65536 < 32768)

/-- LACK: acknowledges the packets up to its TAG and returns credit; with NAK every packet after it is replayed and the replays
counted (R422). The sixteenth replay is LINK_DOWN's (R445). -/
def execLack (link : Nat) (packet : List Byte) (s : State) : Host.Outcome State Fault Refusal :=
  let l := s.link link
  .next (if !l.up || !pkWhole packet || pkType packet != 7 then s
  else
    let left := l.unacked.filter fun b => !seqDone (pkTag packet) b
    let moved := decide (left.length < l.unacked.length)
    let nak := bitAt (pkAddr packet) 48
    let l1 := { l with
      unacked := left
      credits := addCredits l.credits (pkAddr packet)
      replays := (if moved then 0 else l.replays) + b2n nak
      retry := l.retry + if nak then left.length else 0 }
    let s1 := s.setLink link l1
    let s2 := if nak && !left.isEmpty then
        ({ s1 with dlSent := s1.dlSent ++ left.map fun b => (link, b) } : State).report 0x0301 left.length link
      else s1
    s2.pumpLink link l1.waiting.length)

end Sys2Proof.Machine
end

