-- ==== Sys2Proof/Machine/Flash.lean ====
section
/-! DEFINITION. The weight store (R241 to R252): manifests, extents, packs written, deleted and queried, patrol and relocation. -/

namespace Sys2Proof.Machine

/-! ### Manifests (R249, Tables 6.7 to 6.9) -/

/-- Bytes of an extent. -/
def extentBytes : Nat := 0x400000

/-- Extents of user capacity. -/
def extentCount : Nat := 1907348

/-- MIRRORED. -/
def mfMirrored (m : List Byte) : Bool := bitAt (field m 6 2) 0
/-- ADAPTER. -/
def mfAdapter (m : List Byte) : Bool := bitAt (field m 6 2) 1
/-- PACK_ID. -/
def mfPackId (m : List Byte) : Nat := field m 8 8
/-- PACKAGE_ID. -/
def mfPackageId (m : List Byte) : Nat := field m 16 8
/-- CONTRACT. -/
def mfContract (m : List Byte) : Nat := field m 24 2
/-- GROUP_SIZE. -/
def mfGroup (m : List Byte) : Nat := field m 26 1
/-- ADAPTER_RANK. -/
def mfRank (m : List Byte) : Nat := field m 28 2
/-- BASE_PACK_ID. -/
def mfBase (m : List Byte) : Nat := field m 32 8
/-- TENSORS. -/
def mfTensors (m : List Byte) : Nat := field m 40 4
/-- SHARDS. -/
def mfShards (m : List Byte) : Nat := field m 44 4
/-- EXTENTS. -/
def mfExtents (m : List Byte) : Nat := field m 48 4
/-- DATA_LENGTH. -/
def mfData (m : List Byte) : Nat := field m 52 8

/-- The scale entry at an offset (Table 6.8). -/
def scaleAt (m : List Byte) (o : Nat) : ScaleEntry := ⟨field m o 4, field m (o + 4) 1, signed 8 (field m (o + 5) 1)⟩

/-- The shard entry at an offset (Table 6.9). -/
def shardAt (m : List Byte) (o : Nat) : ShardPlace :=
  ⟨field m o 4, field m (o + 4) 4, field m (o + 8) 1, field m (o + 9) 1, field m (o + 10) 1, field m (o + 16) 8, field m (o + 12) 4,
    field m (o + 24) 8⟩

/-- The scale entries of a manifest. -/
def mfScales (m : List Byte) : List ScaleEntry := (List.range (mfTensors m)).map fun i => scaleAt m (64 + 8 * i)

/-- The shard entries of a manifest. -/
def mfPlaces (m : List Byte) : List ShardPlace := (List.range (mfShards m)).map fun i => shardAt m (64 + 8 * mfTensors m + 32 * i)

/-- Where the extent lists begin. -/
def mfListsAt (m : List Byte) : Nat := 64 + 8 * mfTensors m + 32 * mfShards m

/-- The manifest with its extent lists and CRC written (R242). -/
def mfWithLists (m : List Byte) (primary mirror : List Nat) : List Byte :=
  let b := m.take (mfListsAt m) ++ (primary ++ mirror).flatMap fun e => leBytes 4 e
  let c := zeroField b 60
  c.take 60 ++ leBytes 4 (crc32c c) ++ c.drop 64

/-! ### Extents -/

/-- The ONFI channel of an extent. -/
def channelOf (e : Nat) : Nat := e % 32

/-- The extents of a pack. -/
def Pack.extents (p : Pack) : List Nat := p.primary ++ p.mirror

/-- The extents in use, by packs, by writes in progress, and by relocations. -/
def Store.usedExtents (w : Store) : List Nat :=
  union (union (union [] (w.packs.flatMap fun p => p.2.extents)) (w.writing.flatMap fun x => x.pack.extents))
    (w.relocating.map Prod.snd)

/-- WST_FREE_EXTENTS. -/
def Store.freeExtents (w : Store) : Nat := extentCount - w.usedExtents.length

/-- The first extent from `e` on by steps of 32 that is not used. -/
def gapOnChannel (used : List Nat) (e : Nat) : Nat → Option Nat
  | 0 => none
  | n + 1 => if extentCount ≤ e then none else if used.contains e then gapOnChannel used (e + 32) n else some e

/-- Choose `n` extents, the lowest free ones, each with a mirror 16 channels above it where asked (R243). -/
def chooseExtents (mirrored : Bool) : List Nat → Nat → Option (List Nat × List Nat)
  | _, 0 => some ([], [])
  | used, n + 1 =>
    let e := firstGap 0 used
    if extentCount ≤ e then none
    else if !mirrored then
      (chooseExtents mirrored (ninsert used e) n).map fun r => (e :: r.1, r.2)
    else match gapOnChannel (ninsert used e) ((e + 16) % 32) (used.length + 2) with
      | none => none
      | some x => (chooseExtents mirrored (ninsert (ninsert used e) x) n).map fun r => (e :: r.1, x :: r.2)

/-- WEAR (R248, Table 6.11). -/
def Store.wear (w : Store) : Nat := if w.peBudget = 0 then 0 else min 1000 (1000 * w.peUsed / w.peBudget)

/-- Whether the store is read-only (R248). -/
def Store.readOnly (w : Store) : Bool := w.wear == 1000

/-- Count the program-erase cycles of writing extents (R247). -/
def Store.spend (w : Store) (n : Nat) : Store := { w with peUsed := w.peUsed + Config.eraseCount w.peUsed n }

/-! ### Writing, deleting, querying (R242 to R245) -/

/-- Whether a load reads a pack. -/
def State.packRead (s : State) (id : Nat) : Bool := s.turns.loads.any fun l => l.packId == id && !l.waitsSwitch

/-- Whether an accepted delete waits on a pack. -/
def State.packDeleting (s : State) (id : Nat) : Bool := (tget s.store.packs id).any fun p => !p.deleting.isEmpty

/-- Whether a write of a pack is in progress. -/
def State.packWriting (s : State) (id : Nat) : Bool := s.store.writing.any fun w => w.packId == id

/-- Whether the bytes of a PACK_WRITE's window make a pack that R242 accepts under `id`. -/
def packFits (d : List Byte) (id : Nat) : Bool :=
  decide (64 ≤ d.length) && decide (64 ≤ field d 0 4) && d.length == field d 0 4 + mfData d && mfPackId d == id &&
    mfExtents d == (mfData d + extentBytes - 1) / extentBytes && crcOkAt (d.take (field d 0 4)) 60 &&
    field d 0 4 == mfListsAt d + 4 * mfExtents d * (if mfMirrored d then 2 else 1)

/-- A PACK_WRITE whose window has been read (R242, R248): the pack's extents are chosen and programming begins. -/
def State.packWindow (s : State) (t : Ticket) (id : Nat) (d : List Byte) : State :=
  if !packFits d id then s.finish t stBad 0 0
  else if s.packWriting id || s.packRead id || s.packDeleting id || s.store.readOnly then s.finish t stNotPermitted 0 0
  else
    let m := d.take (field d 0 4)
    match chooseExtents (mfMirrored m) s.store.usedExtents (mfExtents m) with
    | none => s.finish t stCapacity 0 0
    | some (pri, mir) =>
      let stored := mfWithLists m pri mir
      let pack : Pack := ⟨stored, if mfMirrored m then stored else [], d.drop (field d 0 4), pri, mir, []⟩
      { s with store := { s.store with writing := s.store.writing ++ [⟨id, pack, t⟩] } }

/-- PACK_WRITE: the window is read (R242). -/
def State.takePackWrite (s : State) (m : List Byte) (t : Ticket) : State :=
  s.readWindow t m (windowAt m 32)

/-- The command of code 0x0030, from a mailbox. -/
def execPackWrite (mb : Nat) (s : State) : Host.Outcome State Fault Refusal := .next (s.serve mb 0x0030 State.takePackWrite)

/-- PACK_WRITE_COMPLETE: every extent is written, the manifest is entered in the directory, a replaced pack's extents are freed,
and DONE is posted. -/
def execPackWriteComplete (packId : Nat) (s : State) : Host.Outcome State Fault Refusal :=
  .next (match s.store.writing.find? fun w => w.packId == packId with
  | none => s
  | some w =>
    let st := s.store.spend w.pack.extents.length
    let s1 : State := { s with store := { st with
      packs := tset st.packs packId w.pack
      writing := st.writing.filter fun x => x.packId != packId
      reads := w.pack.extents.foldl terase st.reads } }
    s1.finish w.ticket stDone 0 0)

/-- Remove a pack and answer the deletes that waited on it. -/
def State.removePack (s : State) (id : Nat) : State :=
  match tget s.store.packs id with
  | none => s
  | some p =>
    let s1 : State := { s with store := { s.store with packs := terase s.store.packs id } }
    p.deleting.foldl (fun t k => t.finish k stDone 0 0) s1

/-- Take the deletes that waited for loads of a pack, once no load reads it (R245). -/
def State.settleDeletes (s : State) (id : Nat) : State :=
  if s.packDeleting id && !s.packRead id then s.removePack id else s

/-- PACK_DELETE (R245): at once, or when the last load that reads the pack ends. -/
def State.takePackDelete (s : State) (m : List Byte) (t : Ticket) : State :=
  let id := field m 32 8
  match tget s.store.packs id with
  | none => s.finish t stBad 0 0
  | some p =>
    State.settleDeletes { s with store := { s.store with
      packs := tset s.store.packs id { p with deleting := p.deleting ++ [t] } } } id

/-- The command of code 0x0031, from a mailbox. -/
def execPackDelete (mb : Nat) (s : State) : Host.Outcome State Fault Refusal := .next (s.serve mb 0x0031 State.takePackDelete)

/-- PACK_QUERY: DATA_LENGTH, and whether the pack is present and mirrored. -/
def State.takePackQuery (s : State) (m : List Byte) (t : Ticket) : State :=
  match tget s.store.packs (field m 32 8) with
  | none => s.finish t stDone 0 0
  | some p => s.finish t stDone (mfData p.manifest) (1 + 2 * b2n (mfMirrored p.manifest))

/-- The command of code 0x0032, from a mailbox. -/
def execPackQuery (mb : Nat) (s : State) : Host.Outcome State Fault Refusal := .next (s.serve mb 0x0032 State.takePackQuery)

/-! ### Patrol and relocation (R244, R246) -/

/-- Whether an extent holds part of a pack. -/
def Store.holds (w : Store) (e : Nat) : Bool := w.packs.any fun p => p.2.extents.contains e

/-- Begin a relocation of an extent to a free extent of its channel. -/
def State.relocate (s : State) (e : Nat) : State :=
  let w := s.store
  if !w.holds e || w.relocating.any fun r => r.1 == e then s
  else match gapOnChannel w.usedExtents (channelOf e) (w.usedExtents.length + 1) with
    | none => s
    | some x => { s with store := { w with relocating := w.relocating ++ [(e, x)] } }

/-- What a read of an extent, by patrol or by a load, counts and reports by codeword (Table 6.11), and the relocation it starts (R246):
of an extent with a codeword that needs soft decoding, and of one read 100,000 times since its last erase. -/
def State.extentRead (s : State) (e : Nat) (o : FlashRead) : State :=
  let n := tgetD s.store.reads e 0 + 1
  let s1 : State := { s with store := { s.store with
    reads := tset s.store.reads e n
    errCount := addHigh (addLow s.store.errCount o.soft) o.bad } }
  let s2 := (List.range o.soft).foldl (fun t _ => t.report 0x0120 1 (channelOf e)) s1
  let s3 := (List.range o.bad).foldl (fun t _ => t.report 0x0121 1 (channelOf e)) s2
  if decide (0 < o.soft) || decide (100000 ≤ n) then s3.relocate e else s3

/-- Whether an extent's patrol read is due: PERIOD operating hours after its last one (R246). -/
def State.patrolDue (s : State) (e : Nat) : Bool :=
  match tget s.store.patrolled e with
  | some t => decide (t + 3600 * bits s.store.patrolCfg.toNat 15 0 ≤ s.ledger.seconds)
  | none => true

/-- PATROL_READ: the patrol read of an extent that is due (R246). -/
def execPatrolRead (extent : Nat) (o : FlashRead) (s : State) : Host.Outcome State Fault Refusal :=
  .next (if s.store.ready && decide (extent < extentCount) && s.patrolDue extent then
    State.extentRead { s with store := { s.store with patrolled := tset s.store.patrolled extent s.ledger.seconds } } extent o
  else s)

/-- A pack with one extent replaced in its lists and in both copies of its manifest. -/
def Pack.moveExtent (p : Pack) (old new : Nat) : Pack :=
  let f (e : Nat) : Nat := if e = old then new else e
  let moved (m : List Byte) : List Byte := if m = [] then [] else mfWithLists m (p.primary.map f) (p.mirror.map f)
  { p with primary := p.primary.map f, mirror := p.mirror.map f,
           manifest := moved p.manifest, mirrorManifest := moved p.mirrorManifest }

/-- The copy of a pack's manifest that a load reads: the primary, or the mirror where the primary's CRC fails (R250). -/
def Pack.readManifest (p : Pack) : Option (List Byte) := [p.manifest, p.mirrorManifest].find? fun m => crcOkAt m 60

/-- The extents that one copy of a shard lies in (R249). -/
def Pack.shardExtents (p : Pack) (mirror : Bool) (x : ShardPlace) : List Nat :=
  let lo := x.offset / extentBytes
  ((if mirror then p.mirror else p.primary).drop lo).take ((x.offset + x.length - 1) / extentBytes + 1 - lo)

/-- RELOCATION_DONE: the directory names the copy, and the old extent is free (R246). -/
def execRelocationDone (extent : Nat) (s : State) : Host.Outcome State Fault Refusal :=
  .next (match s.store.relocating.find? fun r => r.1 == extent with
  | none => s
  | some r =>
    let w := s.store.spend 1
    ({ s with store := { w with
      packs := w.packs.map fun p => (p.1, p.2.moveExtent r.1 r.2)
      relocating := w.relocating.filter fun x => x.1 != extent
      reads := terase (terase w.reads r.1) r.2 } } : State).report 0x0122 1 (channelOf extent))

end Sys2Proof.Machine
end

