-- ==== Sys2Proof/Machine/Versions.lean ====
section
/-! DEFINITION. Weight and adapter versions (R375 to R391, R404 to R410): records and tags, where their shards lie, the shelf, the
switch, removal, and the commands that retire, grant, revoke and release. -/

namespace Sys2Proof.Machine

/-! ### Records -/

/-- Which records: a context's base versions, or those of an adapter index. -/
inductive Kin where
  | base
  | adapter (a : Nat)
  deriving DecidableEq, Repr

/-- A LOADING record. -/
def Version.loading (record tag package source : Nat) (fromPack askedShared : Bool) : Version where
  record := record
  tag := tag
  state := .loading
  shelved := false
  shared := false
  damaged := false
  fromPack := fromPack
  package := package
  source := source
  scales := []
  grans := []
  dispSram := 0
  dispLp := 0
  switchStamp := 0
  shards := []
  owner := none
  askedShared := askedShared

/-- The records of a kin of context `c`. -/
def State.versions (s : State) (c : Nat) : Kin → List Version
  | .base => match s.ctx c with
    | some x => x.versions
    | none => []
  | .adapter a => match tget s.adapters a with
    | some x => if x.ctx = c then x.versions else []
    | none => []

/-- Replace the records of a kin. -/
def State.setVersions (s : State) (c : Nat) (k : Kin) (vs : List Version) : State :=
  match k with
  | .base => match s.ctx c with
    | some x => s.setCtx c { x with versions := vs }
    | none => s
  | .adapter a => match tget s.adapters a with
    | some x => { s with adapters := tset s.adapters a { x with versions := vs } }
    | none => s

/-- The record of a tag. -/
def State.version (s : State) (c : Nat) (k : Kin) (tag : Nat) : Option Version := (s.versions c k).find? fun v => v.tag == tag

/-- Replace the record of its tag. -/
def State.putVersion (s : State) (c : Nat) (k : Kin) (v : Version) : State :=
  s.setVersions c k ((s.versions c k).map fun o => if o.tag == v.tag then v else o)

/-- Records that a kin has room for (R376, R405). -/
def Kin.room : Kin → Nat
  | .base => 16
  | .adapter _ => 4

/-- The FREE record that a new version takes: the lowest. -/
def State.freeVersionRecord (s : State) (c : Nat) (k : Kin) : Nat := (lowestFree k.room ((s.versions c k).map Version.record)).getD 0

/-- The CURRENT version of a package, or of an adapter index. -/
def State.currentOf (s : State) (c : Nat) (k : Kin) (package : Nat) : Option Version :=
  (s.versions c k).find? fun v => v.state == .current && (k != .base || v.package == package)

/-- The next tag after `last` that is not among `used` (R375). -/
def tagAfter (used : List Nat) : Nat → Nat → Nat
  | last, 0 => if last = 65535 then 1 else last + 1
  | last, n + 1 =>
    let t := if last = 65535 then 1 else last + 1
    if used.contains t then tagAfter used t n else t

/-- The tags that a new tag of a kin passes over. -/
def State.tagsHeld (s : State) (c : Nat) (k : Kin) : List Nat :=
  (s.versions c k).map Version.tag ++ ((s.ctxSlots c).map s.slot).filterMap fun e =>
    match k with
    | .base => some e.version
    | .adapter a => if e.adapter = a then some e.adapterVer else none

/-- Last tag given of a kin. -/
def State.lastTag (s : State) (c : Nat) : Kin → Nat
  | .base => match s.ctx c with
    | some x => x.lastTag
    | none => 0
  | .adapter a => match tget s.adapters a with
    | some x => x.lastTag
    | none => 0

/-- Give a new tag of a kin (R375). -/
def State.giveTag (s : State) (c : Nat) (k : Kin) : Nat × State :=
  let held := s.tagsHeld c k
  let t := tagAfter held (s.lastTag c k) held.length
  match k with
  | .base => match s.ctx c with
    | some x => (t, s.setCtx c { x with lastTag := t })
    | none => (t, s)
  | .adapter a => match tget s.adapters a with
    | some x => (t, { s with adapters := tset s.adapters a { x with lastTag := t } })
    | none => (t, s)

/-! ### Holds (R379, R405) -/

/-- Whether a slot is bound to a version. -/
def Slot.boundTo (e : Slot) (k : Kin) (tag : Nat) : Bool :=
  match k with
  | .base => e.version == tag
  | .adapter a => e.adapter == a && e.adapterVer == tag

/-- BINDS, which counts under DRAIN only. -/
def State.binds (s : State) (c : Nat) (k : Kin) (tag : Nat) : Nat :=
  if s.turns.continueMode then 0 else ((s.ctxSlots c).filter fun i => (s.slot i).boundTo k tag).length

/-- LEARN_REFS of a base version; STEPS of an adapter version. -/
def State.readers (s : State) (c : Nat) (k : Kin) (tag : Nat) : Nat :=
  match k with
  | .base => (s.learnSteps.filter fun t => t.ctx == c && t.plan.version == tag &&
      (t.state == .accepted || t.state == .running || t.state == .staged)).length
  | .adapter a => (s.steps.filter fun t => t.ctx == c && t.adapters.contains (a, tag)).length

/-- Whether a version is held. -/
def State.held (s : State) (c : Nat) (k : Kin) (tag : Nat) : Bool := s.binds c k tag != 0 || s.readers c k tag != 0

/-! ### Where shards lie (R252, R383 to R386) -/

/-- The context granules that some shards lie in, each once, rising. -/
def placeGranules (ps : List ShardPlace) : List Nat :=
  union [] (ps.flatMap fun p =>
    let u := if p.tier = 0 then 0x10000 else 0x200000
    let lo := p.dest / u
    let hi := (p.dest + p.length - 1) / u
    (List.range (hi + 1 - lo)).map fun k => (lo + k) * u)

/-- Whether a context granule holds a tier-2 shard. -/
def staged2 (ps : List ShardPlace) (a : Nat) : Bool :=
  ps.any fun p => p.tier == 2 && decide (p.dest < a + 0x200000) && decide (a < p.dest + p.length)

/-- Free SRAM granule for context `c` at a context address (R225; R595 in partitioned mode). -/
def State.freeSramFor (s : State) (c a : Nat) : Option Nat :=
  let m := s.memCtl
  let slice := a / 0x2000000
  if s.propolis.partitioned then
    let mask := (s.creg c).combs.toNat
    match (if bitAt mask (slice / 16) then m.freeInSlice slice else none) with
    | some g => some g
    | none => ((List.range 512).filter fun k => bitAt mask (k / 16)).findSome? m.freeInSlice
  else m.freeSram slice

/-- Take a granule for a context address. -/
def State.takeGranule (s : State) (c a : Nat) (staging : Bool) : Option (Nat × State) :=
  let m := s.memCtl
  if inSram a then
    (s.freeSramFor c a).map fun g => (g, { s with memCtl := { m with sramUsed := ninsert m.sramUsed g } })
  else
    (if staging then m.freeStaging else m.freeLp).map fun g => (g, { s with memCtl := { m with lpUsed := ninsert m.lpUsed g } })

/-- Take unmapped granules for context addresses; none where one is lacking. -/
def State.takeGranules (s : State) (c : Nat) (staging : Nat → Bool) : List Nat → Option (List (Nat × Nat) × State)
  | [] => some ([], s)
  | a :: rest =>
    match s.takeGranule c a (staging a) with
    | none => none
    | some (g, s1) =>
      match s1.takeGranules c staging rest with
      | none => none
      | some (gs, s2) => some ((a, g) :: gs, s2)

/-- Return an unmapped granule, zeroed (R223). -/
def State.dropGranule (s : State) (a g : Nat) : State := s.freeGranule (granuleAt a g)

/-- Return unmapped granules. -/
def State.dropGranules (s : State) (gs : List (Nat × Nat)) : State := gs.foldl (fun t x => t.dropGranule x.1 x.2) s

/-- Device address of a context address within unmapped granules. -/
def granDevice (gs : List (Nat × Nat)) (a : Nat) : Option Nat :=
  let u := if inSram a then 0x10000 else 0x200000
  match gs.find? fun x => x.1 == a / u * u with
  | some x => some (granuleAt a x.2 + a % u)
  | none => none

/-- Write bytes at a context address into unmapped granules (R386). -/
def State.writeGrans (s : State) (gs : List (Nat × Nat)) (a : Nat) (b : List Byte) : State :=
  (rangePieces a b.length).foldl (fun t p =>
    match granDevice gs p.1 with
    | some d => t.write d ((b.drop (p.1 - a)).take p.2)
    | none => t) s

/-- Map unmapped granules at their context addresses (R387). -/
def State.mapGrans (s : State) (c : Nat) (readonly : Nat → Bool) (gs : List (Nat × Nat)) : State :=
  gs.foldl (fun t x => t.mapGranule c x.1 x.2 (readonly x.1)) s

/-- First granule and one past the last of a version's tier-0 shards (`sram`) or of its others. -/
def spanOf (ps : List ShardPlace) (sram : Bool) : Nat × Nat :=
  let gs := placeGranules (ps.filter fun p => (p.tier == 0) == sram)
  match gs with
  | [] => (0, 0)
  | a :: _ => (a, (gs.getLast?.getD a) + if sram then 0x10000 else 0x200000)

/-- Shelf bytes of the tier-0 part. -/
def shelfSram (ps : List ShardPlace) : Nat := let w := spanOf ps true; ceil2M (w.2 - w.1)

/-- Shelf bytes that a version needs. -/
def shelfNeed (ps : List ShardPlace) : Nat := let w := spanOf ps false; shelfSram ps + (w.2 - w.1)

/-- Where a shelved version lies in the shelf. -/
def Version.shelfStart (v : Version) : Nat :=
  let a := spanOf v.shards true
  let b := spanOf v.shards false
  if a.1 < a.2 then (a.1 + v.dispSram) % 2 ^ 48 else (b.1 + v.dispLp) % 2 ^ 48

/-- The shelf ranges of context `c` in use: shelved versions, and rooms reserved by loads and turns (R385). -/
def State.shelfBusy (s : State) (c : Nat) : List (Nat × Nat) :=
  let mine (vs : List Version) : List (Nat × Nat) := (vs.filter Version.shelved).map fun v => (v.shelfStart, shelfNeed v.shards)
  mine (s.versions c .base) ++ (s.adapters.flatMap fun a => if a.2.ctx = c then mine a.2.versions else []) ++
    (s.turns.loads.filterMap fun l => if l.ticket.ctx = c then l.reserve else none) ++
    match s.turns.turn with
    | some t => if t.ticket.ctx = c then t.reserve.toList else []
    | none => []

/-- The lowest free range of the shelf that holds `need` bytes (R384). -/
def State.shelfRoom (s : State) (c need : Nat) : Option Nat :=
  match s.ctx c with
  | none => none
  | some x =>
    let busy := s.shelfBusy c
    let lo := ceil2M x.shelfBase
    let stop := x.shelfBase + x.shelfBytes
    let fits (p : Nat) : Bool := decide (lo ≤ p) && decide (p + need ≤ stop) &&
      busy.all fun r => decide (p + need ≤ r.1) || decide (r.1 + r.2 ≤ p)
    let cands := (lo :: busy.map fun r => ceil2M (r.1 + r.2)).filter fits
    match cands with
    | [] => none
    | a :: rest => some (rest.foldl min a)

/-! ### Shelving and restoring (R384, R385, R393, R401) -/

/-- Whether a context range lies over an uncorrectable word. -/
def State.rangeDamaged (s : State) (c a n : Nat) : Bool :=
  match s.resolveRange (.ctx c) a n false with
  | none => false
  | some ps => (s.damagedIn ps).isSome

/-- Copy a context range within a context. -/
def State.copyCtx (s : State) (c src dst n : Nat) : State := s.writeOwned c dst (s.readCtx c src n)

/-- Give a shelf address a fresh granule again, where one is free. -/
def State.refill (s : State) (c a : Nat) : State :=
  match s.takeGranule c a false with
  | some (g, s1) => s1.mapGranule c a g false
  | none => s

/-- Move the mapping at one context granule to another; the granule mapped there before is released. -/
def State.moveMapping (s : State) (c src dst : Nat) : State :=
  let e := s.xent c src
  let s1 := s.unmap c dst
  (s1.changeXent c dst e).changeXent c src ⟨0, false, false, 0⟩

/-- Shelve a version at a shelf address: tier-0 shards are copied and their SRAM released, the others remapped (R384). -/
def State.shelve (s : State) (c : Nat) (k : Kin) (v : Version) (at' : Nat) : State :=
  let lo0 := (spanOf v.shards true).1
  let lo1 := (spanOf v.shards false).1
  let t0 := v.shards.filter fun p => p.tier == 0
  let bad := t0.any fun p => s.rangeDamaged c p.dest p.length
  let s1 := t0.foldl (fun t p => t.copyCtx c p.dest (at' + (p.dest - lo0)) p.length) s
  let s2 := (placeGranules t0).foldl (fun t a => t.unmap c a) s1
  let at1 := at' + shelfSram v.shards
  let s3 := (placeGranules (v.shards.filter fun p => p.tier != 0)).foldl (fun t a => t.moveMapping c a (at1 + (a - lo1))) s2
  let s4 := s3.putVersion c k { v with
    shelved := true
    damaged := v.damaged || bad
    dispSram := (at' + 2 ^ 48 - lo0) % 2 ^ 48
    dispLp := (at1 + 2 ^ 48 - lo1) % 2 ^ 48 }
  if bad then { s4 with turns := { s4.turns with fault := setBit32 s4.turns.fault 1 } } else s4

/-- Empty the shelf range of a version: its tier-0 area is zeroed, and the others' addresses get granules again. -/
def State.clearShelf (s : State) (c : Nat) (v : Version) : State :=
  let n := shelfSram v.shards
  let s1 := if n = 0 then s else s.writeOwned c v.shelfStart (zeros n)
  (placeGranules (v.shards.filter fun p => p.tier != 0)).foldl (fun t a => t.refill c ((a + v.dispLp) % 2 ^ 48)) s1

/-- Restore a shelved version to its DEST addresses (R401): none where SRAM granules are lacking. -/
def State.restore (s : State) (c : Nat) (k : Kin) (v : Version) : Option State :=
  if !v.shelved then some s
  else
    let t0 := v.shards.filter fun p => p.tier == 0
    match s.takeGranules c (fun _ => false) (placeGranules t0) with
    | none => none
    | some (gs, s1) =>
      let s2 := s1.mapGrans c (fun _ => false) gs
      let s3 := t0.foldl (fun t p => t.copyCtx c ((p.dest + v.dispSram) % 2 ^ 48) p.dest p.length) s2
      let s4 := (placeGranules (v.shards.filter fun p => p.tier != 0)).foldl
        (fun t a => t.moveMapping c ((a + v.dispLp) % 2 ^ 48) a) s3
      some ((s4.clearShelf c v).putVersion c k { v with shelved := false, dispSram := 0, dispLp := 0 })

/-! ### Removal (R380, R407) -/

/-- Release every mapping of a version's shards, wherever they lie. -/
def State.releaseVersion (s : State) (c : Nat) (v : Version) : State :=
  if v.state = .loading then s.dropGranules v.grans
  else if v.shelved then
    let s1 := (placeGranules (v.shards.filter fun p => p.tier != 0)).foldl (fun t a => t.unmap c ((a + v.dispLp) % 2 ^ 48)) s
    s1.clearShelf c v
  else (placeGranules v.shards).foldl (fun t a => t.unmap c a) s

/-- Whether a page tag names a version (R329). -/
def PageTag.names (t : PageTag) (k : Kin) (v : Version) : Bool :=
  match k with
  | .base => t.package == v.package && t.version == v.tag
  | .adapter a => t.adapter == a && t.adapterVer == v.tag

/-- Set the READONLY bit of a version's mappings, tier-2 ones always READONLY. -/
def State.markReadonly (s : State) (c : Nat) (v : Version) (ro : Bool) : State :=
  (placeGranules v.shards).foldl (fun t a =>
    let e := t.xent c a
    if e.valid then t.changeXent c a { e with readonly := ro || staged2 v.shards a } else t) s

/-- Remove a version (R380, R407): its hash entries are emptied, its mappings released, its record FREE. With the last grant of
an owner's version gone, the owner's is SHARED no more (R410). -/
def State.removeVersion (s : State) (c : Nat) (k : Kin) (tag : Nat) : State :=
  match s.version c k tag with
  | none => s
  | some v =>
    let busy := s.stepRunning c
    let s1 := s.setPool c ((s.pool c).purge busy fun t => t.names k v)
    let s2 := s1.releaseVersion c v
    let s3 := s2.setVersions c k ((s2.versions c k).filter fun o => o.tag != tag)
    match v.owner with
    | none => s3
    | some (oc, ot) =>
      if s3.ctxs.any fun x => x.2.versions.any fun o => o.owner == some (oc, ot) then s3
      else match s3.version oc .base ot with
        | none => s3
        | some o => (s3.putVersion oc .base { o with shared := false }).markReadonly oc o false

/-- Remove every RETAINED version of a kin that nothing holds (R379, R407). -/
def State.sweepKin (s : State) (c : Nat) (k : Kin) : State :=
  ((s.versions c k).filter fun v => v.state == .retained).foldl (fun t v => if t.held c k v.tag then t else t.removeVersion c k v.tag) s

/-- Remove every RETAINED version of context `c` that nothing holds: at a step boundary of the context, or at once when no step
of it runs. -/
def State.sweepVersions (s : State) (c : Nat) : State :=
  if s.stepRunning c then s
  else (s.adapters.filter fun a => a.2.ctx == c).foldl (fun t a => t.sweepKin c (.adapter a.1)) (s.sweepKin c .base)

/-! ### The switch (R387, R405) -/

/-- Displace the CURRENT version: under DRAIN into the shelf and RETAINED, under CONTINUE removed. -/
def State.displace (s : State) (c : Nat) (k : Kin) (v : Version) (room : Option (Nat × Nat)) : State :=
  if s.turns.continueMode then s.removeVersion c k v.tag
  else
    let s1 := if v.shelved then s
      else match room with
        | some r => s.shelve c k v r.1
        | none => match s.shelfRoom c (shelfNeed v.shards) with
          | some p => s.shelve c k v p
          | none => s
    match s1.version c k v.tag with
    | some v1 => s1.putVersion c k { v1 with state := .retained }
    | none => s1

/-- Switch to the LOADING version of a tag, whose shards lie in unmapped granules (R387). -/
def State.switchTo (s : State) (c : Nat) (k : Kin) (tag package : Nat) (places : List ShardPlace) (scales : List ScaleEntry)
    (gs : List (Nat × Nat)) (room : Option (Nat × Nat)) : State :=
  let s1 := match s.currentOf c k package with
    | some v => s.displace c k v room
    | none => s
  let mine := places.filter fun p => p.position == s.position
  let s2 := s1.mapGrans c (staged2 mine) gs
  match s2.version c k tag with
  | none => s2
  | some v => (s2.putVersion c k { v with
      state := .current, scales := scales, shards := mine, switchStamp := s2.brdStarted, grans := [] }).sweepVersions c

/-! ### Slots that lose their version (R381, R410) -/

/-- End every slot bound to a version with FAILED_VERSION_GONE: one in a running step at its commit, another at once. -/
def State.goneSlots (s : State) (c : Nat) (k : Kin) (tag : Nat) : State :=
  let mine := (s.ctxSlots c).filter fun i => (s.slot i).boundTo k tag
  let now := mine.filter fun i => !s.inStep i
  let later := mine.filter s.inStep
  let s1 := s.endSlots now stVersionGone
  { s1 with steps := s1.steps.map fun t =>
    { t with ending := t.ending ++ (later.filter fun i => t.items.any fun w => w.slot == i).map fun i => (i, stVersionGone) } }

/-- VERSION_RETIRE (R381): a RETAINED version's slots end and it is removed. -/
def State.takeVersionRetire (s : State) (m : List Byte) (t : Ticket) : State :=
  let c := msgContext m
  let tag := field m 34 2
  let k : Kin := if field m 36 2 = 0xFFFF then .base else .adapter (field m 36 2)
  match s.version c k tag with
  | none => s.finish t stBad 0 0
  | some v =>
    if k == .base && v.package != field m 32 1 then s.finish t stBad 0 0
    else if v.state != .retained || (k == .base && s.readers c k tag != 0) then s.finish t stNotPermitted 0 0
    else
      let s1 := (s.goneSlots c k tag).tellAll kmOrder m
      (if s1.stepRunning c || s1.readers c k tag != 0 then s1 else s1.removeVersion c k tag).finish t stDone 0 0

/-- The command of code 0x0044, from a mailbox. -/
def execVersionRetire (mb : Nat) (s : State) : Host.Outcome State Fault Refusal := .next (s.serve mb 0x0044 State.takeVersionRetire)

/-! ### Grants (R409, R410) -/

/-- The package slot of a context that holds the generation package of an identifier. -/
def Ctx.packageSlot (x : Ctx) (id : Nat) : Option Nat :=
  (x.packages.find? fun p => p.2.package.packageId == id && p.2.package.kind == .generation).map Prod.fst

/-- Keep a command until the step boundary at which its contexts have stopped (R221). -/
def State.awaitBoundary (s : State) (t : Ticket) (m : List Byte) : State :=
  { s with turns := { s.turns with boundaryWaits := s.turns.boundaryWaits ++ [(t, m)] } }

/-- VERSION_GRANT (R409): a CURRENT base version loaded with SHARED requested is mapped read-only in the grantee too, once neither context
runs a step (R221). -/
def State.takeVersionGrant (s : State) (m : List Byte) (t : Ticket) : State :=
  let c := msgContext m
  let d := field m 36 2
  match s.ctx c, s.version c .base (field m 34 2), (s.ctx c).bind fun x => tget x.packages (field m 32 1) with
  | some _, some v, some l =>
    match s.ctx d with
    | none => s.finish t stNotPermitted 0 0
    | some y =>
      match y.packageSlot l.package.packageId with
      | none => s.finish t stNotPermitted 0 0
      | some k =>
        if v.state != .current || v.package != field m 32 1 || !v.askedShared || v.shelved || d == c ||
            (s.currentOf d .base k).isSome then s.finish t stNotPermitted 0 0
        else if 16 ≤ y.versions.length then s.finish t stCapacity 0 0
        else if s.stepRunning c || s.stepRunning d then s.awaitBoundary t m
        else
          let g := s.giveTag d .base
          let s1 := (g.2.putVersion c .base { v with shared := true }).markReadonly c v true
          let mine : Version := { v with
            record := s1.freeVersionRecord d .base, tag := g.1, package := k, shared := true, owner := some (c, v.tag), askedShared := false, switchStamp := s1.brdStarted }
          let s2 := s1.setVersions d .base (s1.versions d .base ++ [mine])
          let s3 := (placeGranules v.shards).foldl (fun t a => let e := t.xent c a; t.changeXent d a { e with wp := 0 }) s2
          ((s3.tellAll kmOrder m).bindWaiting d).finish t stDone g.1 0
  | _, _, _ => s.finish t stBad 0 0

/-- The command of code 0x0045, from a mailbox. -/
def execVersionGrant (mb : Nat) (s : State) : Host.Outcome State Fault Refusal := .next (s.serve mb 0x0045 State.takeVersionGrant)

/-- VERSION_REVOKE (R410): the grantee's slots end, and its record is removed once no step of it runs. -/
def State.takeVersionRevoke (s : State) (m : List Byte) (t : Ticket) : State :=
  let c := msgContext m
  let d := field m 36 2
  let tag := field m 34 2
  match s.version d .base tag with
  | none => s.finish t stBad 0 0
  | some v =>
    if !v.owner.any fun o => o.1 == c then s.finish t stBad 0 0
    else
      let s1 := (s.goneSlots d .base tag).tellAll kmOrder m
      (if s1.stepRunning d then s1.putVersion d .base { v with state := .retained } else s1.removeVersion d .base tag).finish t
        stDone 0 0

/-- The command of code 0x0046, from a mailbox. -/
def execVersionRevoke (mb : Nat) (s : State) : Host.Outcome State Fault Refusal := .next (s.serve mb 0x0046 State.takeVersionRevoke)

/-! ### Releasing an adapter index (R404) -/

/-- Whether a slot, a learning package or a load of the context names an adapter index. -/
def State.adapterNamed (s : State) (c a : Nat) : Bool :=
  ((s.ctxSlots c).any fun i => (s.slot i).adapter == a) ||
  (s.turns.loads.any fun l => l.adapter == some a) || (s.turns.turn.any fun t => t.kind == .adapter && t.adapter == a) ||
  match s.ctx c with
  | some x => x.packages.any fun p => p.2.package.adapter == some a
  | none => false

/-- ADAPTER_RELEASE: the index and its versions are released, once no step of the context runs (R221, R329). -/
def State.takeAdapterRelease (s : State) (m : List Byte) (t : Ticket) : State :=
  let c := msgContext m
  let a := field m 32 2
  match tget s.adapters a with
  | none => s.finish t stBad 0 0
  | some x =>
    if x.ctx ≠ c then s.finish t stBad 0 0
    else if s.adapterNamed c a then s.finish t stNotPermitted 0 0
    else if s.stepRunning c then s.awaitBoundary t m
    else
      let s1 := x.versions.foldl (fun u v => u.removeVersion c (.adapter a) v.tag) s
      (State.tellAll { s1 with adapters := terase s1.adapters a } kmOrder m).finish t stDone 0 0

/-- The command of code 0x0047, from a mailbox. -/
def execAdapterRelease (mb : Nat) (s : State) : Host.Outcome State Fault Refusal := .next (s.serve mb 0x0047 State.takeAdapterRelease)

/-- Try the commands that wait for a step boundary again, in order. -/
def State.retryWaits (s : State) : State :=
  s.turns.boundaryWaits.foldl (fun (u : State) w => if msgCommand w.2 = 0x0045 then u.takeVersionGrant w.2 w.1 else u.takeAdapterRelease w.2 w.1)
    { s with turns := { s.turns with boundaryWaits := [] } }

end Sys2Proof.Machine
end

