-- ==== Sys2Proof/Machine/Loads.lean ====
section
/-! DEFINITION. Loading weight packs (R411 to R415): the checks of LOAD, shard sources and fate records, host supply, and the
end of a load. -/

namespace Sys2Proof.Machine

/-! ### Checks (R250, R411, R482) -/

/-- Whether a contract version passes R41: major 1, minor not above 0. -/
def contractOk (v : Nat) : Bool := v == 0x0100

/-- Whether a context range lies wholly in the context's data range (R482). -/
def Ctx.inData (x : Ctx) (a n : Nat) : Bool := decide (lpBase ≤ a) && decide (a + n ≤ lpBase + x.dataBytes)

/-- Whether two ranges are apart. -/
def apart (a n b m : Nat) : Bool := decide (a + n ≤ b) || decide (b + m ≤ a)

/-- Whether the shards of one position overlap no other of it, in context addresses or in the stream. -/
def shardsApart : List ShardPlace → Bool
  | [] => true
  | p :: rest => (rest.all fun q => p.position != q.position ||
      (apart p.dest p.length q.dest q.length && apart p.offset p.length q.offset q.length)) && shardsApart rest

/-- Whether a shard entry lies where its tier says, outside the data range, and inside the stream. -/
def Ctx.shardOk (x : Ctx) (p : ShardPlace) (data : Nat) : Bool :=
  decide (p.tier ≤ 2) && decide (0 < p.length) && p.length % 128 == 0 && decide (p.offset + p.length ≤ data) &&
    (if p.tier = 0 then decide (p.dest + p.length ≤ sramEnd) else decide (lpBase ≤ p.dest) && decide (p.dest + p.length ≤ lpEnd)) &&
    apart p.dest p.length lpBase x.dataBytes

/-- Whether a manifest passes R250 for a group of `g` and a context. -/
def Ctx.manifestOk (x : Ctx) (m : List Byte) (g : Nat) : Bool :=
  let ps := mfPlaces m
  let ts := (mfScales m).map ScaleEntry.tensor
  field m 4 2 == 0x0100 && contractOk (mfContract m) && mfGroup m == g && (ps.all fun p => x.shardOk p (mfData m)) &&
    shardsApart ps && ps.all fun p => (ts.filter fun t => t == p.tensor).length == 1

/-! ### Progress and fate records (R412 to R414) -/

/-- A shard not yet tried. -/
def ShardProgress.fresh (p : ShardPlace) (first : Nat) : ShardProgress := ⟨p.shard, p.position, 0, 0, first, none⟩

/-- The source after source `c` of a load. -/
def nextSource (mirrored : Bool) (g : Nat) : Nat → Nat
  | 0 => if mirrored then 1 else if 1 < g then 2 else 3
  | 1 => if 1 < g then 2 else 3
  | 2 => 3
  | 4 => 5
  | _ => 6

/-- A shard's fate record (Table 10.11). -/
def fateBytes (p : ShardProgress) (source peer ticks : Nat) : List Byte :=
  leBytes 4 p.shard ++ leBytes 2 (p.status.getD 0) ++ leBytes 1 source ++ leBytes 1 p.tried.toNat ++ leBytes 1 p.corrupt.toNat ++
    leBytes 1 p.position ++ leBytes 1 peer ++ zeros 1 ++ leBytes 4 (hold32 ticks)

/-- Write a shard's fate record into the report region, a member by its queen, and count the shard (R414). -/
def State.writeFate (s : State) (c report : Nat) (p : ShardProgress) (source peer started : Nat) : State :=
  let fate := fateBytes p source peer (s.now - started)
  let s1 := if s.isQueen then s.writeCtx c (report + 16 * p.shard) fate else s.tell s.queenPos kmShard (leBytes 2 c ++ fate)
  if p.position = s.position then
    { s1 with turns := { s1.turns with
      shardCount := if p.status = some stDone then addLow s1.turns.shardCount 1 else addHigh s1.turns.shardCount 1 } }
  else s1

/-- The status of a shard that no source delivered (R413). -/
def failedStatus (p : ShardProgress) : Nat := if p.corrupt = 0 then stShardMissing else stShardCorrupt

/-- What one delivery makes of a shard: its progress, the source and peer of an ended shard, and whether a further source was
tried after one failed. -/
def ShardProgress.step (p : ShardProgress) (own mirrored : Bool) (g : Nat) : Delivery → ShardProgress × Nat × Nat × Bool
  | .delivered c peer =>
    ({ p with tried := p.tried ||| BitVec.ofNat 6 (2 ^ c), status := some stDone }, c, peer.getD 0xFF, p.tried != 0)
  | .corrupt c =>
    let q := { p with tried := p.tried ||| BitVec.ofNat 6 (2 ^ c), corrupt := p.corrupt ||| BitVec.ofNat 6 (2 ^ c) }
    let n := nextSource mirrored g c
    if own && (n == 1 || n == 2 || n == 3 || n == 5) then ({ q with next := n }, 0xFF, 0xFF, p.tried != 0)
    else ({ q with next := 6, status := some (failedStatus q) }, 0xFF, 0xFF, p.tried != 0)
  | .absent c =>
    let q := { p with tried := if c = 3 then p.tried ||| 8 else p.tried }
    let n := nextSource mirrored g c
    if own && (n == 1 || n == 2 || n == 3 || n == 5) then ({ q with next := n }, 0xFF, 0xFF, false)
    else ({ q with next := 6, status := some (failedStatus q) }, 0xFF, 0xFF, c == 3 && p.tried != 0)
  | .deviceLost => ({ p with status := some stDeviceLost }, 0xFF, 0xFF, false)
  | .roleStale => ({ p with status := some stRoleStale }, 0xFF, 0xFF, false)

/-- The source a delivery names. -/
def deliverySource : Delivery → Option Nat
  | .delivered c _ => some c
  | .corrupt c => some c
  | .absent c => some c
  | _ => none

/-- Whether a delivery can be the next event of a shard: for a shard of this module, of the source it tries now. -/
def ShardProgress.takes (p : ShardProgress) (own : Bool) (d : Delivery) : Bool :=
  p.status.isNone && match deliverySource d with
    | some c => !own || c == p.next
    | none => true

/-! ### Loads -/

/-- Replace a load, by its ticket. -/
def State.setLoad (s : State) (l : Loading) : State :=
  { s with turns := { s.turns with loads := s.turns.loads.map fun x => if x.ticket == l.ticket then l else x } }

/-- Remove a load. -/
def State.eraseLoad (s : State) (l : Loading) : State :=
  { s with turns := { s.turns with loads := s.turns.loads.filter fun x => x.ticket != l.ticket } }

/-- The kin whose records a load adds to. -/
def Loading.kin (l : Loading) : Kin :=
  match l.adapter with
  | some a => .adapter a
  | none => .base

/-- End the requests to host software for a pack's shard, or for all of its shards. -/
def State.endRequests (s : State) (id : Nat) (shard : Option Nat) : State :=
  { s with turns := { s.turns with requests := s.turns.requests.map fun r =>
    if r.packId == id && (shard.isNone || shard == some r.shard) then { r with ended := true } else r } }

/-- Post a shard request (R412, R490). -/
def State.askHost (s : State) (id shard : Nat) : State :=
  let n := s.turns.nextRequest
  let s1 : State := { s with turns := { s.turns with
    nextRequest := (n + 1) % 2 ^ 32
    requests := s.turns.requests ++ [⟨n, id, shard, s.now, false⟩] } }
  s1.eventAdmin 0x0004 id (shard + n * 2 ^ 32)

/-- Undo a load: its granules and record are released, an index it was the first to name is free again, waiting deletes of its
pack take effect, and its command ends (R415). -/
def State.failLoad (s : State) (l : Loading) (status : Nat) : State :=
  let c := l.ticket.ctx
  let left := l.shards.filter fun p => p.status.isNone
  let s1 := if status = stCancelled then
      left.foldl (fun t p => t.writeFate c l.report { p with status := some stCancelled } 0xFF 0xFF l.started) s
    else s
  let s2 := ((s1.eraseLoad l).dropGranules l.grans).endRequests l.packId none
  let s3 := if l.master then s2 else s2.setVersions c l.kin ((s2.versions c l.kin).filter fun v => v.tag != l.tag)
  let s4 : State := match l.adapter with
    | some a => if (s3.versions c l.kin).isEmpty && l.tag == 1 && (tget s3.adapters a).any (fun x => x.lastTag == 1) &&
        !(s3.ctxSlots c).any (fun i => (s3.slot i).adapter == a)
      then { s3 with adapters := terase s3.adapters a } else s3
    | none => s3
  ((s4.settleDeletes l.packId).tellEnd l.ticket status).finish l.ticket status 0 0

/-- Deliver a shard's bytes into the load's unmapped granules (R386). -/
def State.deliverShard (s : State) (gs : List (Nat × Nat)) (places : List ShardPlace) (shard : Nat) (b : List Byte) : State :=
  match places.find? fun p => p.shard == shard with
  | some p => if p.position = s.position then s.writeGrans gs p.dest (slice b 0 p.length) else s
  | none => s

/-- The bytes of a shard in a pack: as this module's store holds it, or, where it does not, free ones that another module brings. -/
def State.packShard (s : State) (id : Nat) (p : ShardPlace) : List Byte :=
  match tget s.store.packs id with
  | some k => slice k.data p.offset p.length
  | none => (List.range p.length).map fun i => Config.packByte id (p.offset + i)

/-- The source whose read of this module's store an event tells of. -/
def storeSource : Delivery → Option Nat
  | .delivered c _ => if c ≤ 1 then some c else none
  | .corrupt c => if c ≤ 1 then some c else none
  | _ => none

/-- What an event of a shard reads in this module's store: where its source is the primary or mirror copy here, the extents that the
shard lies in, each with its outcome (R246). -/
def State.storeReads (s : State) (id : Nat) (p : ShardPlace) (d : Delivery) (reads : List FlashRead) : State :=
  match storeSource d, tget s.store.packs id with
  | some c, some k => ((k.shardExtents (c == 1) p).zip reads).foldl (fun t r => t.extentRead r.1 r.2) s
  | _, _ => s

/-- What a delivery from this module's store is: an uncorrectable codeword in its reads fails the copy (R244). -/
def storeDelivery (d : Delivery) (reads : List FlashRead) : Delivery :=
  match d with
  | .delivered c peer => if decide (c ≤ 1) && reads.any fun r => decide (0 < r.bad) then .corrupt c else .delivered c peer
  | d => d

/-- One event of a load's shard, with the bytes that a delivery brings. -/
def State.loadShard (s : State) (l : Loading) (shard : Nat) (d : Delivery) (b : Option (List Byte)) : State :=
  match l.shards.find? fun p => p.shard == shard, l.places.find? fun p => p.shard == shard with
  | some p, some place =>
    let own := p.position == s.position
    if !p.takes own d then s
    else
      let r := p.step own l.mirrored s.groupSize d
      let l' := { l with shards := l.shards.map fun x => if x.shard == shard then r.1 else x }
      let s1 := s.setLoad l'
      let s2 := match d with
        | .delivered _ _ => s1.deliverShard l.grans l.places shard (b.getD (s1.packShard l.packId place))
        | _ => s1
      let s3 : State := if r.2.2.2 then { s2 with turns := { s2.turns with retryCount := addLow s2.turns.retryCount 1 } } else s2
      match r.1.status with
      | some _ => (if l.restore then s3 else s3.writeFate l.ticket.ctx l.report r.1 r.2.1 r.2.2.1 l.started).endRequests l.packId
          (some shard)
      | none => if r.1.next = 3 then s3.askHost l.packId shard else s3
  | _, _ => s

/-- A shard event of a load with the flash reads it rests on: the reads are counted, and one with an uncorrectable codeword makes the
copy a failed one. -/
def State.readShard (s : State) (l : Loading) (shard : Nat) (d : Delivery) (reads : List FlashRead) : State :=
  match l.shards.find? fun p => p.shard == shard, l.places.find? fun p => p.shard == shard with
  | some p, some place =>
    if p.position == s.position && p.takes true d then
      (s.storeReads l.packId place d reads).loadShard l shard (storeDelivery d reads) none
    else s.loadShard l shard d none
  | _, _ => s

/-- The load in progress of a pack that has a shard not ended. -/
def State.openLoad (s : State) (id : Nat) : Option Loading :=
  s.turns.loads.find? fun l => l.packId == id && !l.waitsSwitch && l.shards.any fun p => p.status.isNone

/-- HOST_WAIT_EXPIRY: an unanswered request makes the host source absent (R412, R490). -/
def execHostWaitExpiry (request : Nat) (s : State) : Host.Outcome State Fault Refusal :=
  .next (match s.turns.requests.find? fun r => r.request == request && !r.ended with
  | none => s
  | some r =>
    if r.asked + s.turns.hostWait.toNat ≤ s.now then
      match s.openLoad r.packId with
      | some l => (s.endRequests r.packId (some r.shard)).loadShard l r.shard (.absent 3) none
      | none => s.endRequests r.packId (some r.shard)
    else s)

/-! ### Host supply (R490) -/

/-- The TRANSFER record that answers a SHARD_SUPPLY. -/
def State.finishTransfer (s : State) (t : Ticket) (r : ShardRequest) (status : Nat) : State :=
  s.answer t ⟨4, r.request, r.packId, r.shard, status, false, true, 0, 0⟩

/-- The request a SHARD_SUPPLY names. -/
def State.request (s : State) (m : List Byte) : Option ShardRequest := s.turns.requests.find? fun r => r.request == field m 32 4

/-- Bytes of the shard a request asks for. -/
def State.requestLength (s : State) (r : ShardRequest) : Nat :=
  match (s.openLoad r.packId).bind fun l => l.places.find? fun p => p.shard == r.shard with
  | some p => p.length
  | none => 0

/-- SHARD_SUPPLY: a decline makes the source absent; else the window is read (R490). -/
def State.takeShardSupply (s : State) (m : List Byte) (t : Ticket) : State :=
  match s.request m with
  | none => s.reject t.mb m stBad
  | some r =>
    if r.ended then s.finishTransfer t r stDone
    else match s.openLoad r.packId with
      | none => s.finishTransfer t r stDone
      | some l =>
        if field m 36 4 = 1 then
          ((s.endRequests r.packId (some r.shard)).loadShard l r.shard (.absent 3) none).finishTransfer t r stDone
        else
          let w := windowAt m 40
          if w.length < s.requestLength r then s.reject t.mb m stBad
          else if s.windowLive (domainOf t.mb) w then s.readWindow t m { w with length := s.requestLength r }
          else s.finishTransfer t r stLinkDown

/-- The command of code 0x0048, from a mailbox. -/
def execShardSupply (mb : Nat) (s : State) : Host.Outcome State Fault Refusal := .next (s.serve mb 0x0048 State.takeShardSupply)

/-- A SHARD_SUPPLY whose window has been read, or could not be. -/
def State.supplyWindow (s : State) (t : Ticket) (m : List Byte) (data : Option (List Byte)) : State :=
  match s.request m with
  | none => s
  | some r =>
    if r.ended then s.finishTransfer t r stDone
    else match s.openLoad r.packId, data with
      | some l, some b => (s.loadShard l r.shard (.delivered 3 none) (some b)).finishTransfer t r stDone
      | some l, none => ((s.endRequests r.packId (some r.shard)).loadShard l r.shard (.absent 3) none).finishTransfer t r stLinkDown
      | none, _ => s.finishTransfer t r stDone

/-- A SHARD_SUPPLY whose bytes met an uncorrectable error: its TRANSFER ends FAILED_SHARD_CORRUPT. -/
def State.supplyCorrupt (s : State) (id shard : Nat) : State :=
  match s.turns.requests.find? fun r => r.packId == id && r.shard == shard && !r.ended with
  | none => s
  | some r =>
    match s.readings.find? fun x => msgCommand x.message == 0x0048 && field x.message 32 4 == r.request with
    | none => s
    | some x =>
      match s.endReading x.mb with
      | none => s
      | some (m, s1) => (s1.finishTransfer (ticketOf x.mb m) r stShardCorrupt).settle x.mb

/-! ### LOAD (R411) -/

/-- What a LOAD's manifest makes of it. -/
inductive LoadKind where
  | base | adapter | master
  deriving DecidableEq, Repr

/-- The package slot and kind of load that a manifest names in a context. -/
def Ctx.loadKind (x : Ctx) (m : List Byte) : Option (Nat × LoadKind) :=
  match x.packages.find? fun p => p.2.package.packageId == mfPackageId m with
  | none => none
  | some p =>
    match mfAdapter m, p.2.package.kind with
    | true, .generation => some (p.1, .adapter)
    | true, _ => none
    | false, .learning => some (p.1, .master)
    | false, _ => some (p.1, .base)

/-- Whether the group is fenced or not yet formed. -/
def State.halted (s : State) : Bool := s.cascade.state == .fenced || s.cascade.state == .forming

/-- Whether a learning step of context `c` has not ended. -/
def State.learningStep (s : State) (c : Nat) : Bool :=
  s.learnSteps.any fun t => t.ctx == c && t.state != .committed && t.state != .rolledBack

/-- Whether a capture of the group is accepted and not ended (R523). -/
def State.capturing (s : State) : Bool := s.guard.cap.any fun c => c.state == .capturing

/-- Whether a load is accepted in the present phase (Table 10.9, R410). -/
def State.loadPermitted (s : State) (c k : Nat) (kind : LoadKind) (adapter : Option Nat) : Bool :=
  let others (f : Loading → Bool) : Bool := s.turns.loads.any fun l => l.ticket.ctx == c && !l.waitsSwitch && f l
  s.turns.turn.isNone && !s.halted && !s.capturing && match kind with
    | .base => (s.generating || (s.currentOf c .base k).isNone) && !others (fun l => l.package == k && l.adapter.isNone) &&
        !(s.currentOf c .base k).any Version.shared
    | .adapter => !(adapter.isSome && others fun l => l.adapter == adapter)
    | .master => !s.learningStep c && !others fun l => l.package == k

/-- The adapter index a LOAD names, where the manifest is an adapter pack: an index of the context, or the lowest free one. -/
def State.loadIndex (s : State) (c : Nat) (m : List Byte) : Option Nat :=
  let a := field m 48 2
  if a = 0xFFFE then lowestFree 4096 (s.adapters.map Prod.fst)
  else match tget s.adapters a with
    | some x => if x.ctx = c then some a else none
    | none => none

/-- Whether the ADAPTER field and BASE_PACK_ID fit the manifest's kind. -/
def State.loadFieldsOk (s : State) (c k : Nat) (kind : LoadKind) (m mf : List Byte) : Bool :=
  let a := field m 48 2
  match kind with
  | .adapter => a != 0xFFFF && (a == 0xFFFE || (tget s.adapters a).any fun x => x.ctx == c) &&
      (mfBase mf == 0 || (s.currentOf c .base k).any fun v => v.source == mfBase mf)
  | _ => a == 0xFFFF

/-- The shelf room a load or turn must reserve for the version it will displace (R385): no need, a room, or none to be had. -/
def State.roomFor (s : State) (c : Nat) (k : Kin) (package : Nat) : Option (Option (Nat × Nat)) :=
  if s.turns.continueMode then some none
  else match s.currentOf c k package with
    | none => some none
    | some v =>
      if v.shelved then some none
      else match s.shelfRoom c (shelfNeed v.shards) with
        | some p => some (some (p, shelfNeed v.shards))
        | none => none

/-- An operation that lacks shelf room ends FAILED_CAPACITY (R385). -/
def State.shelfFull (s : State) : State := { s with turns := { s.turns with fault := setBit32 s.turns.fault 2 } }

/-- Accept a load that has passed its checks. -/
def State.acceptLoad (s : State) (t : Ticket) (m mf : List Byte) (c k : Nat) (kind : LoadKind) : State :=
  let id := field m 32 8
  let places := mfPlaces mf
  let mine := places.filter fun p => p.position == s.position
  match (if kind = .adapter then (s.loadIndex c m).map some else some none) with
  | none => s.finish t stCapacity 0 0
  | some ix =>
    let kin : Kin := match ix with
      | some a => .adapter a
      | none => .base
    let s1 : State := match ix with
      | some a => if (tget s.adapters a).isSome then s
          else { s with adapters := tset s.adapters a ⟨c, 0, mfRank mf, mfBase mf, []⟩ }
      | none => s
    if kind != .master && decide (kin.room ≤ (s1.versions c kin).length) then s.finish t stCapacity 0 0
    else match s1.takeGranules c (staged2 mine) (placeGranules mine) with
      | none => s.finish t stCapacity 0 0
      | some (gs, s2) =>
        match (if kind = .master then some none else s.roomFor c kin k) with
        | none => s.shelfFull.finish t stCapacity 0 0
        | some room =>
          let g := if kind = .master then (0, s2) else s2.giveTag c kin
          let shared := bitAt (field m 50 2) 0
          let s3 := if kind = .master then g.2
            else g.2.setVersions c kin (g.2.versions c kin ++ [Version.loading (s1.freeVersionRecord c kin) g.1 k id true (shared && kind == .base)])
          let load : Loading := ⟨t, id, k, kind == .master, ix, g.1, shared, field m 40 8, s.now,
            (if s.isQueen then places else mine).map fun p => .fresh p 0, places, mfScales mf, gs, room, false, mfMirrored mf, false⟩
          State.tellAll (State.wake { s3 with turns := { s3.turns with loads := s3.turns.loads ++ [load] } }) kmOrder (m ++ mf)

/-- The manifest that a LOAD works from (R411): of this module's store, its primary copy then its mirror; where the store does not hold the
pack, that of the lowest other position that holds it. -/
def State.loadManifest (s : State) (id : Nat) : Option (List Byte) :=
  match tget s.store.packs id with
  | some k => k.readManifest
  | none =>
    let b := Config.peerManifest id s.now
    if decide (1 < s.groupSize) && crcOkAt b 60 then some b else none

/-- LOAD: the checks of R411, R242, R245, R250 and Table 10.9, then acceptance. -/
def State.takeLoad (s : State) (m : List Byte) (t : Ticket) : State :=
  let c := msgContext m
  let id := field m 32 8
  if s.packWriting id || s.packDeleting id then s.finish t stNotPermitted 0 0
  else match s.ctx c, s.loadManifest id with
  | some x, some mf =>
    if !x.manifestOk mf s.groupSize || !x.inData (field m 40 8) (16 * mfShards mf) then s.finish t stBad 0 0
    else match x.loadKind mf with
      | none => s.finish t stBad 0 0
      | some (k, kind) =>
        if !s.loadFieldsOk c k kind m mf then s.finish t stBad 0 0
        else if !s.loadPermitted c k kind (if kind = .adapter then s.loadIndex c m else none) then s.finish t stNotPermitted 0 0
        else s.acceptLoad t m mf c k kind
  | _, _ => s.finish t stBad 0 0

/-- The command of code 0x0040, from a mailbox. -/
def execLoad (mb : Nat) (s : State) : Host.Outcome State Fault Refusal := .next (s.serve mb 0x0040 State.takeLoad)

/-! ### The end of a load (R415) -/

/-- The magnitude of an FP32 encoding where it is finite, else 0. -/
def finiteMag (w : Nat) : Nat := let m := w % 2 ^ 31; if m < 0x7F800000 then m else 0

/-- The largest finite magnitude of the FP32 words of a run of bytes. -/
def maxMag (b : List Byte) : Nat :=
  (List.range (b.length / 4)).foldl (fun a i => max a (finiteMag (field b (4 * i) 4))) 0

/-- Read a shard back from unmapped granules. -/
def State.readGrans (s : State) (gs : List (Nat × Nat)) (a n : Nat) : List Byte :=
  (rangePieces a n).flatMap fun p =>
    match granDevice gs p.1 with
    | some d => s.read d p.2
    | none => zeros p.2

/-- The values of R398 of a freshly loaded master pack by tensor: the largest over this module's shards, and over those of other members
a free value of at least that, since no command carries their values. -/
def State.masterMaxOf (s : State) (l : Loading) : Table Word :=
  let own := (l.places.filter fun p => p.position == s.position && p.format == 1).foldl (fun t p =>
    tset t p.tensor (BitVec.ofNat 32 (max (tgetD t p.tensor 0).toNat (maxMag (s.readGrans l.grans p.dest p.length))))) []
  (l.places.filter fun p => p.position != s.position && p.format == 1).foldl (fun t p =>
    tset t p.tensor (BitVec.ofNat 32 (max (tgetD t p.tensor 0).toNat (finiteMag (Config.freeValue (s.free + p.shard)))))) own

/-- A master load that is DONE replaces the learner state (Table 10.9): bank 0 holds the masters, CUR and the last committed step
are 0, the histories 0, what the pack does not hold +0. -/
def State.applyMaster (s : State) (l : Loading) : State :=
  let c := l.ticket.ctx
  let mm := s.masterMaxOf l
  let next := s.free + (l.places.map ShardPlace.shard).foldl max 0 + 1
  let package := ((s.ctx c).bind fun x => tget x.packages l.package).map Loaded.package
  let s0 := match package with
    | some p => (learnRegion p).foldl (fun (t : State) a =>
        if (l.grans.any fun g => g.1 == a) then t
        else
          let e := t.xent c a
          if e.valid then t.zero (e.device a) (e.device a + 0x200000) else t) s
    | none => s
  let mine := l.places.filter fun p => p.position == s.position
  let s1 : State := { (l.grans.foldl (fun t g => t.unmap c g.1) s0).mapGrans c (staged2 mine) l.grans with free := next }
  match s1.ctx c with
  | none => s1
  | some x => s1.setCtx c { x with learner := some ⟨l.package, false, 0, 0, false, [], mm, []⟩ }

/-- Switch in the loads of context `c` that wait for a boundary, in order (Table 10.9, R221); a master load waits for a learning step to
end. -/
def State.switchLoads (s : State) (c : Nat) : State :=
  if s.stepRunning c then s
  else
    let ready (l : Loading) : Bool := if l.master then !s.ctxRunning c && !s.learningStep c else s.generating
    let mine := s.turns.loads.filter fun l => l.ticket.ctx == c && l.waitsSwitch && ready l
    (mine.foldl (fun t l =>
      let u := t.eraseLoad l
      if l.master then u.applyMaster l else u.switchTo c l.kin l.tag l.package l.places l.scales l.grans l.reserve) s).bindWaiting c

/-- The first failed status in shard order. -/
def firstFailed (ps : List ShardProgress) : Option Nat := (ps.filterMap ShardProgress.status).find? fun st => st != stDone

/-- A load that is DONE takes effect at once or waits for its switch (R415, Table 10.9); while a step of its context runs, it waits for the
boundary (R221). -/
def State.doneLoad (s : State) (l : Loading) : State :=
  let s1 := (s.setLoad { l with waitsSwitch := true }).settleDeletes l.packId
  s1.switchLoads l.ticket.ctx

/-- The results of a load that is DONE: the version tag and the adapter index. -/
def Loading.results (l : Loading) : Nat × Nat := if l.master then (0, 0xFFFF) else (l.tag, l.adapter.getD 0xFFFF)

/-- Cancel a load (R415). -/
def State.cancelLoad (s : State) (c id : Nat) : Option State :=
  (s.turns.loads.find? fun l => l.ticket.ctx == c && l.packId == id && !l.waitsSwitch && !l.restore).map fun l => s.failLoad l stCancelled

end Sys2Proof.Machine
end

