-- ==== Sys2Proof/Machine/Turns.lean ====
section
/-! DEFINITION. The turns between generation and learning (R28, R390 to R403) and the switch mode (R390, R417): acceptance,
beginning, members' readiness, turn shards, the switch, and what undoes a turn. -/

namespace Sys2Proof.Machine

/-! ### Slots at a turn (Table 7.2) -/

/-- The package in a slot of context `c`. -/
def State.packageAt (s : State) (c k : Nat) : Option Package := ((s.ctx c).bind fun x => tget x.packages k).map Loaded.package

/-- A slot as a turn to learning leaves it. -/
def Slot.park (e : Slot) : Slot := if e.state = .prefill ∨ e.state = .decode ∨ e.state = .held then { e with state := .parked } else e

/-- A PARKED slot back in the generation phase: PREFILL or DECODE by PREFILLED, then the test for room. -/
def Slot.resume (e : Slot) (now : Nat) : Slot :=
  if e.state != .parked then e
  else if e.prefilled < e.promptLen then { e with state := .prefill }
  else if e.mirror && decide (e.room < e.depth + 2) then { e with state := .held, pollAt := now, polling := false }
  else { e with state := .decode }

/-- Park every slot. -/
def State.parkSlots (s : State) : State := { s with slots := s.slots.map fun e => (e.1, e.2.park) }

/-- The group is in the generation phase again: PARKED slots return, waiting loads switch in, unbound slots bind,
and slots bound to a DAMAGED version end as they become due (R394). -/
def State.reenter (s : State) : State :=
  let s1 : State := { s with
    turns := { s.turns with learning := none }
    slots := s.slots.map fun e => (e.1, e.2.resume s.now) }
  let s2 := (s1.ctxs.map Prod.fst).foldl State.switchLoads s1
  (s2.ctxs.map Prod.fst).foldl State.endDamaged s2

/-! ### The SRAM of a learning package -/

/-- Insert a version by package slot. -/
def insertByPackage (v : Version) : List Version → List Version
  | [] => [v]
  | w :: rest => if v.package < w.package then v :: w :: rest else w :: insertByPackage v rest

/-- The CURRENT base versions of a context in increasing package slot. -/
def State.currents (s : State) (c : Nat) : List Version :=
  ((s.versions c .base).filter fun v => v.state == .current).foldl (fun l v => insertByPackage v l) []

/-- Shelve CURRENT versions in turn until granules for `need` can be had (step 2 of Table 10.3): the tags shelved, and whether
the granules can be had. A SHARED version is never shelved (R410). -/
def State.makeRoom (s : State) (c : Nat) (need : List Nat) (done : List Nat) : List Version → State × List Nat × Bool
  | [] => (s, done, (s.takeGranules c (fun _ => false) need).isSome)
  | v :: rest =>
    if (s.takeGranules c (fun _ => false) need).isSome then (s, done, true)
    else if v.shelved then s.makeRoom c need done rest
    else if v.shared then (s, done, false)
    else match s.shelfRoom c (shelfNeed v.shards) with
      | none => (s.shelfFull, done, false)
      | some p => (s.shelve c .base v p).makeRoom c need (done ++ [v.tag]) rest

/-- Restore the versions of some tags. -/
def State.unshelve (s : State) (c : Nat) (tags : List Nat) : State :=
  tags.foldl (fun t tag => match t.version c .base tag with
    | some v => (t.restore c .base v).getD t
    | none => t) s

/-- Release the SRAM of the learning package in a slot: its areas and stash units (Table 10.6). -/
def State.dropLearnSram (s : State) (c k : Nat) : State :=
  match s.packageAt c k with
  | some p => (learnSram p ++ learnStash p true).foldl (fun t a => t.unmap c a) s
  | none => s

/-- Map the SRAM areas of the learning package in a slot (Table 10.3); its stash units are mapped at the start of a step (R352). -/
def State.mapLearnSram (s : State) (c k : Nat) : State :=
  match s.packageAt c k with
  | some p => match s.takeGranules c (fun _ => false) (learnSram p) with
    | some (gs, s1) => s1.mapGrans c (fun _ => false) gs
    | none => s
  | none => s

/-! ### Ending a turn -/

/-- Replace the turn. -/
def State.setTurn (s : State) (t : Turn) : State := { s with turns := { s.turns with turn := some t } }

/-- End the turn with a status and a result. -/
def State.endTurn (s : State) (t : Turn) (status v0 : Nat) : State :=
  ({ s with turns := { s.turns with
    turn := none
    lastTicks := if t.begun then s.now - t.started else s.turns.lastTicks } } : State).tellEnd t.ticket status |>.finish t.ticket status v0 0

/-- Undo a turn to learning and end it (R393): shelving undone, SRAM released, slots unparked, generation. -/
def State.undoLearn (s : State) (t : Turn) (status : Nat) : State :=
  let c := t.ticket.ctx
  if t.begun then (((s.dropLearnSram c t.package).unshelve c t.shelvedNow).reenter).endTurn t status 0
  else s.endTurn t status 0

/-- The kin of the version a turn to generation makes. -/
def Turn.kin (t : Turn) : Kin := if t.kind = .adapter then .adapter t.adapter else .base

/-- Undo a turn to generation and end it (R403): new granules released, the LOADING record freed, the learning regions mapped
again. -/
def State.undoGen (s : State) (t : Turn) (status : Nat) : State :=
  let c := t.ticket.ctx
  let s1 := s.dropGranules t.grans
  let s2 := if t.kind = .restore then s1
    else s1.setVersions c t.kin ((s1.versions c t.kin).filter fun v => !(v.tag == t.tag && v.state == .loading))
  let s3 := match t.begun, s.turns.learning with
    | true, some l => s2.mapLearnSram l.1 l.2
    | _, _ => s2
  let left := t.shards.filter fun p => p.status.isNone
  let s4 := if status = stCancelled then
      left.foldl (fun u p => u.writeFate c t.report { p with status := some stCancelled } 0xFF 0xFF t.started) s3
    else s3
  s4.endTurn t status 0

/-- Undo the turn by its own rule. -/
def State.undoTurn (s : State) (t : Turn) (status : Nat) : State :=
  if t.kind = .learn then s.undoLearn t status else s.undoGen t status

/-! ### Beginning a turn (R28, Tables 10.3 and 10.6) -/

/-- Begin a turn to learning: slots park, SRAM is made free and mapped; lacking SRAM or shelf room ends it (R393). -/
def State.beginLearn (s : State) (t : Turn) : State :=
  let c := t.ticket.ctx
  let need := match s.packageAt c t.package with
    | some p => learnSram p ++ learnStash p true
    | none => []
  let s1 : State := { s.parkSlots with turns := { s.turns with learning := some (c, t.package) } }
  let r := s1.makeRoom c need [] (s1.currents c)
  let t1 := { t with begun := true, started := s.now, shelvedNow := r.2.1 }
  if r.2.2 then
    let s2 := (r.1.mapLearnSram c t.package).setTurn t1
    if s.isQueen then s2 else s2.tell s2.queenPos kmTurnReady (leBytes 2 c)
  else r.1.undoLearn t1 stCapacity

/-- The master scale maxima and histories of the learner of context `c`. -/
def State.learnerOf (s : State) (c : Nat) : Learner :=
  (((s.ctx c).bind Ctx.learner)).getD ⟨0, false, 0, 0, false, [], [], []⟩

/-- A history of 16 slots; all 0 where none has been written (R92). -/
def Learner.history (l : Learner) (tensor : Nat) : List Word := tgetD l.histories tensor (List.replicate 16 0)

/-- One entry of a new version's scale table (R399). -/
def Learner.newScale (l : Learner) (learn : Package) (keepKv : Bool) (e : ScaleEntry) : ScaleEntry :=
  { e with j :=
    if !isShort e.format then 0
    else if learn.kvTensors.contains e.tensor && keepKv then e.j
    else if learn.tensors.any fun t => t.number == e.tensor then
      scaleFrom e.format (val32 (tgetD l.masterMax e.tensor 0).toNat) e.j
    else scaleFrom e.format (historyMax (l.history e.tensor)) e.j }

/-- The learning package and context of the phase. -/
def State.learnPhase (s : State) : Option (Nat × Package) :=
  match s.turns.learning with
  | some l => (s.packageAt l.1 l.2).map fun p => (l.1, p)
  | none => none

/-- The versions that a turn to generation restores (R401). -/
def State.restores (s : State) (t : Turn) : List Version :=
  (s.currents t.ticket.ctx).filter fun v => v.shelved && !(t.kind == .full && v.package == t.package)

/-- Whether the granules of a turn to generation can be had once the learning SRAM is released: the new shards' granules and the
state without them, where also the tier-0 shards to restore find room. -/
def State.turnGranules (s : State) (t : Turn) (places : List ShardPlace) : Option (List (Nat × Nat) × State) :=
  let c := t.ticket.ctx
  let s1 := match s.turns.learning with
    | some l => s.dropLearnSram l.1 l.2
    | none => s
  match s1.takeGranules c (staged2 places) (placeGranules places) with
  | none => none
  | some (gs, s2) =>
    let old := (s.restores t).flatMap fun v => placeGranules (v.shards.filter fun p => p.tier == 0)
    if (s2.takeGranules c (fun _ => false) old).isSome then some (gs, s2) else none

/-- A scale entry's bytes (Table 6.8). -/
def ScaleEntry.bytes (e : ScaleEntry) : List Byte :=
  leBytes 4 e.tensor ++ leBytes 1 e.format ++ [BitVec.ofInt 8 e.j] ++ zeros 2

/-- Begin a turn to generation: its scale table, which the queen forms and sends, and its granules (steps 1 and 2 of Table 10.6). One that
would restore a DAMAGED version ends (R394). -/
def State.beginGen (s : State) (t : Turn) : State :=
  let c := t.ticket.ctx
  if (s.restores t).any Version.damaged then s.undoGen t stMem
  else
    let mine := t.places.filter fun p => p.position == s.position
    match s.turnGranules t mine with
    | none => s.undoGen t stCapacity
    | some (gs, s1) =>
      let scales := if !s.isQueen then t.scales
        else match s.learnPhase, s.currentOf c t.kin t.package with
          | some l, some v => v.scales.map ((s.learnerOf l.1).newScale l.2 s.turns.continueMode)
          | _, _ => []
      let s2 := s1.setTurn { t with begun := true, started := s.now, grans := gs, scales := scales }
      if s.isQueen then s2.tellAll kmScales (leBytes 2 c ++ scales.flatMap ScaleEntry.bytes) else s2

/-- A member takes the scale table that the queen has formed for its turn to generation (R399, step 1 of Table 10.6). -/
def State.takeScales (s : State) (es : List ScaleEntry) : State :=
  match s.turns.turn with
  | some t => if t.kind = .learn then s else s.setTurn { t with scales := es }
  | none => s

/-- Change the switch mode (R390): under CONTINUE the RETAINED versions that only slots held are released. -/
def State.applyMode (s : State) (continue' : Bool) : State :=
  let s1 : State := { s with turns := { s.turns with continueMode := continue' } }
  (s1.ctxs.map Prod.fst).foldl State.sweepVersions s1

/-- What waits for a step boundary of the module: a change of switch mode, and, with no step running and no learning step
unended, an accepted turn (R28, R390). -/
def State.settleTurns (s : State) : State :=
  let s1 := match s.turns.modeWait with
    | some (m, t) => ({ s with turns := { s.turns with modeWait := none } } : State).applyMode m |>.finish t stDone 0 0
    | none => s
  match s1.turns.turn with
  | none => s1
  | some t =>
    if t.begun || !s1.steps.isEmpty || !s1.learnSteps.isEmpty || s1.halted then s1
    else if t.kind = .learn then s1.beginLearn t else s1.beginGen t

/-- Settle where no step of the module is running. -/
def State.settleIdle (s : State) : State := if s.steps.isEmpty then s.settleTurns else s

/-! ### Requests (R392, R395) -/

/-- A turn newly accepted. -/
def Turn.accepted (kind : TurnKind) (t : Ticket) (lc : Bool) (package adapter report : Nat) : Turn where
  kind := kind
  ticket := t
  lc := lc
  package := package
  adapter := adapter
  begun := false
  started := 0
  ready := []
  tag := 0
  shelvedNow := []
  report := report
  shards := []
  places := []
  moves := []
  scales := []
  grans := []
  reserve := none

/-- TURN_LEARN (R392). -/
def State.takeTurnLearn (s : State) (m : List Byte) (t : Ticket) : State :=
  let c := msgContext m
  let k := field m 32 1
  match s.packageAt c k with
  | none => s.finish t stBad 0 0
  | some p =>
    if p.kind != .learning then s.finish t stBad 0 0
    else if !s.generating || s.turns.turn.isSome || s.halted || s.capturing then s.finish t stNotPermitted 0 0
    else ((s.wake.setTurn (.accepted .learn t (msgLc m) k 0 0)).tellAll kmOrder m).settleIdle

/-- The command of code 0x0041, from a mailbox. -/
def execTurnLearn (mb : Nat) (s : State) : Host.Outcome State Fault Refusal := .next (s.serve mb 0x0041 State.takeTurnLearn)

/-- The move entry at an offset (Table 10.5). -/
def moveAt (m : List Byte) (o : Nat) : Move := ⟨field m o 4, field m (o + 4) 4, field m (o + 8) 8, field m (o + 16) 4, field m (o + 20) 4⟩

/-- The shard entries of a turn map (R396). -/
def mapPlaces (m : List Byte) : List ShardPlace := (List.range (field m 24 4)).map fun i => shardAt m (64 + 32 * i)

/-- The move entries of a turn map. -/
def mapMoves (m : List Byte) : List Move := (List.range (field m 28 4)).map fun i => moveAt m (64 + 32 * field m 24 4 + 24 * i)

/-- The bytes of the turn map that a TURN_GEN names, where it lies in the context's data range. -/
def State.turnMap (s : State) (c : Nat) (x : Ctx) (at' : Nat) : Option (List Byte) :=
  if x.inData at' 64 && x.inData at' (field (s.readCtx c at' 4) 0 4) then
    some (s.readCtx c at' (field (s.readCtx c at' 4) 0 4))
  else none

/-- Whether the shards of a map lie where their tiers say, outside the data range, apart. -/
def Ctx.mapShardsOk (x : Ctx) (ps : List ShardPlace) : Bool :=
  (ps.all fun p => x.shardOk { p with offset := 0 } p.length) && shardsApart (ps.map fun p => { p with offset := p.dest })

/-- Check 1 of R395 on a FULL or ADAPTER request: the map it passes with. -/
def State.turnMapOk (s : State) (c : Nat) (x : Ctx) (m : List Byte) : Option (List Byte) :=
  let kind := field m 32 1
  let k := field m 33 1
  match s.turnMap c x (field m 40 8), s.learnPhase, s.packageAt c k with
  | some b, some l, some p =>
    if crcOkAt b 60 && field b 4 2 == 0x0100 && field b 6 1 == kind && field b 7 1 == s.groupSize &&
        field b 8 8 == p.packageId && field b 16 8 == l.2.packageId && decide (64 ≤ b.length) &&
        b.length == 64 + 32 * field b 24 4 + 24 * field b 28 4 && x.mapShardsOk (mapPlaces b) &&
        x.inData (field m 48 8) (16 * field b 24 4) && (s.currentOf c .base k).isSome &&
        (kind == 0 || (tget s.adapters (field m 34 2)).any fun a => a.ctx == c)
    then some b else none
  | _, _, _ => none

/-- Check 2 of R395. -/
def State.turnBusy (s : State) (c k : Nat) (kin : Kin) : Bool :=
  (s.currentOf c .base k).any Version.shared ||
    (s.turns.loads.any fun l => l.ticket.ctx == c && !l.waitsSwitch && l.kin == kin && (kin != .base || l.package == k))

/-- Accept a FULL or ADAPTER turn that has passed checks 1 and 2, and give it to the members, or end it for lack of a record, granules or
shelf room. `m` is its message and `b` its map. -/
def State.acceptTurn (s : State) (t : Turn) (m b : List Byte) : State :=
  let c := t.ticket.ctx
  let t1 := { t with
    places := mapPlaces b
    moves := mapMoves b
    shards := ((mapPlaces b).filter fun p => s.isQueen || p.position == s.position).map fun p => ShardProgress.fresh p 4 }
  let mine := t1.places.filter fun p => p.position == s.position
  if t.kin.room ≤ (s.versions c t.kin).length || (s.turnGranules t1 mine).isNone then s.finish t.ticket stCapacity 0 0
  else match s.roomFor c t.kin t.package with
    | none => s.shelfFull.finish t.ticket stCapacity 0 0
    | some room =>
      let g := s.giveTag c t.kin
      let step := match s.learnPhase with
        | some l => (s.learnerOf l.1).lastStep
        | none => 0
      let s1 := g.2.setVersions c t.kin (g.2.versions c t.kin ++ [Version.loading (s.freeVersionRecord c t.kin) g.1 t.package step false false])
      (s1.wake.setTurn { t1 with tag := g.1, reserve := room }).tellAll kmOrder (m ++ b)

/-- TURN_GEN (R395). -/
def State.takeTurnGen (s : State) (m : List Byte) (t : Ticket) : State :=
  let c := msgContext m
  let k := field m 33 1
  if s.generating || s.turns.turn.isSome || s.halted || s.capturing then s.finish t stNotPermitted 0 0
  else if field m 32 1 = 2 then
    ((s.wake.setTurn (.accepted .restore t (msgLc m) k 0 (field m 48 8))).tellAll kmOrder m).settleIdle
  else
    let turn := Turn.accepted (if field m 32 1 = 0 then .full else .adapter) t (msgLc m) k (field m 34 2) (field m 48 8)
    match s.ctx c with
    | none => s.finish t stBad 0 0
    | some x =>
      match s.turnMapOk c x m with
      | none => s.finish t stBad 0 0
      | some b =>
        if s.turnBusy c k turn.kin then s.finish t stNotPermitted 0 0
        else (s.acceptTurn turn m b).settleIdle

/-- The command of code 0x0042, from a mailbox. -/
def execTurnGen (mb : Nat) (s : State) : Host.Outcome State Fault Refusal := .next (s.serve mb 0x0042 State.takeTurnGen)

/-! ### Course of a turn to learning -/

/-- A turn to learning ends DONE. -/
def State.doneLearn (s : State) (t : Turn) : State :=
  ({ s with turns := { s.turns with turnCount := addLow s.turns.turnCount 1 } } : State).endTurn t stDone 0

/-- TURN_MEMBER_READY: a module of the group, this one included, has its SRAM mapped; with every module ready the turn ends
DONE (step 4 of Table 10.3). -/
def execTurnMemberReady (pos : Nat) (s : State) : Host.Outcome State Fault Refusal :=
  .next (match s.turns.turn with
  | none => s
  | some t =>
    if t.kind != .learn || !t.begun || !s.isQueen || decide (s.groupSize ≤ pos) then s
    else
      let t1 := { t with ready := ninsert t.ready pos }
      if t1.ready.length < s.groupSize then s.setTurn t1
      else s.doneLearn t1)

/-! ### Turn shards (R397, R400, R402) -/

/-- The bytes of element codes in a format: two FP4 codes to a byte. -/
def packCodes (fmt : Nat) (cs : List Nat) : List Byte :=
  if fmt = 6 then (List.range (cs.length / 2)).map fun i =>
    BitVec.ofNat 8 ((cs[2 * i]?).getD 0 % 16 + 16 * ((cs[2 * i + 1]?).getD 0 % 16))
  else cs.flatMap fun x => leBytes (widthOf fmt / 8) x

/-- The FP32 masters of a run of 4,096 elements in bank CUR (R400). -/
def State.runMasters (s : State) (c : Nat) (p : Package) (t : Tensor) (elem : Nat) : List Val :=
  (List.range 4096).map fun i =>
    val32 (leNat (s.readCtx c (p.masterAt (s.learnerOf c).cur t (elem + i)) 4))

/-- A run's element codes and, in FP4, its 128 block exponents. -/
def convertRun (fmt : Nat) (j : Int) (vals : List Val) : List Nat × List Nat :=
  let rows := (List.range 32).map fun k => convertOnce fmt ((vals.drop (128 * k)).take 128) j 128
  (rows.flatMap RowOut.codes, rows.flatMap RowOut.blocks)

/-- Write one converted run at a shard offset (R397, R141): its bytes, and its FP4 exponents in the exponent area of its tile. -/
def State.writeRun (s : State) (gs : List (Nat × Nat)) (p : ShardPlace) (off : Nat) (r : List Nat × List Nat) : State :=
  let s1 := s.writeGrans gs (p.dest + off) (packCodes p.format r.1)
  if p.format = 6 then
    let tile := off / 8832 * 8832
    let si := off % 8832 / 2048
    (List.range 128).foldl (fun (t : State) b =>
      -- block `b` of the run: row `b` mod 32 of the band, sub-block column `b` / 32
      t.writeGrans gs (p.dest + tile + 8192 + 4 * (32 * si + b % 32) + b / 32) (leBytes 1 ((r.2[b]?).getD 0))) s1
  else s1

/-- Write the runs of a move that this module owns (R335, R400). -/
def State.writeMove (s : State) (gs : List (Nat × Nat)) (p : ShardPlace) (j : Int) (lc : Nat) (lp : Package) (m : Move) : State :=
  match lp.tensor m.tensor with
  | none => s
  | some x => (List.range m.runs).foldl (fun (t : State) k =>
      let e := m.elem + 4096 * k
      if (lp.owned s.groupSize x e).map Prod.fst = some s.position then
        t.writeRun gs p (m.dst + k * (4096 * widthOf p.format / 8)) (convertRun p.format j (t.runMasters lc lp x e))
      else t) s

/-- Write the runs of a shard of this module that this module owns. -/
def State.writeTurnShard (s : State) (t : Turn) (p : ShardPlace) : State :=
  match s.learnPhase with
  | none => s
  | some l =>
    let j := ((t.scales.find? fun e => e.tensor == p.tensor).map ScaleEntry.j).getD 0
    (t.moves.filter fun m => m.shard == p.shard).foldl (fun u m => u.writeMove t.grans p j l.1 l.2 m) s

/-- One event of a turn's shard (R402, R413, R414). With every shard ended and one failed, the turn ends (R403). -/
def State.turnShard (s : State) (t : Turn) (shard : Nat) (d : Delivery) : State :=
  match t.shards.find? fun p => p.shard == shard, t.places.find? fun p => p.shard == shard with
  | some p, some place =>
    let own := p.position == s.position
    if !p.takes own d then s
    else
      let r := p.step own false s.groupSize d
      let t1 := { t with shards := t.shards.map fun x => if x.shard == shard then r.1 else x }
      let s1 := s.setTurn t1
      let s2 := if r.1.status == some stDone && own then s1.writeTurnShard t1 place else s1
      let s3 : State := if r.2.2.2 then { s2 with turns := { s2.turns with retryCount := addHigh s2.turns.retryCount 1 } } else s2
      let s4 := if r.1.status.isSome then s3.writeFate t.ticket.ctx t.report r.1 r.2.1 r.2.2.1 t.started else s3
      if s.isQueen && t1.shards.all fun x => x.status.isSome then
        match firstFailed t1.shards with
        | some st => s4.undoGen t1 st
        | none => s4
      else s4
  | _, _ => s

/-- SHARD_END: an event of a load's shard, with the reads of this module's store it rests on, or of a turn's (its sources have codes 4
and 5; its pack is named 0). -/
def execShardEnd (packId shard : Nat) (x : ShardReport) (s : State) : Host.Outcome State Fault Refusal :=
  let d := x.delivery
  .next (if packId = 0 || (deliverySource d).any fun c => decide (4 ≤ c) then
    match s.turns.turn with
    | some t => if t.begun && t.kind != .learn then s.turnShard t shard d else s
    | none => s
  else match s.openLoad packId with
    | none => s
    | some l =>
      let s1 := s.readShard l shard d x.reads
      match d with
      | .corrupt 3 => s1.supplyCorrupt packId shard
      | _ => s1)

/-! ### The end of a turn to generation (R401, Table 10.6) -/

/-- Restore the versions of a turn; none where one lacks room. -/
def State.restoreAll (s : State) (c : Nat) : List Version → State
  | [] => s
  | v :: rest => ((s.restore c .base v).getD s).restoreAll c rest

/-- The switch of a turn to generation (step 5 of Table 10.6): restored versions, the new version, the generation phase. -/
def State.switchTurn (s : State) (t : Turn) : State :=
  let c := t.ticket.ctx
  let mine := t.places.filter fun p => p.position == s.position
  let s1 := s.restoreAll c (s.restores t)
  let s2 := if t.kind = .restore then s1
    else s1.switchTo c t.kin t.tag t.package mine t.scales t.grans t.reserve
  let s3 : State := { s2 with turns := { s2.turns with turnCount := addHigh s2.turns.turnCount 1 } }
  (s3.endTurn t stDone t.tag).reenter

/-- TURN_SHARDS_PRESENT: every shard is DONE, and the queen switches the group (step 5 of Table 10.6). -/
def execTurnShardsPresent (s : State) : Host.Outcome State Fault Refusal :=
  .next (match s.turns.turn with
  | none => s
  | some t =>
    if !t.begun || t.kind == .learn || !s.isQueen || !t.shards.all fun p => p.status == some stDone then s
    else s.switchTurn t)

/-! ### The switch mode (R390, R417) -/

/-- Whether a load of the group is LOADING. -/
def State.loadingNow (s : State) : Bool := s.turns.loads.any fun l => !l.waitsSwitch

/-- SWITCH_MODE (R390). -/
def State.takeSwitchMode (s : State) (m : List Byte) (t : Ticket) : State :=
  if s.turns.turn.isSome || s.loadingNow then s.finish t stNotPermitted 0 0
  else
    let s1 : State := { s with turns := { s.turns with modeWait := some (field m 32 1 == 1, t) } }
    (s1.tellAll kmOrder m).settleIdle

/-- The command of code 0x0043, from a mailbox. -/
def execSwitchMode (mb : Nat) (s : State) : Host.Outcome State Fault Refusal := .next (s.serve mb 0x0043 State.takeSwitchMode)

/-- Device address of TRN_CTRL. -/
def regTrnCtrl : Nat := 0x814000000

/-- TRN_MODE_WRITE: a write of TRN_CTRL (R417). -/
def execTrnModeWrite (v : Word) (s : State) : Host.Outcome State Fault Refusal :=
  .next (if s.turns.turn.isSome || s.loadingNow then s.ignored regTrnCtrl none else s.applyMode (bitAt v.toNat 0))

end Sys2Proof.Machine
end

