-- ==== Sys2Proof/Machine/Release.lean ====
section
/-! DEFINITION. The release of a context once its items have ended (R483, R123, R209, R223, R581). -/

namespace Sys2Proof.Machine

/-- The context addresses of granules that context `c` maps (R216, R217). -/
def State.mappings (s : State) (c : Nat) : List Nat :=
  let base := s.memCtl.ptBase.toNat + c * 0x300000
  s.mem.filterMap fun m =>
    if m.1 < base || base + 0x300000 ≤ m.1 then none
    else
      let o := m.1 - base
      let a :=
        if o < 0x100000 then if o % 4 = 2 then some (o / 4 * 0x10000) else none
        else if (o - 0x100000) % 8 = 2 then some (lpBase + (o - 0x100000) / 8 * 0x200000) else none
      match a with
      | none => none
      | some x => if (s.xent c x).valid then some x else none

/-- A core with every frame-store, chain and user-function slot zeroed. -/
def Core.wipe (k : Core) : Core :=
  { k with frameStore := [], slotCtx := [], veuStore := [], veuCtx := none, chainValid := 0, userRegs := [] }

/-- A core with the slots that hold tables, chains and user functions of context `c` zeroed (R123, R209). -/
def Core.wipeOf (k : Core) (c : Nat) : Core :=
  let k1 := { k with
    frameStore := k.frameStore.filter fun e => tget k.slotCtx e.1 != some c
    slotCtx := k.slotCtx.filter fun e => e.2 != c }
  if k.veuCtx = some c then { k1 with veuStore := [], veuCtx := none, chainValid := 0, userRegs := [] } else k1

/-- Zero the slots of a context in every core's stores. -/
def State.wipeStores (s : State) (c : Nat) : State := { s with cores := s.cores.map fun e => (e.1, e.2.wipeOf c) }

/-- Whether the table at CORE_ENTRY is one of context `c` of a package other than `id`, by its header. -/
def Core.holdsOther (k : Core) (c id : Nat) : Bool := tget k.slotCtx k.header == some c && field (k.slotBytes k.header) 16 8 != id

/-- Zero the slots that hold a package's tables, chains and user functions: those of its context, on every core but those that another
package's table stands on (R487). -/
def State.wipePackage (s : State) (c id : Nat) : State :=
  { s with cores := s.cores.map fun e => (e.1, if e.2.holdsOther c id then e.2 else e.2.wipeOf c) }

/-- Reject the unconsumed messages of a mailbox, at most `n`, with a status. -/
def State.rejectWaiting (s : State) (mb status : Nat) : Nat → State
  | 0 => s
  | n + 1 =>
    let b := s.mailbox mb
    if b.stopped || b.announced == 0 then s
    else if b.headUnfit then s.stopMailbox mb
    else if b.headPartial then s
    else
      let m := b.headMessage
      ((s.consume mb m).reject mb m (if crcOkAt m 28 && (commandRow (msgCommand m)).isSome then status else stBad)).rejectWaiting mb
        status n

/-- Unbind a context's mailbox once its pending records are written. -/
def State.closeMailbox (s : State) (mb : Nat) : State :=
  (s.setMailbox mb { s.mailbox mb with closing := (s.mailbox mb).binding.isSome }).flush mb

/-- Remove every version of context `c`, of both kinds, and free its adapter indices. -/
def State.dropVersions (s : State) (c : Nat) : State :=
  let mine := (s.adapters.filter fun a => a.2.ctx == c).map Prod.fst
  let all (t : State) (k : Kin) : State := (t.versions c k).foldl (fun u v => u.removeVersion c k v.tag) t
  let s1 := mine.foldl (fun t a => all t (.adapter a)) s
  let s2 : State := { s1 with adapters := s1.adapters.filter fun a => a.2.ctx != c }
  all s2 .base

/-- Whether nothing of context `c` is still to end. -/
def State.ctxQuiet (s : State) (c : Nat) : Bool :=
  !s.stepRunning c && (s.learnSteps.all fun t => t.ctx != c) && (s.ctxSlots c).isEmpty &&
    !(s.turns.turn.any fun t => t.ticket.ctx == c) && !s.guard.cap.any fun k => k.ctx == c

/-- Take context `c` out of the module: its granules, slots, registrations, key and registers. The learning phase under one of its
packages ends. -/
def State.eraseCtx (s : State) (c : Nat) : State :=
  let loads := s.turns.loads.filter fun l => l.ticket.ctx == c
  let s1 := loads.foldl (fun (t : State) l => (t.eraseLoad l).dropGranules l.grans) s
  let s2 := s1.dropVersions c
  let s3 := (s2.mappings c).foldl (fun (t : State) a => t.unmap c a) s2
  let s4 := s3.wipeStores c
  let s5 : State := { s4 with
    regs := terase s4.regs (c + 1)
    ctxRegs := terase s4.ctxRegs c
    ctxs := terase s4.ctxs c }
  if s5.turns.learning.any fun l => l.1 == c then s5.reenter else s5

/-- Finish a CTX_RELEASE that waits, once the context is quiet. -/
def State.settleRelease (s : State) (c : Nat) : State :=
  match (s.ctx c).bind Ctx.releasing with
  | none => s
  | some t => if s.ctxQuiet c then ((s.eraseCtx c).finish t stDone 0 0).closeMailbox (c + 16) else s

/-- Finish every release that can finish. -/
def State.settleReleases (s : State) : State := (s.ctxs.map Prod.fst).foldl State.settleRelease s

end Sys2Proof.Machine
end

