-- ==== Sys2Proof/Machine/Learn.lean ====
section
/-! DEFINITION. Learning steps on a module (R341 to R353, R363 to R374, R509 to R513): plans and their checks, inputs, what passes
leave, the commit's records, and how a step ends. The commands of a step stand in Machine/LearnRun.lean. -/

namespace Sys2Proof.Machine

/-! ### Plans (Tables 9.2 to 9.4) -/

/-- The segment entry at an offset. -/
def segmentAt (b : List Byte) (o : Nat) : Segment :=
  ⟨BitVec.ofNat 64 (field b o 8), field b (o + 8) 4, field b (o + 12) 2, field32 b (o + 16), field32 b (o + 20)⟩

/-- Bytes of the hyper-parameters with their padding. -/
def hyperBytes (n : Nat) : Nat := (4 * n + 15) / 16 * 16

/-- Offset of micro-batch entry `i`. -/
def microOffset (b : List Byte) (i : Nat) : Nat := 64 + hyperBytes (field b 15 1) + 16 * i

/-- Offset of segment entry `i`. -/
def segmentOffset (b : List Byte) (i : Nat) : Nat := microOffset b (field b 16 4) + 24 * i

/-- Micro-batch `i` with its segments. -/
def microAt (b : List Byte) (i : Nat) : MicroBatch :=
  let o := microOffset b i
  ⟨field b (o + 8) 2, (List.range (field b (o + 4) 4)).map fun k => segmentAt b (segmentOffset b (field b o 4 + k))⟩

/-- The plan that bytes spell. -/
def parsePlan (b : List Byte) : Plan where
  release := bitAt (field b 6 2) 0
  clip := bitAt (field b 6 2) 1
  logpOut := bitAt (field b 6 2) 2
  step := field b 8 4
  version := field b 12 2
  package := field b 14 1
  hypers := (List.range (field b 15 1)).map fun i => field32 b (64 + 4 * i)
  clipAt := field32 b 24
  logpAddr := field b 32 8
  micros := (List.range (field b 16 4)).map (microAt b)
  table := (List.range (field b 20 4)).map fun i => segmentAt b (segmentOffset b i)

/-- Segments of row `r`. -/
def MicroBatch.row (m : MicroBatch) (r : Nat) : List Segment := m.segments.filter fun g => g.row == r

/-- ROW_TOKENS: tokens of the longest row. -/
def MicroBatch.rowTokens (m : MicroBatch) : Nat :=
  ((List.range m.rows).map fun r => ((m.row r).map Segment.length).sum).foldl max 0

/-- Input records of a micro-batch. -/
def MicroBatch.records (m : MicroBatch) : Nat := m.rows * m.rowTokens

/-- Whether a plan's entries are in range (check 1 of Table 9.5): reserved bytes, segment indices, rows up to a limit. -/
def planEntriesOk (b : List Byte) (rowLimit : Option Nat) : Bool :=
  (List.range (field b 16 4)).all fun i =>
    let o := microOffset b i
    decide (1 ≤ field b (o + 4) 4) && decide (field b o 4 + field b (o + 4) 4 ≤ field b 20 4) && zeroAt b (o + 10) 6 &&
      decide (1 ≤ field b (o + 8) 2) && rowLimit.all (fun n => decide (field b (o + 8) 2 ≤ n)) &&
      (microAt b i).segments.all fun g => decide (g.row < field b (o + 8) 2)

/-- Whether a plan's bytes pass check 1 apart from where they lie. -/
def planOk (b : List Byte) (rowLimit : Option Nat) : Bool :=
  decide (64 ≤ b.length) && crcOkAt b 60 && field b 0 4 == b.length && field b 4 2 == 0x0100 && decide (field b 6 2 ≤ 7) &&
    decide (field b 15 1 ≤ 32) && decide (field b 16 4 ≤ 8192) && zeroAt b 28 4 && zeroAt b 40 20 &&
    b.length == segmentOffset b (field b 20 4) && zeroAt b (64 + 4 * field b 15 1) (hyperBytes (field b 15 1) - 4 * field b 15 1) &&
    planEntriesOk b rowLimit &&
    (List.range (field b 20 4)).all fun i => zeroAt b (segmentOffset b i + 14) 2

/-- The bytes of a plan at an address of the data range. -/
def State.planBytes (s : State) (c : Nat) (x : Ctx) (a : Nat) : Option (List Byte) :=
  let n := field (s.readCtx c a 4) 0 4
  if x.inData a 64 && x.inData a n then some (s.readCtx c a n) else none

/-- Whether a temperature is +0, −0 or in [2⁻¹⁶, 2¹⁶]. -/
def tempOk (w : Word) : Bool := w == 0 || w == 0x80000000 || (decide (0x37800000 ≤ w.toNat) && decide (w.toNat ≤ 0x47800000))

/-- Whether an FP32 encoding is finite. -/
def finite32 (w : Word) : Bool := (val32 w.toNat).isFinite

/-- Check 4 of Table 9.5 on one micro-batch. -/
def MicroBatch.rowsOk (m : MicroBatch) (tokenLimit : Nat) : Bool :=
  (m.segments.zip (m.segments.drop 1)).all (fun g => decide (g.1.row ≤ g.2.row)) &&
    (List.range m.rows).all (fun r => decide (1 ≤ (m.row r).length) && decide ((m.row r).length ≤ 65535)) &&
    decide (m.records ≤ tokenLimit)

/-- Check 5 of Table 9.5 on one segment: a READY, unreleased super entry whose STATUS is of class 0x00. -/
def Ctx.segmentOk (x : Ctx) (g : Segment) : Bool :=
  match x.super g.seqId with
  | none => false
  | some e => e.ready && !e.released && decide (e.status < 0x100) && decide (1 ≤ g.length) && decide (g.length ≤ e.promptLen + e.genLen) &&
      finite32 g.weight && tempOk g.temp

/-- Every segment that a plan's micro-batches hold. -/
def Plan.segments (p : Plan) : List Segment := p.micros.flatMap MicroBatch.segments

/-- Whether a list of sequence identifiers has no repeats. -/
def noRepeats : List Long → Bool
  | [] => true
  | a :: rest => !rest.contains a && noRepeats rest

/-- Check 5 of Table 9.5, on every entry of the segment table, whether a micro-batch names it or not. -/
def Ctx.segmentsOk (x : Ctx) (p : Plan) : Bool :=
  p.table.all x.segmentOk && noRepeats (p.table.map Segment.seqId) && noRepeats (p.segments.map Segment.seqId) &&
    (!p.clip || (finite32 p.clipAt && decide (0 < p.clipAt.toNat) && decide (p.clipAt.toNat < 2 ^ 31)))

/-- The learning package in a slot of context `c`. -/
def State.learnPackage (s : State) (c k : Nat) : Option Package :=
  match s.packageAt c k with
  | some p => if p.kind = .learning then some p else none
  | none => none

/-- Whether check 2 of Table 9.5 fails: not the learning phase, a turn accepted, a step of the context not ended, no loaded learning
package; a halted group starts no step (R448). -/
def State.learnBarred (s : State) (c k : Nat) : Bool :=
  s.generating || s.turns.turn.isSome || s.halted || s.learningStep c || (s.learnPackage c k).isNone

/-- The checks of Table 9.5 in order on a plan at an address: the status of the first that fails, or the plan. -/
def State.checkPlan (s : State) (c : Nat) (x : Ctx) (a : Nat) : Except Nat Plan :=
  match s.planBytes c x a with
  | none => .error stBad
  | some b =>
    let p := parsePlan b
    let lp := s.learnPackage c p.package
    if !planOk b (lp.map Package.rowLimit) ||
        (p.logpOut && !x.inData p.logpAddr (4 * (p.micros.map MicroBatch.records).sum)) then .error stBad
    else if s.learnBarred c p.package then .error stNotPermitted
    else if p.step ≠ (s.learnerOf c).lastStep + 1 then .error stBad
    else if p.micros.length = 0 || p.micros.length % s.groupSize != 0 ||
        !p.micros.all fun m => m.rowsOk ((lp.map Package.tokenLimit).getD 0) then .error stBad
    else if !x.segmentsOk p then .error stBad
    else if (s.learnerOf c).damaged then .error stMem
    else if !(s.versions c .base).any fun v => v.tag == p.version && (v.state == .current || v.state == .retained) then
      .error stVersionGone
    else .ok p

/-! ### Inputs (R343, R344, Tables 9.6 and 8.5) -/

/-- INV_TEMP of a temperature. -/
def invTemp (w : Word) : Nat := if (val32 w.toNat).isZero then 0x3F800000 else div32 0x3F800000 w.toNat

/-- One input record. -/
def inputRecord (token inv : Nat) (seq : Long) (pos seg : Nat) (logp weight : Word) : List Byte :=
  leBytes 4 token ++ leBytes 4 inv ++ leBytes 8 seq.toNat ++ leBytes 4 pos ++ leBytes 2 seg ++ zeros 2 ++ leBytes 4 logp.toNat ++
    leBytes 4 weight.toNat

/-- The records of a segment, numbered `seg` in its row, from its super entry. -/
def segmentRecords (e : SupEntry) (g : Segment) (seg : Nat) : List Byte :=
  (List.range g.length).flatMap fun pos =>
    if pos < e.promptLen then inputRecord ((e.prompt[pos]?).getD 0) (invTemp g.temp) e.seqId pos seg 0 0
    else
      let r := (e.records[pos - e.promptLen]?).getD ⟨0, false, 0, 0, 0, 0⟩
      inputRecord r.token (invTemp g.temp) e.seqId pos seg r.logp g.weight

/-- A padding record; no rule states its INV_TEMP. -/
def paddingRecord : List Byte := inputRecord 0 Config.paddingInvTemp.toNat 0 0 0xFFFF 0 0

/-- The input of a micro-batch: row after row, each padded to ROW_TOKENS (R309). -/
def Ctx.microInput (x : Ctx) (m : MicroBatch) : List Byte :=
  (List.range m.rows).flatMap fun r =>
    let gs := m.row r
    let own := (List.range gs.length).flatMap fun k =>
      match gs[k]? with
      | some g => match x.super g.seqId with
        | some e => segmentRecords e g k
        | none => []
      | none => []
    own ++ (List.range (m.rowTokens - (gs.map Segment.length).sum)).flatMap fun _ => paddingRecord

/-- The local micro-batches of a position: global numbers in order (R343). -/
def Plan.localMicros (p : Plan) (g pos : Nat) : List Nat := (List.range p.micros.length).filter fun n => n % g == pos

/-- Send bytes to a context address of another position as Keeper messages of at most 8,192 bytes: they belong to no core step, so that they
can come before the first pass starts (R344). -/
def State.sendInput (s : State) (pos c addr : Nat) (b : List Byte) : State :=
  (transferPieces b 0 (b.length / 8192 + 1)).foldl (fun (u : State) x => u.tell pos kmInputs (leBytes 2 c ++ leBytes 8 (addr + x.1) ++ x.2)) s

/-- The queen sends every other module its micro-batches' inputs, one after another from the package's input area on (R344). -/
def State.sendInputs (s : State) (c : Nat) (x : Ctx) (p : Plan) (base : Nat) : State :=
  s.others.foldl (fun (u : State) pos =>
    ((p.localMicros s.groupSize pos).foldl (fun (acc : Nat × State) g =>
      match p.micros[g]? with
      | some m => (acc.1 + 32 * m.records, acc.2.sendInput pos c acc.1 (x.microInput m))
      | none => acc) (base, u)).2) s

/-- Input bytes of a position's micro-batches. -/
def Plan.inputBytes (p : Plan) (g pos : Nat) : Nat := 32 * ((p.localMicros g pos).map fun n => ((p.micros[n]?).map MicroBatch.records).getD 0).sum

/-- The values of R367 for a micro-batch, in input-record order: +0 for padding and for a segment's first token, which no row predicts;
the others are those that the forward pass computed. -/
def MicroBatch.logpBytes (m : MicroBatch) (computed : List Word) : List Byte :=
  let ps := (List.range m.rows).flatMap fun r =>
    let own := (m.row r).flatMap fun g => List.range g.length
    own ++ List.replicate (m.rowTokens - own.length) 0
  (ps.zip (List.range ps.length)).flatMap fun x => leBytes 4 (if x.1 = 0 then 0 else ((computed[x.2]?).getD 0).toNat)

/-- Write this module's inputs one after another from the package's input area on. -/
def State.writeInputs (s : State) (c : Nat) (x : Ctx) (p : Plan) (base : Nat) : State :=
  ((p.localMicros s.groupSize s.position).foldl (fun (acc : Nat × State) g =>
    match p.micros[g]? with
    | some m => (acc.1 + 32 * m.records, acc.2.writeOwned c acc.1 (x.microInput m))
    | none => acc) (base, s)).2

/-- Write the log-probabilities of a position's micro-batches, as it reports them, to LOGP_ADDR on the queen, where the plan asks for them
(R367). -/
def State.writeLogp (s : State) (c : Nat) (p : Plan) (pos : Nat) (logps : Table (List Word)) : State :=
  if p.logpOut then
    (p.localMicros s.groupSize pos).foldl (fun (t : State) g =>
      match p.micros[g]? with
      | some m => t.writeCtx c (p.logpAddr + 4 * ((p.micros.take g).map MicroBatch.records).sum) (m.logpBytes (tgetD logps g []))
      | none => t) s
  else s

/-! ### The steps of a context -/

/-- The learning step of context `c`. -/
def State.learnStep (s : State) (c : Nat) : Option LearnStep := s.learnSteps.find? fun t => t.ctx == c

/-- Update the learning step of its context. -/
def State.setLearn (s : State) (t : LearnStep) : State :=
  { s with learnSteps := s.learnSteps.map fun o => if o.ctx == t.ctx then t else o }

/-- Remove the learning step of a context. -/
def State.eraseLearn (s : State) (c : Nat) : State := { s with learnSteps := s.learnSteps.filter fun o => o.ctx != c }

/-- Update the learner of context `c`. -/
def State.setLearner (s : State) (c : Nat) (f : Learner → Learner) : State :=
  match s.ctx c with
  | some x => s.setCtx c { x with learner := some (f (s.learnerOf c)) }
  | none => s

/-- Local micro-batches on each module. -/
def State.localCount (s : State) (p : Plan) : Nat := p.micros.length / s.groupSize

/-- Map one stash unit's granules, those not mapped already; none where they are lacking. -/
def State.mapUnit (s : State) (c : Nat) (u : Nat × Nat) : Option State :=
  (s.takeGranules c (fun _ => false) ((rangeGranules u.1 u.2).filter fun a => !(s.xent c a).valid)).map fun r =>
    r.2.mapGrans c (fun _ => false) r.1

/-- Map the stash units of a package at the start of a step, those in SRAM before those in LPDDR5X, as far as memory goes (R352): the bases
of the units mapped, in order. -/
def State.mapStash (s : State) (c : Nat) (p : Package) : List Nat × State :=
  p.stash.foldl (fun acc u => match acc.2.mapUnit c u with
    | some t => (acc.1 ++ [u.1], t)
    | none => acc) ([], s)

/-- K: micro-batch slots of a stash of some units (R348); with nothing stashed, one. -/
def stashSlots (p : Package) (units : Nat) : Nat := if p.stashLayers = 0 then 1 else units / p.stashLayers

/-- The scales of a package's learning-only tensors from their histories as they stand (R90 to R92): with no maximum, j stays what the
tensor had before, or for a new tensor is the package's initial value. -/
def Learner.stepScales (l : Learner) (p : Package) : Table Int :=
  p.learnOnly.foldl (fun t e => tset t e.tensor (scaleFrom e.format (historyMax (l.history e.tensor)) (tgetD l.scales e.tensor e.j))) []

/-- A learning step newly accepted, with its stamps from `base` on, K slots in the stash units mapped, the scales fixed for it, and the input
bytes it awaits. -/
def LearnStep.accepted (t : Ticket) (lc : Bool) (p : Plan) (base : Word) (passes slots : Nat) (units : List Nat) (scales : Table Int)
    (due : Nat) : LearnStep where
  ctx := t.ctx
  lc := lc
  ticket := t
  plan := p
  state := .accepted
  base := base
  passes := passes
  slots := slots
  units := units
  scales := scales
  inputsDue := due
  fatal := 0
  pass := 0
  running := false
  replaying := none
  orders := []
  replayInputs := []
  flags := []
  fps := []
  watches := []
  fp := 0
  faulted := false
  faultAt := 0
  lastStamp := 0
  clipFactor := none
  staged := []
  guarded := []
  origins := []
  redo := false
  redoing := false
  commitSent := false
  acks := []
  status := 0

/-- Whether the step's own passes, optimizer pass and ordered replays have ended. -/
def LearnStep.passesDone (t : LearnStep) : Bool := decide (t.passes < t.pass) && !t.running && t.orders.isEmpty

/-! ### Micro-batches (R498, R499, R510) -/

/-- The flag set of local micro-batch `n`: that of its two passes. -/
def LearnStep.microFlags (t : LearnStep) (n : Nat) : BitVec 7 := (t.flags[n]?).getD 0 ||| (t.flags[n + t.slots]?).getD 0

/-- The first-run fingerprint of local micro-batch `n`: that of the pass of its backward pass. -/
def LearnStep.microFp (t : LearnStep) (n : Nat) : Long := (t.fps[n + t.slots]?).getD 0

/-- Whether a watch AMAX is beyond the plausibility bound (R499): for a tensor with a history and no entry in the version's scale
table, AMAX > 2^P × A, where A is above 0. -/
def Learner.implausible (l : Learner) (p : Nat) (forward : List Nat) (w : WatchSum) : Bool :=
  let a := historyMax (l.history w.tag)
  !forward.contains w.tag && !a.isZero && (a.scale p).lt (val32 w.amax.toNat)

/-- The tensors of the scale table of a plan's version. -/
def State.forwardTensors (s : State) (t : LearnStep) : List Nat :=
  match s.version t.ctx .base t.plan.version with
  | some v => v.scales.map ScaleEntry.tensor
  | none => []

/-- Whether local micro-batch `n` is flagged. -/
def State.microFlagged (s : State) (t : LearnStep) (n : Nat) : Bool :=
  flagged (t.microFlags n) ||
  match (s.learnPackage t.ctx t.plan.package).bind Package.plausibility with
  | none => false
  | some p =>
    let ws := (t.watches[n]?).getD [] ++ (t.watches[n + t.slots]?).getD []
    ws.any ((s.learnerOf t.ctx).implausible p (s.forwardTensors t))

/-- The micro-batch part of this module's own report. -/
def State.microReports (s : State) (t : LearnStep) : List MicroReport :=
  (t.plan.localMicros s.groupSize s.position).map fun g =>
    let n := g / s.groupSize
    ⟨g, t.microFp n, t.microFlags n, s.microFlagged t n⟩

/-- An FP32 word of a context. -/
def State.word (s : State) (c a : Nat) : Word := field32 (s.readCtx c a 4) 0

/-- The elements of the FULL and PARTIAL tensors that this module owns, each with its tensor and its number here. -/
def State.ownTrained (s : State) (p : Package) : List (Tensor × Nat × Nat) :=
  (p.tensors.filter fun x => x.kind != .frozen).flatMap fun x => (p.ownElems s.groupSize s.position x).map fun e => (x, e.1, e.2)

/-- The largest finite magnitudes of the masters that an optimizer pass has written, by tensor (R398). -/
def State.ownMasterMax (s : State) (c : Nat) (p : Package) : Table Word :=
  let cur := (s.learnerOf c).cur
  (s.ownTrained p).foldl (fun t x =>
    let m := finiteMag (s.word c (p.masterAt (!cur) x.1 x.2.1)).toNat
    tset t x.1.number (BitVec.ofNat 32 (max (tgetD t x.1.number 0).toNat m))) []

/-- Whether a reduced gradient element or a new master element that this module owns is not finite (R372). -/
def State.ownNonfinite (s : State) (c : Nat) (p : Package) : Bool :=
  let cur := (s.learnerOf c).cur
  (s.ownTrained p).any fun x => x.1.trains x.2.1 &&
    (!finite32 (s.word c ((p.area .running).1 + 4 * x.2.2)) || !finite32 (s.word c (p.masterAt (!cur) x.1 x.2.1)))

/-- The norms of the layers whose chains end on this module, as the stages of its tables have left them in the package's norm area, 32
bytes a layer (R365). -/
def State.ownNorms (s : State) (c : Nat) (p : Package) : List LayerNorm :=
  (p.layers.zip (List.range p.layers.length)).filterMap fun x =>
    if p.chainEnd s.groupSize x.1 = some s.position then
      let w (k : Nat) : Word := s.word c ((p.area .norms).1 + 32 * x.2 + 4 * k)
      some ⟨x.1, p.layerElems x.1, w 0, w 1, w 2, w 3, w 4, w 5, (w 6).toNat⟩
    else none

/-- The log-probabilities that the forward passes of this module's micro-batches have left in the package's area, one for each input
record in order (R63, R367). -/
def State.ownLogps (s : State) (t : LearnStep) (p : Package) : Table (List Word) :=
  ((t.plan.localMicros s.groupSize s.position).foldl (fun (acc : Nat × Table (List Word)) g =>
    let n := ((t.plan.micros[g]?).map MicroBatch.records).getD 0
    (acc.1 + n, tset acc.2 g ((List.range n).map fun i => s.word t.ctx ((p.area .logProbs).1 + 4 * (acc.1 + i))))) (0, [])).2

/-- This module's own report, as its passes left it. -/
def State.ownReport (s : State) (t : LearnStep) : StagedReport :=
  let p := s.learnPackage t.ctx t.plan.package
  let bad := p.any (s.ownNonfinite t.ctx)
  { clean := !t.faulted && !bad
    status := t.fatal
    nonfinite := bad
    flags := t.flags.foldl (fun a b => a ||| b) 0
    watches := t.watches.foldl mergeWatches []
    norms := (p.map (s.ownNorms t.ctx)).getD []
    micros := s.microReports t
    masterMax := (p.map (s.ownMasterMax t.ctx)).getD []
    logps := (p.map (s.ownLogps t)).getD []
    damaged := (s.learnerOf t.ctx).damaged }

/-- Run 0 of a global micro-batch, from the report of the position that ran it. -/
def State.runZero (s : State) (t : LearnStep) (g : Nat) : Option (MicroReport × Run) :=
  match tget t.staged (g % s.groupSize) with
  | none => none
  | some r => (r.micros.find? fun m => m.micro == g).map fun m => (m, ⟨false, m.fp, m.flags, []⟩)

/-! ### Replays (R443, R503, R505, R509, R511) -/

/-- The position that makes run `k` of a micro-batch. -/
def State.replayPos (s : State) (g k : Nat) : Nat :=
  let n := s.groupSize
  let q := g % n
  if n = 2 ∧ k = 2 then q else (q + k) % n

/-- The rotation of run `k` of a micro-batch where it is made (R504, R505): none on another module. -/
def State.replayRotation (s : State) (g k : Nat) : Nat :=
  if s.groupSize = 1 then k else if s.groupSize = 2 ∧ k = 2 then 1 else if s.replayPos g k = g % s.groupSize then k else 0

/-- The input of a micro-batch of a step, as the queen builds it. -/
def State.stepInput (s : State) (t : LearnStep) (g : Nat) : List Byte :=
  match s.ctx t.ctx, t.plan.micros[g]? with
  | some x, some m => x.microInput m
  | _, _ => []

/-- Send the input of a micro-batch to the position that replays it. -/
def State.sendReplayInput (s : State) (pos c g : Nat) (b : List Byte) : State :=
  (transferPieces b 0 (b.length / 8192 + 1)).foldl (fun (u : State) x =>
    u.tell pos kmReplayInputs (leBytes 2 c ++ leBytes 4 g ++ leBytes 4 x.1 ++ x.2)) s

/-- Order run `k` of a micro-batch, and give its input with it. -/
def State.orderReplay (s : State) (t : LearnStep) (g k : Nat) : State × LearnStep :=
  let pos := s.replayPos g k
  let t1 := { t with guarded := t.guarded.map fun x => if x.micro == g then { x with asked := k } else x }
  if pos = s.position then
    (s, { t1 with orders := t1.orders ++ [(g, k)], replayInputs := tset t1.replayInputs g (s.stepInput t g) })
  else ((s.tell pos kmReplay (leBytes 2 t.ctx ++ leBytes 4 g ++ leBytes 1 k)).sendReplayInput pos t.ctx g (s.stepInput t g), t1)

/-- Order the next run of each of some micro-batches. -/
def State.orderReplays (s : State) (t : LearnStep) (gs : List (Nat × Nat)) : State × LearnStep :=
  gs.foldl (fun acc x => acc.1.orderReplay acc.2 x.1 x.2) (s, t)

/-- The spot-selected micro-batches of a step. -/
def State.spotMicros (s : State) (c : Nat) (p : Plan) : List Nat :=
  (List.range p.micros.length).filter fun g => spotSelected p.step g (s.creg c).fraction

/-- The guard's record of a step at its start. -/
def guardStart (gs : List Nat) : List GuardedMicro := gs.map fun g => ⟨g, [], 0, false⟩

/-- The decisions of Table 13.1. -/
inductive MicroDecision where
  | clean (suspect : List Nat)
  | redo
  | disagree
  | needs (run : Nat)
  deriving DecidableEq, Repr

/-- Decide a guarded micro-batch from run 0 and its replays. `suspect` lists the runs whose cores become suspect. -/
def decideMicro (r0 : Run) : List Run → MicroDecision
  | [] => .needs 1
  | [r1] => if r1.agrees r0 then .clean [] else .needs 2
  | r1 :: r2 :: _ =>
    if r1.agrees r0 then .clean []
    else if r2.agrees r0 then .clean [1]
    else if r2.agrees r1 then .redo
    else .disagree

/-- The cores of run `k` of a micro-batch become suspect, on the module that made it (R514). -/
def State.suspectMicroRun (s : State) (t : LearnStep) (g k : Nat) : State :=
  let pos := s.replayPos g k
  if pos = s.position then (s.maskCores (s.creg t.ctx).combs).foldl State.suspect s
  else s.tell pos kmSuspect (leBytes 2 t.ctx)

/-! ### Records of a step (R208, R366, R486) -/

/-- Write records into a ring region of a context after its 64-byte head, and the count in the head: the new count. -/
def State.writeRing (s : State) (c base size count : Nat) (rs : List (List Byte)) : Nat × State :=
  if base = 0 || size = 0 then (count, s)
  else
    let r := rs.foldl (fun (acc : Nat × State) b => (acc.1 + 1, acc.2.writeCtx c (base + 64 + 64 * (acc.1 % size)) b)) (count, s)
    (r.1, r.2.writeCtx c base (leBytes 8 r.1))

/-- A watch record (Table 5.9). -/
def watchRecord (step : Nat) (w : WatchSum) : List Byte :=
  leBytes 8 step ++ leBytes 4 w.tag ++ leBytes 4 w.amax.toNat ++ leBytes 8 w.elems ++ leBytes 8 w.zeros ++ leBytes 8 w.sats ++
    leBytes 8 w.nonfin ++ leBytes 8 w.recomp ++ leBytes 8 w.fallback

/-- Report one count under its Ledger code where it is not 0. -/
def State.reportCount (s : State) (code n c : Nat) : State := if n = 0 then s else s.report code n c

/-- Write the watch records of a step, and enter its counts in the Ledger (R208). -/
def State.writeWatch (s : State) (c step : Nat) (ws : List WatchSum) : State :=
  let total (f : WatchSum → Nat) : Nat := (ws.map f).sum
  let s1 := (((s.reportCount 0x0210 (total WatchSum.recomp) c).reportCount 0x0211 (total WatchSum.fallback) c).reportCount
    0x0212 (total WatchSum.sats) c).reportCount 0x0213 (total WatchSum.nonfin) c
  match s1.ctx c with
  | none => s1
  | some x =>
    let r := s1.writeRing c x.watchBase x.watchRecords x.watchCount (ws.map (watchRecord step))
    match r.2.ctx c with
    | some y => r.2.setCtx c { y with watchCount := r.1 }
    | none => r.2

/-- RN(√x) of an FP32 encoding. -/
def sqrt32 (x : Nat) : Nat :=
  match val32 x with
  | .fin false m e =>
    if m = 0 then rne32 .zero
    else
      let n := if e % 2 = 0 then m * 2 ^ 64 else m * 2 ^ 65
      let q := isqrt n
      rne32 (.fin false (2 * q + b2n (q * q != n)) ((if e % 2 = 0 then e else e - 1) / 2 - 33))
  | .fin true m _ => if m = 0 then x else rne32 .nan
  | .inf false => x
  | .inf true => rne32 .nan
  | .nan => rne32 .nan

/-- The global gradient sum of squares: the layers' values folded left by RNE (R364). -/
def foldSumsq : List Word → Nat
  | [] => 0
  | a :: rest => rest.foldl (fun x b => add32 x b.toNat) a.toNat

/-- The clip factor (R364): 1.0 when the norm does not exceed the threshold. -/
def clipOf (sumsq clip : Nat) : Nat :=
  if (val32 clip).lt (val32 (sqrt32 sumsq)) then div32 clip (sqrt32 sumsq) else 0x3F800000

/-- A norm record (Table 9.7) with its CLIPPED flag and its CLIP_FACTOR. -/
def normRecord (step layer : Nat) (n : LayerNorm) (clipped : Bool) (factor : Nat) : List Byte :=
  leBytes 4 step ++ leBytes 2 layer ++ leBytes 2 (b2n clipped) ++ leBytes 8 n.elems ++
    leBytes 4 n.wSumsq.toNat ++ leBytes 4 n.gSumsq.toNat ++ leBytes 4 n.uSumsq.toNat ++ leBytes 4 (sqrt32 n.wSumsq.toNat) ++
    leBytes 4 (sqrt32 n.gSumsq.toNat) ++ leBytes 4 (sqrt32 n.uSumsq.toNat) ++ leBytes 4 n.wAmax.toNat ++ leBytes 4 n.gAmax.toNat ++
    leBytes 4 n.uAmax.toNat ++ leBytes 4 n.nonfin ++ leBytes 4 factor ++ zeros 4

/-- The norms of a step by layer: each layer's from the last position that reports it, the end of its chain (R365). -/
def LearnStep.layerNorms (t : LearnStep) : Table LayerNorm :=
  (t.staged.flatMap fun r => r.2.norms).foldl (fun m n => tset m n.layer n) []

/-- Write the norm records of a committed step (R366). -/
def State.writeNorms (s : State) (t : LearnStep) : State :=
  match s.ctx t.ctx with
  | none => s
  | some x =>
    let factor := (t.clipFactor.map BitVec.toNat).getD 0x3F800000
    let ns := t.layerNorms
    let all : LayerNorm := ⟨0, 0, 0, BitVec.ofNat 32 (foldSumsq (ns.map fun n => n.2.gSumsq)), 0, 0, 0, 0, 0⟩
    let clipped := (val32 factor).lt (val32 0x3F800000)
    -- the global record carries two values, and all its other value fields are +0 (R366)
    let rs := (ns.map fun n => normRecord t.plan.step n.1 n.2 clipped factor) ++ [normRecord t.plan.step 0xFFFF all clipped 0]
    let r := s.writeRing t.ctx x.normBase x.normRecords x.normCount rs
    match r.2.ctx t.ctx with
    | some y => r.2.setCtx t.ctx { y with normCount := r.1 }
    | none => r.2

/-! ### The end of a step (R370, R371, R374, R475) -/

/-- The stamp of a micro-batch's last core step. -/
def LearnStep.microStamp (t : LearnStep) (g n : Nat) : Word :=
  let k := g / n
  if t.pass = 0 && !t.running then 0
  else
    let last := if t.running then t.pass else t.pass - 1
    if last < k then 0 else t.base + BitVec.ofNat 32 (min last (k + t.slots))

/-- Post the completions of a step with a status: one for each micro-batch, then the step's. -/
def State.completeLearn (s : State) (t : LearnStep) (status : Nat) : State :=
  let n := s.groupSize
  let fault (g : Nat) : Word := if t.origins.contains g then t.faultAt else 0
  let s1 := (List.range t.plan.micros.length).foldl (fun (u : State) g =>
    u.answer t.ticket ⟨3, g, g % n, 0, status, t.origins.contains g, false, t.microStamp g n, fault g⟩) s
  s1.answer t.ticket ⟨2, t.plan.step, t.plan.micros.length, 0, status, false, true, t.lastStamp, t.faultAt⟩

/-- All watch summaries of a step that the queen holds, its own passes' among them before its own report (R440). -/
def State.allWatches (s : State) (t : LearnStep) : List WatchSum :=
  let own := if (tget t.staged s.position).isSome then [] else t.watches
  ((t.staged.map fun r => r.2.watches) ++ own).foldl mergeWatches []

/-- The largest magnitudes of a step's tensors over every module (R92). -/
def State.stepMaxima (s : State) (t : LearnStep) : Table Word := (s.allWatches t).foldl (fun m w => tset m w.tag w.amax) []

/-- Switch banks and write the history slots on this module (R370, R92), from the maxima over every module, and the values of R398; the
step number is the last committed. -/
def State.applyCommit (s : State) (t : LearnStep) (maxima : Table Word) (masters : List (Table Word)) : State :=
  s.setLearner t.ctx fun l =>
    { l with
      cur := !l.cur
      lastStep := t.plan.step
      histories := maxima.foldl (fun h w => tset h w.1 (historyWrite (l.history w.1) t.plan.step w.2)) l.histories
      masterMax := (masters.flatMap id).foldl (fun m e =>
        tset m e.1 (if (tgetD m e.1 0).toNat < e.2.toNat then e.2 else tgetD m e.1 0))
        (l.masterMax.filter fun e => !masters.any fun r => (tget r e.1).isSome) }

/-- Release the super entries a plan names (R370). -/
def State.releaseSupers (s : State) (c : Nat) (p : Plan) : State :=
  ((p.table.map Segment.seqId).foldl (fun (u : State) q =>
    match u.super c q with
    | some e => u.setSuper c { e with released := true }
    | none => u) s).moveTail c

/-- The queen's part once every member has acknowledged COMMIT (R370). -/
def State.finishCommit (s : State) (t : LearnStep) : State :=
  let s1 := (s.writeWatch t.ctx t.plan.step (s.allWatches t)).writeNorms t
  let s2 := if t.plan.release then s1.releaseSupers t.ctx t.plan else s1
  let s3 : State := { s2 with keeper := { s2.keeper with journal := s2.keeper.journal.filter fun e => e != (t.ctx, t.plan.step) } }
  ((((s3.completeLearn t stDone).eraseLearn t.ctx).switchLoads t.ctx).sweepVersions t.ctx).retireDue.settleIdle.settleReleases

/-- Abort what a step runs on this module. -/
def State.stopLearn (s : State) (t : LearnStep) : State :=
  if t.running then s.clearCores (s.maskCores (s.creg t.ctx).combs) else s

/-- Fields of a commit message: context, step and stamp base. -/
def LearnStep.fields (t : LearnStep) : List Byte := leBytes 2 t.ctx ++ leBytes 4 t.plan.step ++ leBytes 4 t.base.toNat

/-- Whether ROLLBACK may be sent: every member has reported STAGED (R444), or the group is no longer active. -/
def State.mayRollBack (s : State) (t : LearnStep) : Bool :=
  s.cascade.state != .active || s.others.all fun p => (tget t.staged p).isSome

/-- Roll a step back for the group and end it (R371, R374). -/
def State.rollBack (s : State) (t : LearnStep) (status : Nat) : State :=
  let s1 := (s.stopLearn t).tellAll kmRollback t.fields
  let s2 := s1.writeWatch t.ctx t.plan.step (s.allWatches t)
  ((((s2.completeLearn t status).eraseLearn t.ctx).switchLoads t.ctx).sweepVersions t.ctx).retireDue.settleIdle.settleReleases

/-- A failure, a decision or a cancel ends a step: at once where ROLLBACK may be sent, else when the last report comes. The first
status stands. -/
def State.failLearn (s : State) (t : LearnStep) (status : Nat) : State :=
  let st := if t.status = 0 then status else t.status
  let t1 := { t with status := st }
  if s.mayRollBack t1 then s.rollBack t1 st
  else (s.stopLearn t1).setLearn { t1 with running := false }

/-! ### Lost data (Table 13.5) -/

/-- Whether an address of a context holds committed learner state. -/
def State.learnerWordAt (s : State) (c a : Nat) : Bool :=
  (s.ctx c).any fun x => x.packages.any fun p => p.2.package.kind == .learning && p.2.package.learnerWord (s.learnerOf c).cur a

/-- Whether an address holds part of a resident version or a super entry. -/
def Ctx.keptAt (x : Ctx) (a : Nat) : Bool :=
  !(x.versionsAt a).isEmpty || x.supers.any fun e => decide (e.addr ≤ a ∧ a < e.addr + e.bytes)

/-- Data lost at some device addresses: the learner of a context is DAMAGED where its committed state lies there, and the status that ends a
learning step, 0 where only scratch of the step is lost. -/
def State.loseLearned (s : State) (c : Nat) (ds : List Nat) : State × Nat :=
  let places := ds.flatMap (s.placesOf c)
  if places.any (s.learnerWordAt c) then (s.setLearner c fun l => { l with damaged := true }, stMem)
  else if ((s.ctx c).any fun x => places.any x.keptAt) ||
      (s.learnStep c).any fun t => (s.packagesAt c ds).contains t.plan.package then (s, stMem)
  else (s, 0)

/-- Slots that lost data end: at once, at the boundary of a committed step, or at phase 5 of one not yet committed. -/
def State.endLost (s : State) (c : Nat) (is : List Nat) : State :=
  is.foldl (fun (u : State) i =>
    if !u.inStep i then u.endSlot i stMem
    else match u.genStep c with
      | some t => if t.phase = .committed then u.closeSlot i stMem else u.setStep { t with ending := t.ending ++ [(i, stMem)] }
      | none => u) s

/-- The items of a context that hold data at some device addresses end (R165, R517): versions are DAMAGED, slots and a learning step end. Scratch of
a step that runs is met again by its reads, and runs again then. -/
def State.loseCtx (s : State) (c : Nat) (ds : List Nat) : State :=
  let places := ds.flatMap (s.placesOf c)
  let packages := s.packagesAt c ds
  if places.isEmpty && packages.isEmpty then s
  else
    let lost := union (s.errorSlots c places) (s.slotsOfPackages c packages)
    let r := ((s.damageVersions c (s.versionsHit c places)).endLost c lost).loseLearned c ds
    match r.1.learnStep c with
    | some t =>
      if r.2 = 0 then r.1 else if s.isQueen then r.1.failLearn t r.2 else r.1.setLearn { t with faulted := true, fatal := r.2 }
    | none => r.1

/-- The items of every context that hold data at some device addresses end. -/
def State.loseData (s : State) (ds : List Nat) : State :=
  (s.ctxs.map Prod.fst).foldl (fun (t : State) c => t.loseCtx c ds) s

/-- Write a redone step's inputs again, and send its members theirs. -/
def State.resendInputs (s : State) (t : LearnStep) : State :=
  match s.ctx t.ctx, s.learnPackage t.ctx t.plan.package with
  | some x, some p => (s.writeInputs t.ctx x t.plan (p.area .inputs).1).sendInputs t.ctx x t.plan (p.area .inputs).1
  | _, _ => s

/-- Redo a step from pass 0 after its rollback, once the tests of R515 have ended; a second one ends the step (R513). -/
def State.redoLearn (s : State) (t : LearnStep) : State :=
  if t.redo then s.failLearn t stDisagree
  else
    let base := s.brdStamp + 1
    let s0 := ((s.stopLearn t).tellAll kmRollback t.fields).writeWatch t.ctx t.plan.step (s.allWatches t)
    let s1 : State := { s0 with
      brdStamp := s.brdStamp + BitVec.ofNat 32 (t.passes + 1)
      guard := { s.guard with runs := addHigh s.guard.runs 1 } }
    let fresh := LearnStep.accepted t.ticket t.lc t.plan base t.passes t.slots t.units t.scales 0
    let t1 := { fresh with redo := true, redoing := true, origins := t.origins, guarded := guardStart (s.spotMicros t.ctx t.plan),
                           faultAt := t.faultAt }
    let s2 := ((s1.learnStamp base).tellAll kmStepStart t1.fields).resendInputs t
    let r := s2.orderReplays t1 ((s.spotMicros t.ctx t.plan).map fun g => (g, 1))
    r.1.setLearn r.2

end Sys2Proof.Machine
end

