-- ==== Sys2Proof/Machine/LearnRun.lean ====
section
/-! DEFINITION. The commands of steps across the group: a learning step's submission, passes, reports, replays and commit (R342 to
R374, R438 to R444, R498 to R517), and the start and end of core steps (Table 7.4, R139, R203, R439, R440). -/

namespace Sys2Proof.Machine

/-! ### Submission (R342, R352) -/

/-- Accept a learning step whose plan has passed its checks: stash units are mapped and K set (R352), the scales of learning-only tensors are
fixed (R91, R94), and the inputs are written and sent (R344). -/
def State.acceptLearn (s : State) (t : Ticket) (x : Ctx) (p : Plan) (lp : Package) (m : List Byte) : State :=
  let stash := s.mapStash t.ctx lp
  let k := stashSlots lp stash.1.length
  let passes := s.localCount p + k
  let scales := (s.learnerOf t.ctx).stepScales lp
  let step := LearnStep.accepted t (msgLc m) p (s.brdStamp + 1) passes k stash.1 scales 0
  if k = 0 then s.completeLearn step stStash
  else
    let base := (lp.area .inputs).1
    let s0 := stash.2.setLearner t.ctx fun l => { l with scales := scales }
    let s1 := (({ s0 with brdStamp := s.brdStamp + BitVec.ofNat 32 (passes + 1) } : State).learnStamp step.base).writeInputs t.ctx x p base
    let gs := s1.spotMicros t.ctx p
    let r := ((s1.tellAll kmStepStart (leBytes 2 t.ctx ++ m)).sendInputs t.ctx x p base).orderReplays
      { step with guarded := guardStart gs } (gs.map fun g => (g, 1))
    { r.1 with learnSteps := r.1.learnSteps ++ [r.2] }

/-- LEARN_STEP (R342): a plan that fails a check ends the step with one record. -/
def State.takeLearnStep (s : State) (m : List Byte) (t : Ticket) : State :=
  match s.ctx t.ctx with
  | none => s.reject t.mb m stNotPermitted
  | some x =>
    let a := field m 32 8
    match s.checkPlan t.ctx x a with
    | .error st =>
      let b := (s.planBytes t.ctx x a).getD []
      s.answer t ⟨2, field b 8 4, field b 16 4, 0, st, false, true, 0, 0⟩
    | .ok p => match s.learnPackage t.ctx p.package with
      | some lp => s.wake.acceptLearn t x p lp m
      | none => s.reject t.mb m stNotPermitted

/-- The command of code 0x0050, from a mailbox. -/
def execLearnStep (mb : Nat) (s : State) : Host.Outcome State Fault Refusal := .next (s.serve mb 0x0050 State.takeLearnStep)

/-! ### The guard on the queen (R511 to R513, Table 13.1) -/

/-- The guard's record with the flagged micro-batches of every report added. -/
def LearnStep.withFlagged (t : LearnStep) : LearnStep :=
  let found := ((t.staged.flatMap fun r => r.2.micros).filter MicroReport.flagged).map MicroReport.micro
  { t with guarded := t.guarded ++ guardStart (found.filter fun g => !t.guarded.any fun x => x.micro == g) }

/-- The open decisions of a step, by micro-batch with the runs ordered so far. -/
def State.openDecisions (s : State) (t : LearnStep) : List (GuardedMicro × MicroDecision) :=
  (t.guarded.filter fun x => !x.clean).map fun x =>
    (x, decideMicro (((s.runZero t x.micro).map Prod.snd).getD ⟨true, 0, 0, []⟩) x.runs)

/-- Enter the commit journal, then send COMMIT, with the step's maxima over every module (R92), and apply it here (R370, R442, R549). -/
def State.sendCommit (s : State) (t : LearnStep) : State :=
  let t1 := { t with commitSent := true }
  let s0 : State := { s with keeper := { s.keeper with journal := s.keeper.journal ++ [(t.ctx, t.plan.step)] } }
  let maxima := s.stepMaxima t1
  let s1 := ((s0.tellAll kmCommit (t.fields ++ maxima.flatMap fun w => leBytes 4 w.1 ++ leBytes 4 w.2.toNat)).setLearn t1).applyCommit t1 maxima
    (t1.staged.map fun r => r.2.masterMax)
  if s.groupSize ≤ 1 then s1.finishCommit t1 else s1

/-- Take the decisions that are clean: run 1's cores become suspect where run 2 overruled it. -/
def State.takeClean (s : State) (t : LearnStep) (ds : List (GuardedMicro × MicroDecision)) : State × LearnStep :=
  ds.foldl (fun (acc : State × LearnStep) d =>
    match d.2 with
    | .clean suspects =>
      let s1 := suspects.foldl (fun (u : State) k => u.suspectMicroRun t d.1.micro k) acc.1
      (if suspects.isEmpty then s1 else s1.countMinority 1 t.ctx,
        { acc.2 with guarded := acc.2.guarded.map fun x => if x.micro == d.1.micro then { x with clean := true } else x })
    | _ => acc) (s, t)

/-- Decide the guarded micro-batches of a step whose reports are all in: disagreement ends it, a minority of run 0 redoes it, more
runs are ordered, or it commits (R511 to R513, R372). -/
def State.decideLearn (s : State) (t : LearnStep) : State :=
  let ds := s.openDecisions t
  let r := s.takeClean t ds
  let bad := (ds.filter fun d => d.2 == .disagree).map fun d => d.1.micro
  let again := (ds.filter fun d => d.2 == .redo).map fun d => d.1.micro
  let more := ds.filterMap fun d => match d.2 with
    | .needs k => if d.1.asked < k then some (d.1.micro, k) else none
    | _ => none
  if !bad.isEmpty then
    let s1 := bad.foldl (fun (u : State) g =>
      ([0, 1, 2].foldl (fun (v : State) k => v.suspectMicroRun t g k) u).countNoMajority t.ctx) r.1
    s1.failLearn { r.2 with origins := bad.foldl ninsert r.2.origins } stDisagree
  else if !again.isEmpty then
    let s1 := again.foldl (fun (u : State) g => (u.suspectMicroRun t g 0).countMinority 0 t.ctx) r.1
    s1.redoLearn { r.2 with origins := again.foldl ninsert r.2.origins }
  else if r.2.guarded.all GuardedMicro.clean then
    if t.staged.any fun x => x.2.nonfinite then r.1.failLearn r.2 stNonfinite else r.1.sendCommit r.2
  else
    let o := r.1.orderReplays r.2 more
    o.1.setLearn o.2

/-- The first status that a position's report ends the step with (Tables 13.4, 13.5), 0 where none does. -/
def LearnStep.reported (t : LearnStep) : Nat := ((t.staged.map fun r => r.2.status).find? fun st => st != 0).getD 0

/-- What the queen does with a step whose reports or results have changed. -/
def State.guardLearn (s : State) (t : LearnStep) : State :=
  if t.commitSent || !s.isQueen then s.setLearn t
  else if s.halted && t.status == 0 then s.failLearn t stLinkDown
  else if t.status ≠ 0 then if s.mayRollBack t then s.rollBack t t.status else s.setLearn t
  else if t.reported ≠ 0 then s.failLearn t t.reported
  else if t.faulted then if s.mayRollBack t then s.redoLearn t else s.setLearn t
  else if t.staged.length < s.groupSize then s.setLearn t
  else if t.staged.any fun r => !r.2.clean && !r.2.nonfinite then s.redoLearn t
  else s.decideLearn ({ t with state := .staged } : LearnStep).withFlagged

/-- STAGED: the queen takes a position's report, its own once its passes and replays have ended, and writes the log-probabilities that the
position's forward passes computed (R367, R369, R441); a DAMAGED member makes the learner DAMAGED (R518). -/
def execStaged (pos epoch ctx step : Nat) (r : StagedReport) (s : State) : Host.Outcome State Fault Refusal :=
  .next (match s.learnStep ctx with
  | none => s
  | some t =>
    if s.isQueen && epoch == s.cascade.epoch.toNat && step == t.plan.step && decide (pos < s.groupSize) &&
        (tget t.staged pos).isNone && !t.commitSent && (pos != s.position || t.passesDone) then
      let r' := if pos = s.position then s.ownReport t else r
      let s1 := if r'.damaged then s.setLearner ctx fun l => { l with damaged := true } else s
      (s1.writeLogp ctx t.plan pos r'.logps).guardLearn { t with staged := tset t.staged pos r' }
    else s)

/-- Take the result of run `k` of a micro-batch. A faulted run's cores become suspect (R516). -/
def State.takeReplay (s : State) (t : LearnStep) (g k : Nat) (run : Run) : State :=
  let s1 := if run.faulted then s.suspectMicroRun t g k else s
  s1.guardLearn { t with guarded := t.guarded.map fun x => if x.micro == g then { x with runs := x.runs ++ [run] } else x }

/-- REPLAY_RESULT: the queen takes the result of a run it ordered (R441, R511). -/
def execReplayResult (pos epoch ctx micro run : Nat) (faulted : Bool) (fp : Long) (flags : BitVec 7) (s : State) :
    Host.Outcome State Fault Refusal :=
  .next (match s.learnStep ctx with
  | none => s
  | some t =>
    if s.isQueen && epoch == s.cascade.epoch.toNat && pos == s.replayPos micro run && pos != s.position &&
        t.guarded.any (fun x => x.micro == micro && x.runs.length + 1 == run && decide (run ≤ x.asked)) then
      s.takeReplay t micro run ⟨faulted, fp, flags, []⟩
    else s)

/-- G_SUMSQ of every layer in increasing layer number: this module's own where the layer's chain ends here, the others as members send
them. -/
def State.layerSumsq (s : State) (t : LearnStep) (sent : Table Word) : List Word :=
  match s.learnPackage t.ctx t.plan.package with
  | none => []
  | some p =>
    let own := s.ownNorms t.ctx p
    p.layers.map fun l => match own.find? fun n => n.layer == l with
      | some n => n.gSumsq
      | none => tgetD sent l 0

/-- CLIP_FACTOR: after the last pass the queen folds the layers' G_SUMSQ and sends the factor to every member (R364). -/
def execClipFactor (ctx : Nat) (gSumsq : Table Word) (s : State) : Host.Outcome State Fault Refusal :=
  .next (match s.learnStep ctx with
  | none => s
  | some t =>
    if s.isQueen && t.plan.clip && t.pass == t.passes && !t.running && t.clipFactor.isNone then
      let f := BitVec.ofNat 32 (clipOf (foldSumsq (s.layerSumsq t gSumsq)) t.plan.clipAt.toNat)
      (s.setLearn { t with clipFactor := some f }).tellAll kmClip (leBytes 2 ctx ++ leBytes 4 f.toNat)
    else s)

/-- ACK: with every member's acknowledgement of COMMIT, the queen finishes the commit (R370). -/
def execAck (pos epoch ctx step : Nat) (s : State) : Host.Outcome State Fault Refusal :=
  .next (match s.learnStep ctx with
  | none => s
  | some t =>
    if s.isQueen && t.commitSent && epoch == s.cascade.epoch.toNat && step == t.plan.step && s.others.contains pos then
      let t1 := { t with acks := ninsert t.acks pos }
      if s.others.all fun p => t1.acks.contains p || s.cascade.lost.contains p then (s.setLearn t1).finishCommit t1 else s.setLearn t1
    else s)

/-! ### A member's part (R441 to R444) -/

/-- REPLAY: a member will make a run after its own passes (R443). -/
def execReplay (epoch ctx micro run : Nat) (s : State) : Host.Outcome State Fault Refusal :=
  .next (match s.learnStep ctx with
  | none => s
  | some t =>
    if !s.isQueen && epoch == s.cascade.epoch.toNat && !t.orders.contains (micro, run) then
      s.setLearn { t with orders := t.orders ++ [(micro, run)] }
    else s)

/-- Whether a member may apply COMMIT or ROLLBACK (R444). -/
def State.acceptsCommit (s : State) (t : LearnStep) (step base : Nat) : Bool :=
  t.state == .staged && step == t.plan.step && step == (s.learnerOf t.ctx).lastStep + 1 && base == t.base.toNat

/-- Answer COMMIT or ROLLBACK with REJECTED_BAD_COMMAND (R444). -/
def State.refuseCommit (s : State) (ctx step : Nat) : State :=
  s.tell s.queenPos kmRefuse (leBytes 2 ctx ++ leBytes 4 step ++ leBytes 2 stBad)

/-- COMMIT on a member, with the step's maxima over every module (R92, R370, R444). -/
def execCommit (epoch ctx step : Nat) (base : CommitBody) (s : State) : Host.Outcome State Fault Refusal :=
  .next (if s.isQueen || epoch != s.cascade.epoch.toNat then s
  else match s.learnStep ctx with
    | none => s.refuseCommit ctx step
    | some t =>
      if s.acceptsCommit t step base.base then
        ((((s.applyCommit t base.maxima [(s.ownReport t).masterMax]).eraseLearn ctx).tell s.queenPos kmAck t.fields).sweepVersions
          ctx).retireDue.settleReleases
      else s.refuseCommit ctx step)

/-- ROLLBACK on a member (R371, R444). -/
def execRollback (epoch ctx step base : Nat) (s : State) : Host.Outcome State Fault Refusal :=
  .next (if s.isQueen || epoch != s.cascade.epoch.toNat then s
  else match s.learnStep ctx with
    | none => s.refuseCommit ctx step
    | some t =>
      if s.acceptsCommit t step base then
        ((((s.stopLearn t).eraseLearn ctx).tell s.queenPos kmAck t.fields).sweepVersions ctx).retireDue.settleReleases
      else s.refuseCommit ctx step)

/-- The content of a STAGED message (Table 11.7), after the step's fields. -/
def reportBytes (r : StagedReport) : List Byte :=
  leBytes 1 (b2n r.clean) ++ leBytes 2 r.status ++ leBytes 1 (b2n r.damaged) ++ leBytes 1 (b2n r.nonfinite) ++ leBytes 1 r.flags.toNat ++
    r.watches.flatMap (watchRecord 0) ++ (r.norms.flatMap fun n => normRecord 0 n.layer n false 0) ++
    (r.micros.flatMap fun m => leBytes 4 m.micro ++ leBytes 8 m.fp.toNat ++ leBytes 1 m.flags.toNat ++ leBytes 1 (b2n m.flagged)) ++
    (r.masterMax.flatMap fun e => leBytes 4 e.1 ++ leBytes 4 e.2.toNat) ++
    (r.logps.flatMap fun e => leBytes 4 e.1 ++ e.2.flatMap fun w => leBytes 4 w.toNat)

/-- A member whose passes have ended reports STAGED. -/
def State.reportStaged (s : State) (t : LearnStep) : State :=
  if !s.isQueen && t.passesDone && t.state == .running then
    (s.setLearn { t with state := .staged }).tell s.queenPos kmStaged (t.fields ++ reportBytes (s.ownReport t))
  else s.setLearn t

/-! ### Core steps of a learning step (R346, R349, R363, R438) -/

/-- Where the inputs of a micro-batch of this module lie: one after another from the package's input area on. -/
def State.inputAt (s : State) (t : LearnStep) (p : Package) (g : Nat) : Nat :=
  (p.area .inputs).1 + 32 * (((t.plan.localMicros s.groupSize s.position).filter fun n => decide (n < g)).map fun n =>
    ((t.plan.micros[n]?).map MicroBatch.records).getD 0).sum

/-- The numbers of a micro-batch in a descriptor (R45, R349, R350): its global number, rows and tokens of a row, where its inputs lie, and the
bases of the stash units that hold its layers' block inputs. -/
def State.microNumbers (s : State) (t : LearnStep) (p : Package) (at' g : Nat) : List Nat :=
  let m := (t.plan.micros[g]?).getD ⟨0, []⟩
  [g, m.rows, m.rowTokens, at'] ++ (List.range p.stashLayers).map fun l =>
    (t.units[stashUnit t.slots p.stashLayers (g / s.groupSize) l]?).getD 0

/-- The numbers of the buckets in a descriptor (R335, R360): each one's layer, first element, size, P_b and the elements of this module's
piece. -/
def State.bucketNumbers (s : State) (p : Package) : List Nat :=
  p.buckets.flatMap fun b => [b.layer, b.first, b.size, b.piece s.groupSize, b.pieceSize s.groupSize s.position]

/-- Bytes of one slot of the receive area: the largest pieces of every bucket in FP32. -/
def State.slotBytes (s : State) (p : Package) : Nat := (p.buckets.map fun b => 4 * b.piece s.groupSize).sum

/-- The receive slots of a round (R360), one for each sender: slot round mod 2, then the sender's position. -/
def State.receiveSlots (s : State) (p : Package) (round : Nat) : List Nat :=
  (List.range s.groupSize).map fun q => (p.area .receive).1 + (round % 2 * s.groupSize + q) * s.slotBytes p

/-- The numbers of a learning core step's descriptor: step, pass, the bank that holds the committed masters (R337), position, group and K;
the micro-batches of the pass, each with the place of its inputs, with the step's scales of learning-only tensors, buckets, the receive slots of the round it folds (R361), and
the clip factor once it stands (R364). -/
def State.passNumbers (s : State) (t : LearnStep) (p : Package) (micros : List (Nat × Nat)) : List Nat :=
  [t.plan.step, t.pass, b2n (s.learnerOf t.ctx).cur, s.position, s.groupSize, t.slots, micros.length] ++
    (micros.flatMap fun x => s.microNumbers t p x.2 x.1) ++ (t.scales.flatMap fun e => [e.1, (e.2 + 256).toNat]) ++ s.bucketNumbers p ++
    s.receiveSlots p (t.pass - t.slots) ++ (t.clipFactor.map BitVec.toNat).toList

/-- The j of a learning core step for a tensor (R66, R91, R338): that of the plan's version, or the one fixed at the step's start. -/
def State.learnScale (s : State) (t : LearnStep) (tensor : Nat) : Option Int :=
  s.versionScale t.ctx t.plan.version tensor <|> tget t.scales tensor

/-- Micro-batches, by global number, that pass `n` of this module holds (R349). -/
def State.passMicros (s : State) (t : LearnStep) (n : Nat) : List Nat :=
  let count := s.localCount t.plan
  ((if n < count then [n] else []) ++ (if t.slots ≤ n && decide (n < t.passes) then [n - t.slots] else [])).map fun k =>
    k * s.groupSize + s.position

/-- Start one core step of a learning step. -/
def State.runLearn (s : State) (t : LearnStep) (p : Package) (index k : Nat) (stamp : Word) (desc : List Nat) : State :=
  let draw (c : Nat) : Nat := if bitAt p.bCombs.toNat c then t.plan.step else t.plan.version
  let scalar (c n : Nat) : Nat :=
    if n < 32 then Config.stepScalar desc c n
    else match t.plan.hypers[n - 32]? with
      | some h => h.toNat
      | none => Config.stepScalar desc c n
  let t1 := { t with state := if t.state = .accepted then .running else t.state, running := true, fp := 0, lastStamp := stamp, redoing := false }
  let s1 : State := { s.setLearn t1 with guard := { s.guard with fp := 0, run := k } }
  let s2 := s1.startStamp stamp
  -- a pass knows the stamp after its own: the next pass's, or the optimizer pass's
  let s3 := if t.replaying.isNone && decide (t.pass < t.passes) then s2.learnStamp (stamp + 1) else s2
  (s3.startRun p t.ctx (s.creg t.ctx).combs index k stamp desc draw scalar (s.learnScale t)).releaseHeld

/-- What starts with pass 0: the send area, which holds the frozen rows' +0, is zeroed (R358), and the step is the last one started. -/
def State.firstPass (s : State) (t : LearnStep) (p : Package) : State :=
  let a := p.area .send
  let s1 := if p.tensors.any fun x => x.kind == .partlyTrained then s.zeroOwned t.ctx a.1 a.2 else s
  s1.setLearner t.ctx fun l => { l with startedStep := t.plan.step }

/-- Start the next core step of a learning step: pass 0 once the module's inputs are there (R344), the optimizer pass once the clip factor
stands (R364), any other pass, or a replay once the input that its order brings is there. -/
def State.startLearn (s : State) (t : LearnStep) (p : Package) : State :=
  if t.pass ≤ t.passes then
    if (t.pass = 0 ∧ t.inputsDue ≠ 0) ∨ (t.pass = t.passes ∧ t.plan.clip = true ∧ t.clipFactor = none) then s
    else
      let s1 := if t.pass = 0 then s.firstPass t p else s
      s1.runLearn t p (if t.pass = t.passes then 1 else 0) 0 (t.base + BitVec.ofNat 32 t.pass)
        (s1.passNumbers t p ((s1.passMicros t t.pass).map fun g => (g, s1.inputAt t p g)))
  else match t.orders with
    | [] => s
    | (g, k) :: _ =>
      let stamp := s.brdStamp + 1
      let input := tgetD t.replayInputs g []
      let base := (p.area .inputs).1
      if input.length ≠ 32 * ((t.plan.micros[g]?).map MicroBatch.records).getD 0 then s
      else
        let s1 : State := { s with brdStamp := stamp, guard := { s.guard with runs := addLow s.guard.runs 1 } }
        (s1.writeOwned t.ctx base input).runLearn { t with replaying := some (g, k) } p 0 (s.replayRotation g k) stamp
          (s.passNumbers t p [(g, base)] ++ [k])

/-- Whether a core step may start on a mask: the Keeper runs, the module is in P0, the group is not halted, no core is under test. -/
def State.mayStart (s : State) (mask : Word) : Bool :=
  s.keeper.mode == .running && s.keeper.powerState == 0 && !s.halted && !s.guard.cfgLost && s.guard.testing.all fun p => !bitAt mask.toNat (combOf p)

/-- The fields of a generation step's start message (R277, R439): context, stamp and the descriptor's numbers, the tokens chosen at the
previous step among them. -/
def GenStep.message (t : GenStep) : List Byte :=
  leBytes 2 t.ctx ++ leBytes 4 t.stamp.toNat ++ t.numbers.flatMap fun n => leBytes 4 n

/-- STEP_START: the built generation step of a context, or the next core step of its learning step, starts on every core of the
mask (R139), once no invalidation of the context's translations is in progress (R221). A redo waits until every suspect core has been
tested (R515). -/
def execStepStart (ctx : Nat) (s : State) : Host.Outcome State Fault Refusal :=
  .next (if !s.mayStart (s.creg ctx).combs || s.invalWaits ctx then s
  else match s.genStep ctx with
    | some t =>
      if t.phase == .built then ((s.startStamp t.stamp |>.tellAll kmStepStart t.message).startGenRun t).releaseHeld
      else s
    | none => match s.learnStep ctx with
      | none => s
      | some t => match s.learnPackage ctx t.plan.package with
        | none => s
        | some p =>
          if t.running || t.status != 0 || t.faulted || (t.redoing && !s.guard.suspects.isEmpty) || !s.combsIdle (s.creg ctx).combs then s
          else s.startLearn t p)

/-! ### The end of a core step (R203, R207, R516, R517) -/

/-- Whether a run on some cores has ended: every core has, or one is FAULTED. -/
def State.runEnded (s : State) (cores : List Nat) : Bool :=
  (cores.all fun p => (s.core p).ended) || cores.any fun p => (s.core p).mode == .faulted

/-- What a faulted pass leaves here (R516, R517): the status of a fault that no redo follows, 0 for one that a redo follows. The cores of a
run that no lost data explains become suspect. -/
def State.passFault (s : State) (t : LearnStep) (r : RunEnd) : State × Nat :=
  match fatalStatus r with
  | some st => (s, st)
  | none =>
    if bitAt r.bits.toNat faultMem then s.loseLearned t.ctx [s.memCtl.errAddr.toNat]
    else ((s.maskCores (s.creg t.ctx).combs).foldl State.suspect s, 0)

/-- A pass that faulted on the queen: a fatal fault or lost data ends the step, anything else redoes it. -/
def State.learnFault (s : State) (t : LearnStep) (r : RunEnd) : State :=
  let f := s.passFault t r
  if f.2 = 0 then f.1.guardLearn { t with faulted := true } else f.1.failLearn t f.2

/-- The end of a member's faulted pass: it makes no further pass and reports STAGED unclean, with the status of a fault that no redo
follows. -/
def State.memberFault (s : State) (t : LearnStep) (r : RunEnd) : State :=
  let f := s.passFault t r
  f.1.reportStaged { t with faulted := true, fatal := f.2, pass := t.passes + 1, orders := [] }

/-- What the optimizer pass leaves of one element in bank 1 − CUR beside its frames' writes: an extended master and its compensation word from
the update its frames wrote (R112); a frozen row's or padding element's copy, with its state (R363). -/
def State.finishElem (s : State) (c : Nat) (p : Package) (cur : Bool) (x : Tensor × Nat × Nat) : State :=
  let copy (t : State) (src dst n : Nat) : State := t.writeOwned c dst (t.readCtx c src n)
  let m (b : Bool) : Nat := p.masterAt b x.1 x.2.1
  let k (b : Bool) : Nat := p.compensationAt b x.1 x.2.1
  if x.1.trains x.2.1 then
    if p.extended then
      let r := updateMaster (s.word c (m cur)).toNat (BitVec.ofNat 16 (field (s.readCtx c (k cur) 2) 0 2)).toInt
        (s.word c ((p.area .updates).1 + 4 * x.2.2)).toNat
      (s.writeOwned c (m !cur) (leBytes 4 r.1)).writeOwned c (k !cur) (leBytes 2 (BitVec.ofInt 16 r.2).toNat)
    else s
  else
    let s1 := copy (copy s (m cur) (m !cur) 4) (p.stateAt cur x.1 x.2.1) (p.stateAt (!cur) x.1 x.2.1) p.stateBytes
    if p.extended then copy s1 (k cur) (k !cur) 2 else s1

/-- The end of the optimizer pass on this module's elements (R51, R65, R112, R363). -/
def State.finishOptimizer (s : State) (t : LearnStep) : State :=
  match s.learnPackage t.ctx t.plan.package with
  | none => s
  | some p => (s.ownTrained p).foldl (fun (u : State) x => u.finishElem t.ctx p (s.learnerOf t.ctx).cur x) s

/-- The end of a core step of a learning step. -/
def State.learnDone (s : State) (t : LearnStep) (r : RunEnd) : State :=
  let cores := s.maskCores (s.creg t.ctx).combs
  let s1 := if r.faulted then s.clearCores cores else s
  let at' := if t.faultAt == 0 then r.at' else t.faultAt
  match t.replaying with
  | some (g, k) =>
    let t1 := { t with running := false, replaying := none, orders := t.orders.drop 1, faultAt := at' }
    if s.isQueen then s1.takeReplay t1 g k ⟨r.faulted, t.fp, r.flags, cores⟩
    else
      let s2 := if r.faulted then cores.foldl State.suspect s1 else s1
      (s2.tell s.queenPos kmReplayResult (leBytes 2 t.ctx ++ leBytes 4 g ++ leBytes 1 k ++ leBytes 8 t.fp.toNat)).reportStaged t1
  | none =>
    let t1 := { t with
      running := false
      pass := t.pass + 1
      flags := t.flags ++ [r.flags]
      fps := t.fps ++ [t.fp]
      watches := t.watches ++ [r.watches]
      faultAt := at'
      origins := if r.faulted then (s.passMicros t t.pass).foldl ninsert t.origins else t.origins }
    if r.faulted then if s.isQueen then s1.learnFault t1 r else s1.memberFault t1 r
    else (if t.pass = t.passes then s1.finishOptimizer t else s1).reportStaged t1

/-- A member's report on a generation run that has ended here (R439, R440, Tables 13.4 and 13.5). -/
def State.endReport (s : State) (t : GenStep) (r : RunEnd) : StepEndReport :=
  let open' := r.faulted && (fatalStatus r).isNone
  let mem := open' && bitAt r.bits.toNat faultMem
  let places := if mem then s.errorPlaces t.ctx else []
  let package := mem && (s.packagesAt t.ctx [s.memCtl.errAddr.toNat]).contains t.package
  ⟨r.faulted, open' && !mem, t.fp, r.flags, r.watches,
    if package then stMem else if r.faulted then (fatalStatus r).getD 0 else 0, s.listsAt t.ctx places, s.versionsHit t.ctx places⟩

/-- The content of a STEP_END message after its stamp. -/
def endBytes (r : StepEndReport) : List Byte :=
  leBytes 8 r.fp.toNat ++ leBytes 1 r.flags.toNat ++ leBytes 1 (b2n r.faulted) ++ leBytes 1 (b2n r.suspect) ++
    leBytes 2 r.status ++ r.watches.flatMap (watchRecord 0) ++
    (r.lists ++ r.versions).flatMap (leBytes 4)

/-- STEP_CORES_DONE: the cores of a context's core step have ended; flags and watch summaries are combined (R203, R207), and a
member reports STEP_END (R439). -/
def execStepCoresDone (ctx : Nat) (s : State) : Host.Outcome State Fault Refusal :=
  .next (match s.genStep ctx with
  | some t =>
    let cores := s.maskCores t.mask
    if t.phase == .running && s.runEnded cores then
      let r := s.gather cores
      let s1 := s.setStep { t with
        phase := .coresDone, flags := r.flags, faultBits := r.bits, veuFaultBits := r.veuBits, watches := r.watches
        faultAt := if t.faultAt == 0 then r.at' else t.faultAt }
      if s.isQueen then s1
      else
        let report := s.endReport t r
        let s2 := if report.suspect then cores.foldl State.suspect s1 else s1
        (if r.faulted then s2.clearCores cores else s2).tell s.queenPos kmStepEnd (leBytes 4 t.stamp.toNat ++ endBytes report)
    else s
  | none => match s.learnStep ctx with
    | none => s
    | some t =>
      let cores := s.maskCores (s.creg ctx).combs
      if t.running && s.runEnded cores then s.learnDone t (s.gather cores) else s)

/-! ### Generation steps across the group (R439) -/

/-- STEP_END: the queen takes a member's report on the present run. -/
def execStepEnd (pos epoch stamp : Nat) (r : StepEndReport) (s : State) : Host.Outcome State Fault Refusal :=
  .next (match s.steps.find? fun t => t.stamp.toNat == stamp && (t.phase == .running || t.phase == .coresDone) with
  | none => s
  | some t =>
    if s.isQueen && epoch == s.cascade.epoch.toNat && s.others.contains pos && (tget t.ends pos).isNone then
      s.setStep { t with ends := tset t.ends pos r }
    else s)

/-- Clear the list entries of a slot beyond its committed length (R318). -/
def State.trimList (s : State) (i : Nat) : State :=
  let e := s.slot i
  match e.list with
  | none => s
  | some m => s.dropEntries e.ctx m true fun k => e.kvlen == 0 || decide ((e.kvlen - 1) / 64 < k)

/-- The step's slots that it did not close. -/
def State.openSlots (s : State) (t : GenStep) : List Nat :=
  (t.items.map WorkItem.slot).filter fun i => (s.slot i).used && (s.slot i).ctx == t.ctx && (s.slot i).state != .closing

/-- Drop a step: the entries of its slots beyond their committed lengths (R318), its page references, and the step itself; then what a
cancel or a mirror's failure has marked ends (R284, R291). -/
def State.dropStep (s : State) (t : GenStep) : State :=
  let is := s.openSlots t
  let s0 := is.foldl State.trimList s
  let s1 : State := { s0 with steps := s0.steps.filter fun o => o.ctx != t.ctx }
  is.foldl State.settleMarked (s1.setPool t.ctx (t.pages.foldl (fun p g => p.drop true g) (s1.pool t.ctx)).sweep)

/-- Apply one page order of the queen's build to a member's own pool (R439). -/
def State.applyOrder (s : State) (c : Nat) (o : PageOrder) : State :=
  match o.page with
  | none => s.dropEntry c o.list o.index true
  | some g =>
    let p := s.pool c
    let s1 := if (tget p.pages g).isNone then s.setPool c (p.setPage g ⟨1, false, false, false, false, ⟨0, 0, 0, 0⟩, []⟩) else s.setPool c (p.hold g)
    s1.applyGrant c ⟨o.list, o.index, g, o.copyOf⟩

/-- A member's generation step as its start message describes it. -/
def memberStep (ctx : Nat) (mask : Word) (lc : Bool) (run package version : Nat) (stamp : Word) (items : List WorkItem)
    (rows : List WorkRow) (tables : List (List Nat)) (pages : List Nat) : GenStep where
  ctx := ctx
  mask := mask
  package := package
  version := version
  stamp := stamp
  firstStamp := stamp
  lc := lc
  phase := .built
  items := items
  rows := rows
  tables := tables
  samples := []
  runs := List.replicate run ⟨false, 0, 0, []⟩
  fp := 0
  flags := 0
  faultBits := 0
  veuFaultBits := 0
  faultAt := 0
  ends := []
  past := []
  ending := []
  pages := pages
  adapters := []
  status := 0
  watches := []

/-- Start the generation step that the queen orders on this member: its previous step's references drop, page orders apply, and
the cores start. -/
def State.memberStart (s : State) (ctx : Nat) (stamp : Word) (lc : Bool) (run package version : Nat) (items : List WorkItem)
    (rows : List WorkRow) (tables : List (List Nat)) (pages : List PageOrder) : State :=
  let s1 := match s.genStep ctx with
    | some t => s.dropStep t
    | none => s
  let s2 := pages.foldl (fun (u : State) o => u.applyOrder ctx o) s1
  let gs := union [] (pages.filterMap PageOrder.page)
  let t := memberStep ctx (s.creg ctx).combs lc run package version stamp items rows tables gs
  let s3 : State := { s2.setPool ctx (gs.foldl KvPool.hold (s2.pool ctx)) with
    steps := s2.steps ++ [t], brdStamp := stamp
    cascade := { s2.cascade with next := stamp } }
  ((s3.startStamp stamp).startGenRun t).releaseHeld

/-- A member's part in a learning step that its queen has accepted: stash units are mapped, K set and scales fixed as on the queen; without
units for one slot it reports the stash status at once (R352). -/
def State.memberLearn (s : State) (ctx : Nat) (base : Word) (lc : Bool) (p : Plan) (lp : Package) : State :=
  let stash := s.mapStash ctx lp
  let k := stashSlots lp stash.1.length
  let passes := s.localCount p + k
  let scales := (s.learnerOf ctx).stepScales lp
  let t := LearnStep.accepted ⟨0, 0, 0, ctx⟩ lc p base passes k stash.1 scales (p.inputBytes s.groupSize s.position)
  let s1 := (if k = 0 then s else stash.2).setLearner ctx fun l => { l with scales := scales }
  let s2 : State := { s1 with
    learnSteps := s1.learnSteps ++ [t]
    brdStamp := base + BitVec.ofNat 32 passes
    cascade := { s1.cascade with next := base } }
  if k = 0 then s2.reportStaged { t with state := .running, faulted := true, fatal := stStash, pass := passes + 1 } else s2

/-- STEP_START_MESSAGE: a member takes the queen's start message of a generation step, or of a learning step whose passes follow by
STEP_START (R438, R439); a member in P1 returns to P0 for it (R560). -/
def execStepStartMessage (epoch stamp ctx : Nat) (order : StepOrder) (s : State) : Host.Outcome State Fault Refusal :=
  .next (if s.isQueen || epoch != s.cascade.epoch.toNat || s.cascade.state != .active || (s.ctx ctx).isNone ||
      !s.wake.mayStart (s.creg ctx).combs || s.invalWaits ctx then s
  else match order with
    | .generation lc run package version items rows tables pages =>
      if s.steps.any fun t => t.ctx == ctx && t.phase == .running then s
      else s.wake.memberStart ctx (BitVec.ofNat 32 stamp) lc run package version items rows tables pages
    | .learning lc plan =>
      let p := parsePlan plan
      match s.learnPackage ctx p.package with
      | none => s
      | some lp =>
        if (s.learnStep ctx).isSome then s
        else
          s.wake.memberLearn ctx (BitVec.ofNat 32 stamp) lc p lp)

end Sys2Proof.Machine
end

