-- ==== Sys2Proof/Machine/Admit.lean ====
section
/-! DEFINITION. Admission (R256, R260 to R263, R322, R323, R330, R479, R480) and the other commands of sequences, handles and super
entries (R257, R286, R294, R321, R323). -/

namespace Sys2Proof.Machine

/-! ### Outstanding reads (R453) -/

/-- The oldest outstanding read of a connection. -/
def Qp.firstRead (q : Qp) : Option Unacked := q.unacked.find? fun u => u.op.isRead

/-- The purpose of an outbound operation, where it is a read. -/
def OutOp.why : OutOp → Option ReadPurpose
  | .read _ _ _ why => some why
  | .write _ _ _ => none

/-- The purpose of the oldest outstanding read of a connection, and the state once its response has come: the response acknowledges
what was posted before it. -/
def State.takeRead (s : State) (n : Nat) : Option (ReadPurpose × State) :=
  match s.qp n with
  | none => none
  | some q =>
    match q.firstRead with
    | none => none
    | some u =>
      match u.op.why with
      | none => none
      | some why =>
        let rest := (q.unacked.dropWhile fun x => !x.op.isRead).drop 1
        some (why, (s.setQp n { q with unacked := rest, tries := 0 }).pump n)

/-! ### Fields of ADMIT (Table 12.14) -/

/-- Flag bit `i` of an ADMIT. -/
def adFlag (m : List Byte) (i : Nat) : Bool := bitAt (field m 40 2) i
/-- SEQ_ID. -/
def adSeq (m : List Byte) : Long := BitVec.ofNat 64 (field m 32 8)
/-- PACKAGE. -/
def adPackage (m : List Byte) : Nat := field m 43 1
/-- ADAPTER. -/
def adAdapter (m : List Byte) : Nat := field m 44 2
/-- TOKENS. -/
def adTokens (m : List Byte) : Nat := field m 48 4
/-- MAX_NEW. -/
def adMaxNew (m : List Byte) : Nat := field m 52 4
/-- HANDLE. -/
def adHandleBits (m : List Byte) : Nat := field m 88 8
/-- SCORE_TARGET. -/
def adTargetSeq (m : List Byte) : Long := BitVec.ofNat 64 (field m 96 8)

/-- Whether an ADMIT names a handle of another context. -/
def adForeign (c : Nat) (m : List Byte) : Bool := adFlag m 2 && handleCtx (adHandleBits m) != c

/-- The handle of this context that an ADMIT names. -/
def State.adHandle (s : State) (c : Nat) (m : List Byte) : Option Handle :=
  if adFlag m 2 && !adForeign c m then (s.pool c).handle (adHandleBits m) else none

/-- The super entry that a scoring ADMIT scores. -/
def State.adTarget (s : State) (c : Nat) (m : List Byte) : Option SupEntry :=
  if adFlag m 3 then s.super c (adTargetSeq m) else none

/-- PROMPT_LEN: the handle's N with TOKENS, or the length of the scored sequence. -/
def State.adPromptLen (s : State) (c : Nat) (m : List Byte) : Nat :=
  match s.adTarget c m with
  | some x => x.promptLen + x.genLen
  | none => adTokens m + ((s.adHandle c m).map Handle.length).getD 0

/-- The prompt (R263, R322), `given` being the tokens that ADMIT supplies. -/
def State.adPrompt (s : State) (c : Nat) (m : List Byte) (given : List Nat) : List Nat :=
  match s.adTarget c m with
  | some x => x.prompt ++ x.records.map TokenRec.token
  | none => match s.adHandle c m with
    | some h => ((s.pool c).listTokens h.list (pagesOf h.length)).take h.length ++ given
    | none => given

/-! ### Checks (R480, Table 7.3) -/

/-- Whether `n` bytes at an offset lie in a registration of a context that grants the accesses. -/
def State.regCovers (s : State) (c reg off n : Nat) (write read : Bool) : Bool :=
  s.windowFit (c + 1) ⟨reg, off, n⟩ write read 0

/-- Check 1: the ranges of Table 7.1 and the cases of R480 and R323. -/
def State.adRanges (s : State) (c : Nat) (m : List Byte) : Bool :=
  decide (field m 64 2 ≤ 4096) && (decide (adAdapter m ≤ 4095) || adAdapter m == 0xFFFF) &&
  (!adFlag m 1 || (field m 72 8 % 4096 == 0 && field m 80 8 % 4 == 0 && s.regCovers c (field m 68 4) (field m 72 8) 4096 true true &&
    s.regCovers c (field m 68 4) (field m 80 8) 4 true true)) &&
  (field m 136 4 == inlinePrompt || s.regCovers c (field m 136 4) (field m 144 8) (4 * adTokens m) false true) &&
  (if adFlag m 3 then adTokens m == 0 && !adFlag m 2 && adMaxNew m == 0
   else adFlag m 2 || adTokens m != 0) &&
  (!adFlag m 2 || adForeign c m || (s.adHandle c m).isSome)

/-- Check 2: TEMP is 0 or in [2⁻¹⁶, 2¹⁶], TOP_P in (0, 1]. -/
def adSampling (m : List Byte) : Bool :=
  let t := field m 56 4
  let p := field m 60 4
  (t % 2 ^ 31 == 0 || (decide (0x37800000 ≤ t) && decide (t ≤ 0x47800000))) && decide (0 < p) && decide (p ≤ 0x3F800000)

/-- Check 4: length and depth limits. -/
def State.adLimits (s : State) (c : Nat) (m : List Byte) : Bool :=
  let n := s.adPromptLen c m + adMaxNew m
  decide (n ≤ 1048576) && match s.packageAt c (adPackage m) with
    | some p => decide (n ≤ p.ctxLimit) && decide (field m 42 1 ≤ p.draftDepth)
    | none => true

/-- Check 7: the class, the package's kind, and a handle of another context. -/
def State.adPermitted (s : State) (c : Nat) (m : List Byte) : Bool :=
  (!adFlag m 0 || bitAt (s.creg c).cfg.toNat 17) && !adForeign c m &&
  match s.packageAt c (adPackage m) with
  | some p => p.kind == (if adFlag m 3 then .reward else .generation)
  | none => false

/-- Check 8: the adapter is resident for the context. -/
def State.adResident (s : State) (c : Nat) (m : List Byte) : Bool :=
  adAdapter m == 0xFFFF || (s.currentOf c (.adapter (adAdapter m)) 0).isSome

/-- Where a sequence's super entry starts; 0 for a scoring sequence, which has none. -/
def State.adSuperPlace (s : State) (c : Nat) (m : List Byte) : Option Nat :=
  if adFlag m 3 then some 0 else (s.creg c).superPlace (entryBytes (s.adPromptLen c m) (adMaxNew m))

/-- The lowest free slot of the Brood Table (R256). -/
def State.freeSlotNumber (s : State) : Option Nat := lowestFree 16384 s.usedSlots

/-- Whether check 9 passes: a slot, a list (R302), room in the super; the context must be enabled to have slots. -/
def State.adRoom (s : State) (c : Nat) (m : List Byte) : Bool :=
  bitAt (s.creg c).cfg.toNat 16 && s.freeSlotNumber.isSome && (s.freeList c).isSome && (s.adSuperPlace c m).isSome

/-- The status of the first check that fails (R261), then R330's. -/
def State.adCheck (s : State) (c : Nat) (m : List Byte) : Option Nat :=
  if !s.adRanges c m || (!adFlag m 3 && !adForeign c m && s.adPromptLen c m == 0) then some stBad
  else if !adSampling m then some stBad
  else if decide (field m 60 4 < 0x3F800000) && field m 64 2 == 0 then some stBad
  else if !s.adLimits c m then some stBad
  else if (s.findSlot c (adSeq m)).isSome || (s.super c (adSeq m)).isSome then some stBad
  else if (adMaxNew m == 0 && !adFlag m 3) || (adFlag m 3 && !(s.adTarget c m).any SupEntry.ready) then some stBad
  else if !s.adPermitted c m then some stNotPermitted
  else if !s.adResident c m then some stVersionGone
  else if !s.adRoom c m then some stCapacity
  else if (s.adHandle c m).any Handle.damaged then some stMem
  else none

/-! ### Acceptance -/

/-- The pages that a handle's full pages cover (R322). -/
def State.adHeld (s : State) (c : Nat) (m : List Byte) : List Nat :=
  match s.adHandle c m with
  | some h => (List.range (h.length / 64)).filterMap fun k => tget ((s.pool c).list h.list) k
  | none => []

/-- The slot an admission takes, its list and super entry to be set. -/
def State.adSlot (s : State) (c : Nat) (m : List Byte) (t : Ticket) (given : List Nat) (list : Nat) : Slot :=
  let prompt := s.adPrompt c m given
  { Slot.reset with
    seqId := adSeq m
    ctx := c
    state := .prefill
    lc := adFlag m 0
    mirror := adFlag m 1
    depth := field m 42 1
    adapter := adAdapter m
    promptLen := prompt.length
    length := prompt.length
    maxNew := adMaxNew m
    temp := field32 m 56
    topP := field32 m 60
    topK := field m 64 2
    package := adPackage m
    stops := (tokensAt m 104 8).take (field m 46 1)
    nstop := field m 46 1
    admitTick := s.now
    mirrorReg := field m 68 4
    mirrorOffset := field m 72 8
    consOffset := field m 80 8
    lastToken := prompt.getLast?.getD 0
    scoreTarget := if adFlag m 3 then some (adTargetSeq m) else none
    prompt := prompt
    held := s.adHeld c m
    heldTag := ((s.adHandle c m).map fun h => h.tag.encode).getD 0
    list := some list
    kvList := (s.creg c).listAddr list
    tag := t.tag }

/-- Accept an admission that has passed its checks: slot, list, held pages, super entry, binding (R256, R262, R292, R302, R322). -/
def State.acceptAdmit (s : State) (c : Nat) (m : List Byte) (t : Ticket) (given : List Nat) : State :=
  match s.freeSlotNumber, s.freeList c, s.adSuperPlace c m with
  | some i, some l, some place =>
    let e := s.adSlot c m t given l
    let s1 := s.takeList c l
    let s2 := e.held.foldl (fun (u : State) g => u.setPool c ((u.pool c).hold g)) s1
    let r := if adFlag m 3 then (0, s2) else s2.reserveSuper c place (entryBytes e.promptLen e.maxNew) e
    let s3 := r.2.setSlot i { e with supEntry := r.1 }
    if s3.generating then s3.wake.bindSlot i else s3.wake
  | _, _, _ => s

/-- End an admission at its first failing check, or accept it. -/
def State.enroll (s : State) (mb : Nat) (m : List Byte) (given : List Nat) : State :=
  match s.adCheck (msgContext m) m with
  | some st => s.reject mb m st
  | none => s.acceptAdmit (msgContext m) m (ticketOf mb m) given

/-- Post the RDMA READ of a registered prompt; the mailbox waits for it (R465, R480). -/
def State.readPrompt (s : State) (mb : Nat) (m : List Byte) : State :=
  match s.registration (domainOf mb) (field m 136 4) with
  | none => s.reject mb m stLinkDown
  | some r =>
    if s.qpUsable r.qpn then
      let s1 := s.setMailbox mb { s.mailbox mb with busy := true }
      let s2 : State := { s1 with readings := s1.readings ++ [Reading.mk mb m] }
      s2.postOp r.qpn (.read (r.addr + field m 144 8) r.rkey (4 * adTokens m) (.prompt mb))
    else s.reject mb m stLinkDown

/-- ADMIT (R261, R480): an admission that a check ends takes no slot; one with a registered prompt is accepted once the prompt has
been read. -/
def State.takeAdmit (s : State) (m : List Byte) (t : Ticket) : State :=
  if field m 136 4 = inlinePrompt then s.enroll t.mb m (tokensAt m 152 (adTokens m))
  else match s.adCheck (msgContext m) m with
    | some st => s.reject t.mb m st
    | none => if adTokens m = 0 then s.enroll t.mb m [] else s.readPrompt t.mb m

/-- The command of code 0x0101, from a mailbox. -/
def execAdmission (mb : Nat) (s : State) : Host.Outcome State Fault Refusal := .next (s.serve mb 0x0101 State.takeAdmit)

/-- The prompt of the admission that waits on mailbox `mb` has come, or its read has failed (R480). -/
def State.takePrompt (s : State) (mb : Nat) (data : Option (List Byte)) : State :=
  match s.endReading mb with
  | none => s
  | some (m, s1) =>
    match data with
    | none => (s1.reject mb m stLinkDown).settle mb
    | some b => (s1.enroll mb m (tokensAt b 0 (adTokens m))).settle mb

/-- PROMPT_READ_COMPLETE: the response to the oldest read of a connection, which is a prompt's. -/
def execPromptReadComplete (qpn : Nat) (data : Option (List Byte)) (s : State) : Host.Outcome State Fault Refusal :=
  .next (match s.takeRead qpn with
  | some (.prompt mb, s1) => s1.takePrompt mb data
  | _ => s)

/-! ### Handles (R321, R323) -/

/-- Register a handle for a waiting registration, or end it. -/
def State.applyHandle (s : State) (c : Nat) (w : HandleWait) : State :=
  match s.findSlot c w.seqId with
  | none => s.finish w.ticket stNotPermitted 0 0
  | some i =>
    match (s.slot i).list with
    | none => s.finish w.ticket stNotPermitted 0 0
    | some l =>
      if ((s.pool c).uniform l (pagesOf w.length)).isNone then s.finish w.ticket stNotPermitted 0 0
      else match s.registerHandle c l w.length with
        | none => s.finish w.ticket stCapacity 0 0
        | some (h, s1) => s1.finish w.ticket stDone h 0

/-- Apply the registrations that waited for the context's step boundary, in order. -/
def State.applyHandles (s : State) (c : Nat) : State :=
  let p := s.pool c
  p.waiting.foldl (fun (t : State) w => t.applyHandle c w) (s.setPool c { p with waiting := [] })

/-- HANDLE_REGISTER (R321). -/
def State.takeHandleRegister (s : State) (m : List Byte) (t : Ticket) : State :=
  let c := msgContext m
  let q := BitVec.ofNat 64 (field m 32 8)
  let n := field m 40 4
  match s.findSlot c q with
  | none => s.finish t stBad 0 0
  | some i =>
    let e := s.slot i
    if n = 0 ∨ e.kvlen < n then s.finish t stBad 0 0
    else if e.state = .closing then s.finish t stNotPermitted 0 0
    else match e.list with
      | none => s.finish t stNotPermitted 0 0
      | some l =>
        let p := s.pool c
        if (p.uniform l (pagesOf n)).isNone then s.finish t stNotPermitted 0 0
        else if (lowestFree (s.creg c).handleCount (p.handles.map Prod.fst)).isNone || (s.freeList c).isNone then
          s.finish t stCapacity 0 0
        else if s.stepRunning c then s.setPool c { p with waiting := p.waiting ++ [⟨t, q, n⟩] }
        else s.applyHandle c ⟨t, q, n⟩

/-- The command of code 0x0102, from a mailbox. -/
def execHandleRegister (mb : Nat) (s : State) : Host.Outcome State Fault Refusal := .next (s.serve mb 0x0102 State.takeHandleRegister)

/-- HANDLE_RELEASE (R323). -/
def State.takeHandleRelease (s : State) (m : List Byte) (t : Ticket) : State :=
  let c := msgContext m
  let h := field m 32 8
  if handleCtx h ≠ c then s.finish t stNotPermitted 0 0
  else match (s.pool c).handle h with
    | none => s.finish t stBad 0 0
    | some _ => (s.releaseHandle c (bits h 13 0)).finish t stDone 0 0

/-- The command of code 0x0103, from a mailbox. -/
def execHandleRelease (mb : Nat) (s : State) : Host.Outcome State Fault Refusal := .next (s.serve mb 0x0103 State.takeHandleRelease)

/-! ### Super entries and slots (R257, R286, R294) -/

/-- SET_REWARD (R286). -/
def State.takeSetReward (s : State) (m : List Byte) (t : Ticket) : State :=
  let c := msgContext m
  match s.super c (BitVec.ofNat 64 (field m 32 8)) with
  | none => s.finish t stBad 0 0
  | some e =>
    if !e.ready || e.rewardState != 0 then s.finish t stNotPermitted 0 0
    else (s.setSuper c { e with reward := field32 m 40, rewardState := 1 }).finish t stDone 0 0

/-- The command of code 0x0104, from a mailbox. -/
def execSetReward (mb : Nat) (s : State) : Host.Outcome State Fault Refusal := .next (s.serve mb 0x0104 State.takeSetReward)

/-- SUPER_RELEASE (R294). -/
def State.takeSuperRelease (s : State) (m : List Byte) (t : Ticket) : State :=
  let c := msgContext m
  match s.super c (BitVec.ofNat 64 (field m 32 8)) with
  | none => s.finish t stBad 0 0
  | some e =>
    if !e.ready then s.finish t stNotPermitted 0 0
    else ((s.setSuper c { e with released := true }).moveTail c).finish t stDone 0 0

/-- The command of code 0x0105, from a mailbox. -/
def execSuperRelease (mb : Nat) (s : State) : Host.Outcome State Fault Refusal := .next (s.serve mb 0x0105 State.takeSuperRelease)

/-- SLOT_QUERY (R257): the entry goes to the window, the slot number to the completion. -/
def State.takeSlotQuery (s : State) (m : List Byte) (t : Ticket) : State :=
  let c := msgContext m
  match s.findSlot c (BitVec.ofNat 64 (field m 32 8)) with
  | none => s.finish t stBad 0 0
  | some i =>
    if s.windowLive (domainOf t.mb) (windowAt m 40) then
      (s.writeWindow (domainOf t.mb) (windowAt m 40) (s.slot i).bytes).finish t stDone i 0
    else s.finish t stLinkDown 0 0

/-- The command of code 0x0106, from a mailbox. -/
def execSlotQuery (mb : Nat) (s : State) : Host.Outcome State Fault Refusal := .next (s.serve mb 0x0106 State.takeSlotQuery)

end Sys2Proof.Machine
end

