-- ==== Sys2Proof/Machine/Contexts.lean ====
section
/-! DEFINITION. Contexts and packages: CTX_CREATE (R264, R481, R482), CTX_RELEASE (R483), PACKAGE_LOAD (R41, R121, R299, R333),
PACKAGE_UNLOAD (R487) and CANCEL (R284, R373, R393, R403, R415, R491). -/

namespace Sys2Proof.Machine

/-! ### CTX_CREATE -/

/-- The BRD_, SUP_ and BRD_KV_ registers that a CTX_CREATE gives (Table 12.15). -/
def createRegs (m : List Byte) : CtxRegs :=
  { CtxRegs.reset with
    cfg := BitVec.ofNat 32 (field m 52 2 + 2 ^ 16 + 2 ^ 17 * (field m 54 2 % 2))
    combs := field32 m 48
    supBase := BitVec.ofNat 64 (field m 64 8 % 2 ^ 48)
    supBytes := BitVec.ofNat 64 (field m 72 8)
    kvBase := BitVec.ofNat 64 (field m 80 8 % 2 ^ 48)
    kvGeom := field32 m 88
    kvPages := field32 m 92
    kvLists := field32 m 96
    kvPrefix := field32 m 100 }

/-- The context that a CTX_CREATE describes, holding nothing. -/
def createCtx (m : List Byte) (granules : List Nat) : Ctx where
  key := field128 m 32
  dataBytes := field m 56 8
  granules := granules
  shelfBase := field m 104 8
  shelfBytes := field m 112 8
  watchBase := field m 120 8
  watchRecords := field m 128 4
  watchCount := 0
  normBase := field m 136 8
  normRecords := field m 132 4
  normCount := 0
  packages := []
  versions := []
  lastTag := 0
  pool := .empty
  supers := []
  learner := none
  keyRuns := []
  stepCount := 0
  releasing := none

/-- The regions that a CTX_CREATE names: address and bytes. -/
def createRegions (m : List Byte) : List (Nat × Nat) :=
  let ring (base n : Nat) : Nat × Nat := if base = 0 then (0, 0) else (base, 64 + 64 * n)
  [(field m 64 8, field m 72 8), (field m 80 8, (createRegs m).poolBytes), (field m 104 8, field m 112 8),
    ring (field m 120 8) (field m 128 4), ring (field m 136 8) (field m 132 4)].filter fun r => r.2 != 0

/-- Whether ranges are pairwise apart. -/
def rangesApart : List (Nat × Nat) → Bool
  | [] => true
  | r :: rest => (rest.all fun q => apart r.1 r.2 q.1 q.2) && rangesApart rest

/-- Whether a comb mask of context `n` equals or is disjoint from every other enabled context's (R264). -/
def State.maskAccepted (s : State) (n : Nat) (mask : Word) : Bool :=
  (s.ctxs.map Prod.fst).all fun c =>
    let r := s.creg c
    c == n || !bitAt r.cfg.toNat 16 || r.combs == mask || !masksMeet r.combs mask

/-- Whether a CTX_CREATE's regions lie in its data range and apart (R482). -/
def createRegionsOk (m : List Byte) : Bool :=
  (createRegions m).all (fun r => (createCtx m []).inData r.1 r.2) && rangesApart (createRegions m)

/-- Map the data range of a new context: the list area of its pool READONLY, all else writable (R298, R482). -/
def State.mapData (s : State) (c : Nat) (r : CtxRegs) (gs : List Nat) : State :=
  (List.range gs.length).foldl (fun (t : State) i =>
    let a := lpBase + i * 0x200000
    let lists := r.kvBase != 0 && decide (r.kvBase.toNat ≤ a) && decide (a < r.kvBase.toNat + r.listArea)
    t.mapGranule c a ((gs[i]?).getD 0) lists) s

/-- The base of a new context's metadata block, at a free 4 KiB page of the Keeper region (R303); its length there leaves it inside. -/
def metaBase (r : CtxRegs) (v : Nat) : Nat := lpBase + v % (0x200000 - (r.metaLength + 4095) / 4096) * 4096

/-- A new context with its granules mapped; its metadata block is that of an empty pool: every page FREE with REFS 0 (R332). -/
def State.createCtx (s : State) (c : Nat) (m : List Byte) (gs : List Nat) (mc : MemCtl) : State :=
  let r := createRegs m
  let a := s.fresh
  let r1 := { r with kvMeta := if r.kvBase = 0 then 0 else BitVec.ofNat 64 (metaBase r a.1) }
  let s1 : State := { a.2 with memCtl := mc, ctxs := tset a.2.ctxs c (Machine.createCtx m gs) }
  (s1.setCreg c r1).mapData c r1 gs

/-- CTX_CREATE (R264, R482). -/
def State.takeCtxCreate (s : State) (m : List Byte) (t : Ticket) : State :=
  let c := msgContext m
  if !createRegionsOk m || !s.maskAccepted c (field32 m 48) then s.finish t stBad 0 0
  else if (s.ctx c).isSome then s.finish t stNotPermitted 0 0
  else match MemCtl.takeLp MemCtl.freeLp (field m 56 8 / 0x200000) s.memCtl with
    | none => s.finish t stCapacity 0 0
    | some (gs, mc) => (s.createCtx c m gs mc).finish t stDone 0 0

/-- The command of code 0x0010, from a mailbox. -/
def execCtxCreate (mb : Nat) (s : State) : Host.Outcome State Fault Refusal := .next (s.serve mb 0x0010 State.takeCtxCreate)

/-! ### Cancels (R491) -/

/-- Cancel slot `i`: at its next commit, or at once when it is in no running step (R284). -/
def State.cancelSlot (s : State) (i : Nat) : State :=
  if s.inStep i then s.setSlot i { s.slot i with cancel := true } else s.endSlot i stCancelled

/-- Cancel a learning step, where COMMIT has not been sent (R373). -/
def State.cancelLearn (s : State) (t : LearnStep) : State := if t.commitSent then s else s.failLearn t stCancelled

/-- Cancel what a CANCEL names, where it is found unended. -/
def State.cancelTarget (s : State) (c kind id : Nat) : Option State :=
  match kind with
  | 1 => (s.findSlot c (BitVec.ofNat 64 id)).bind fun i =>
      if (s.slot i).state = .closing then none else some (s.cancelSlot i)
  | 2 => ((s.learnStep c).filter fun t => t.plan.step == id).map s.cancelLearn
  | 3 => (s.turns.turn.filter fun t => t.ticket.ctx == c).map fun t => s.undoTurn t stCancelled
  | _ => s.cancelLoad c id

/-- CANCEL: VALUE0 says whether the target was found unended; a context mailbox may cancel only sequences (R491). -/
def State.takeCancel (s : State) (m : List Byte) (t : Ticket) : State :=
  if 16 ≤ t.mb && field m 32 1 != 1 then s.finish t stNotPermitted 0 0
  else match s.cancelTarget (msgContext m) (field m 32 1) (field m 40 8) with
    | some s1 => (s1.settleIdle.finish t stDone 1 0).settleReleases
    | none => s.finish t stDone 0 0

/-- The command of code 0x0051, from a mailbox. -/
def execCancel (mb : Nat) (s : State) : Host.Outcome State Fault Refusal := .next (s.serve mb 0x0051 State.takeCancel)

/-! ### CTX_RELEASE -/

/-- Whether a read serves the message that waits on mailbox `mb`. -/
def ReadPurpose.serves (mb : Nat) : ReadPurpose → Bool
  | .window k => k == mb
  | .prompt k => k == mb
  | .firmware k => k == mb
  | .consumer _ => false
  | .image => false
  | .abandoned => false

/-- End the message that waits for a read on mailbox `mb` with a status. -/
def State.dropReading (s : State) (mb status : Nat) : State :=
  match s.endReading mb with
  | some (m, s1) => (s1.abandonReads (ReadPurpose.serves mb)).reject mb m status
  | none => s

/-- End the messages of context `c` that wait: those being read, registrations of handles, unloads. -/
def State.endWaits (s : State) (c status : Nat) : State :=
  let s1 := s.dropReading (c + 16) status
  let p := s1.pool c
  let s2 := p.waiting.foldl (fun (t : State) w => t.finish w.ticket status 0 0) (s1.setPool c { p with waiting := [] })
  match s2.ctx c with
  | none => s2
  | some x =>
    let s3 := s2.setCtx c { x with packages := x.packages.map fun e => (e.1, { e.2 with unloading := none }) }
    (x.packages.filterMap fun e => e.2.unloading).foldl (fun (t : State) u => t.finish u status 0 0) s3

/-- End the turn, the loads and the learning step of a context with a status, each by its own cancel rule. -/
def State.endWork (s : State) (c status : Nat) : State :=
  let s1 := match s.turns.turn with
    | some t => if t.ticket.ctx = c then s.undoTurn t status else s
    | none => s
  let s2 := (s1.turns.loads.filter fun l => l.ticket.ctx == c && !l.waitsSwitch).foldl (fun (t : State) l => t.failLoad l status) s1
  match s2.learnStep c with
    | some t => if t.commitSent then s2 else s2.failLearn t status
    | none => s2

/-- End every item of a context with a status: its work, the sequences, and the messages that wait (R483). -/
def State.endItems (s : State) (c status : Nat) : State :=
  let s3 := s.endWork c status
  let s4 := (s3.ctxSlots c).foldl (fun (t : State) i =>
    if t.inStep i then t.setSlot i { t.slot i with cancel := true } else t.endSlot i status) s3
  s4.endWaits c status

/-- Begin the release of a context: its items end, its mailbox's unconsumed messages are rejected (R483). -/
def State.beginRelease (s : State) (c : Nat) (t : Ticket) : State :=
  let s1 := match s.ctx c with
    | some x => s.setCtx c { x with releasing := some t }
    | none => s
  ((s1.endItems c stCancelled).rejectWaiting (c + 16) stNotPermitted 256).settleIdle.settleReleases

/-- CTX_RELEASE (R483). -/
def State.takeCtxRelease (s : State) (m : List Byte) (t : Ticket) : State :=
  s.beginRelease (msgContext m) t

/-- The command of code 0x0011, from a mailbox. -/
def execCtxRelease (mb : Nat) (s : State) : Host.Outcome State Fault Refusal := .next (s.serve mb 0x0011 State.takeCtxRelease)

/-! ### PACKAGE_LOAD -/

/-- Whether every frame table of a package passes its CRC (R121). -/
def packageSound (p : Package) : Bool :=
  p.tables.all fun t =>
    let c : Core := { Core.reset with frameStore := putUnits 0 (t.bytes.length / 64) t.bytes [] }
    decide (t.core < 512) && t.bytes.length == 64 * (1 + c.frames + c.strides) && c.tableOk

/-- The code of a package's kind. -/
def kindCode : PkgKind → Nat
  | .generation => 0
  | .learning => 1
  | .reward => 2

/-- Whether a package's KV geometry is its context's (R299); a learning package declares none. -/
def CtxRegs.geomFits (r : CtxRegs) (p : Package) : Bool :=
  match p.kind, p.geom with
  | .learning, _ => true
  | _, some g => g.format == r.kvFormat && g.layers == r.kvLayers && g.tcols == r.kvTcols
  | _, none => false

/-- Whether the learner areas and stash units lie in the context ranges, those in LPDDR5X outside the data range (R482) and where nothing is
mapped. -/
def State.regionOk (s : State) (c : Nat) (x : Ctx) (p : Package) : Bool :=
  let fits (a n : Nat) : Bool := if inSram a then decide (a + n ≤ sramEnd)
    else decide (lpBase ≤ a) && decide (a + n ≤ lpEnd) && apart a n lpBase x.dataBytes
  p.kind != .learning || ((p.learnAreas.all fun r => fits r.base r.bytes) && (p.stash.all fun u => fits u.1 u.2) &&
    (learnRegion p ++ learnStash p false).all fun a => !(s.xent c a).valid)

/-- A PACKAGE_LOAD whose window has been read. -/
def State.packageWindow (s : State) (t : Ticket) (m : List Byte) (d : ReadData) : State :=
  let c := msgContext m
  let k := field m 56 1
  match s.ctx c, d with
  | none, _ => s.finish t stNotPermitted 0 0
  | some _, .failed => s.finish t stLinkDown 0 0
  | some _, .bytes _ => s.finish t stBad 0 0
  | some _, .image _ => s.finish t stBad 0 0
  | some x, .package p =>
    if (tget x.packages k).isSome then s.finish t stNotPermitted 0 0
    else if !contractOk p.contract || kindCode p.kind != field m 57 1 || !packageSound p || !(s.creg c).geomFits p || !s.regionOk c x p
    then s.finish t stBad 0 0
    else match s.takeGranules c (fun _ => false) (learnRegion p) with
      | none => s.finish t stCapacity 0 0
      | some (gs, s1) =>
        let s2 := s1.mapGrans c (fun _ => false) gs
        (match s2.ctx c with
          | some y => s2.setCtx c { y with packages := tset y.packages k ⟨p, none⟩ }
          | none => s2).finish t stDone 0 0

/-- PACKAGE_LOAD: the window is read, then the package is checked and entered in its slot (R41, R121, R299). -/
def State.takePackageLoad (s : State) (m : List Byte) (t : Ticket) : State :=
  s.readWindow t m (windowAt m 32)

/-- The command of code 0x0014, from a mailbox. -/
def execPackageLoad (mb : Nat) (s : State) : Host.Outcome State Fault Refusal := .next (s.serve mb 0x0014 State.takePackageLoad)

/-! ### PACKAGE_UNLOAD (R487) -/

/-- Whether something accepted and not ended names a package, a version of it, or its learner state. -/
def State.packageBusy (s : State) (c k : Nat) : Bool :=
  (s.turns.turn.any fun t => t.ticket.ctx == c && (t.package == k || t.kind == .restore)) ||
  (s.turns.loads.any fun l => l.ticket.ctx == c && l.package == k) ||
  (s.learnSteps.any fun t => t.ctx == c && (t.plan.package == k || (s.versions c .base).any fun v => v.package == k && v.tag == t.plan.version)) ||
  s.guard.cap.any fun x => x.ctx == c

/-- Whether a version of a package is granted, or held as grantee. -/
def State.packageGranted (s : State) (c k : Nat) : Bool :=
  (s.versions c .base).any fun v => v.package == k && (v.owner.isSome ||
    s.ctxs.any fun x => x.2.versions.any fun o => o.owner == some (c, v.tag))

/-- Remove a package from its slot: its versions, and for a learning package its learner state and regions. -/
def State.removePackage (s : State) (c k : Nat) (t : Ticket) : State :=
  match s.packageAt c k with
  | none => s.finish t stDone 0 0
  | some p =>
    let s1 := ((s.versions c .base).filter fun v => v.package == k).foldl (fun (u : State) v => u.removeVersion c .base v.tag) s
    let s2 := (learnRegion p ++ learnStash p false).foldl (fun (u : State) a => u.unmap c a) s1
    let s3 := match s2.ctx c with
      | some x => s2.setCtx c { x with
          packages := terase x.packages k
          learner := if p.kind == PkgKind.learning then none else x.learner }
      | none => s2
    (s3.wipePackage c p.packageId).finish t stDone 0 0

/-- PACKAGE_UNLOAD: at the context's next step boundary, or at once when no step of it runs. -/
def State.takePackageUnload (s : State) (m : List Byte) (t : Ticket) : State :=
  let c := msgContext m
  let k := field m 32 1
  match s.ctx c with
  | none => s.finish t stNotPermitted 0 0
  | some x =>
    match tget x.packages k with
    | none => s.finish t stBad 0 0
    | some l =>
      if l.unloading.isSome || ((s.ctxSlots c).any fun i => (s.slot i).package == k) || s.packageBusy c k || s.packageGranted c k ||
          s.turns.learning == some (c, k) then s.finish t stNotPermitted 0 0
      else if s.stepRunning c then s.setCtx c { x with packages := tset x.packages k { l with unloading := some t } }
      else s.removePackage c k t

/-- The command of code 0x0015, from a mailbox. -/
def execPackageUnload (mb : Nat) (s : State) : Host.Outcome State Fault Refusal := .next (s.serve mb 0x0015 State.takePackageUnload)

/-- Carry out the unloads that waited for the context's step boundary. -/
def State.applyUnloads (s : State) (c : Nat) : State :=
  match s.ctx c with
  | none => s
  | some x => (x.packages.filterMap fun e => e.2.unloading.map fun t => (e.1, t)).foldl (fun (u : State) e => u.removePackage c e.1 e.2) s

end Sys2Proof.Machine
end

