-- ==== Sys2Proof/Machine/Boundary.lean ====
section
/-! DEFINITION. The step boundary of a context (phase 7 of Table 7.4): completions, page references, and everything that waits for
it (R276, R316 to R319, R321, R327, R379, R433, R487, R508, R517). -/

namespace Sys2Proof.Machine

/-- Close the slots of a step that failed: those that a memory error ends with their own status, the others with the step's. -/
def State.closeFailed (s : State) (t : GenStep) : State :=
  let s1 := t.ending.foldl (fun (u : State) e => u.closeSlot e.1 e.2) s
  t.items.foldl (fun (u : State) w => u.closeSlot w.slot t.status) s1

/-- Insert the full blocks of a slot in the hash table (R327). -/
def State.insertSlotBlocks (s : State) (i : Nat) : State :=
  let e := s.slot i
  match e.list with
  | none => s
  | some m => s.insertBlocks e.ctx m e.kvlen

/-- Post the completions of the context's terminal sequences and free their slots (R319). A sequence that a fault ended carries its
CORE_FAULT_AT. -/
def State.freeClosing (s : State) (t : GenStep) : State :=
  ((s.ctxSlots t.ctx).filter fun i => (s.slot i).state == .closing).foldl (fun (u : State) i =>
    let hurt := (t.phase == .failed && t.items.any fun w => w.slot == i) || t.ending.any fun e => e.1 == i
    u.freeSlot i false (if hurt then t.faultAt else 0)) s

/-- The 16-byte entries of R433: the slots in use. -/
def State.successorBytes (s : State) : List Byte :=
  s.usedSlots.flatMap fun i =>
    let e := s.slot i
    leBytes 8 e.seqId.toNat ++ leBytes 2 e.ctx ++ leBytes 2 e.state.code ++ leBytes 2 e.version ++ zeros 2

/-- The records of R433 beside the slots: learning steps, turns and loads not ended, by context, record kind and ITEM. -/
def State.successorItemsOf (s : State) : List (Nat × Nat × Nat) :=
  (s.learnSteps.map fun t => (t.ctx, 2, t.plan.step)) ++
    (match s.turns.turn with | some t => [(t.ticket.ctx, 0, 0)] | none => []) ++
    (s.turns.loads.filter fun l => !l.waitsSwitch).map fun l => (l.ticket.ctx, 0, 0)

/-- The queen writes its set to the successor (R433). -/
def State.tellSuccessor (s : State) : State :=
  if s.cascade.state = .active ∧ s.isQueen then s.tell s.successorPos kmSuccessor (s.successorBytes ++
    s.successorItemsOf.flatMap fun x => leBytes 2 x.1 ++ leBytes 2 x.2.1 ++ leBytes 4 x.2.2) else s

/-- What waits for the step boundary of context `c` once its step is gone: unloads, switches, removals, bindings, granules to
retire, and, with no step of the module running, turns and releases. -/
def State.afterStep (s : State) (c : Nat) : State :=
  let s1 := (((s.applyUnloads c).switchLoads c).sweepVersions c).bindWaiting c |>.endDamaged c
  let s2 := s1.retireDue
  s2.retryWaits.settleIdle.settleReleases

/-- The boundary of the queen's step. -/
def State.queenBoundary (s : State) (t : GenStep) : State :=
  let s1 := if t.phase = .failed then s.closeFailed t else s
  let slots := t.items.map WorkItem.slot
  let s2 := slots.foldl State.trimList s1
  let s3 := slots.foldl State.insertSlotBlocks s2
  let s4 := ((s3.applyHandles t.ctx).freeClosing t).dropStep t
  let ws := (t.ends.map fun e => e.2.watches).foldl mergeWatches t.watches
  (s4.writeWatch t.ctx t.stamp.toNat ws).tellSuccessor.afterStep t.ctx

/-- STEP_BOUNDARY: a committed or failed step of a context leaves; on a member, a step whose cores are DONE. -/
def execStepBoundary (ctx : Nat) (s : State) : Host.Outcome State Fault Refusal :=
  .next (match s.genStep ctx with
  | none => s
  | some t =>
    if t.phase == .committed || t.phase == .failed then s.queenBoundary t
    else if t.phase == .coresDone && !s.isQueen then (s.dropStep t).afterStep ctx
    else s)

end Sys2Proof.Machine
end

