-- ==== Sys2Proof/Machine/Capping.lean ====
section
/-! DEFINITION. Capping (R523 to R537): the capture point, the copies and the end of a capture, and a restore. -/

namespace Sys2Proof.Machine

/-! ### The image (R525, R528, R529, Tables 13.6 to 13.8) -/

/-- Whether a protection granule is transient (R525). -/
def Ctx.transient (x : Ctx) (a : Nat) : Bool := x.packages.any fun p => p.2.package.transient (x.learner.any Learner.cur) a

/-- Whether a shard meets the protection granule at `a`. -/
def ShardPlace.meets (p : ShardPlace) (a : Nat) : Bool := decide (p.dest < a + 0x10000) && decide (a < p.dest + p.length)

/-- The image entries of one protection granule (R525, Table 13.8). -/
def Ctx.capEntries (x : Ctx) (pos a : Nat) : List CapEntry :=
  let mine (v : Version) : List ShardPlace := v.shards.filter fun p => p.position == pos && p.meets a
  match x.versions.find? fun v => v.owner.isSome && !(mine v).isEmpty with
  | some v => [⟨a, v.source, 3, (v.owner.map Prod.fst).getD 0⟩]
  | none =>
    match x.versions.find? fun v => v.fromPack && !v.shelved && (mine v).any fun p => p.tier == 2 with
    | some v => ((mine v).filter fun p => p.tier == 2).map fun p => ⟨a, v.source, 2, p.shard⟩
    | none => if x.transient a then [] else [⟨a, 0, if inSram a then 0 else 1, 0⟩]

/-- The protection granules that a context maps, rising. -/
def State.protGranules (s : State) (c : Nat) : List Nat :=
  (s.mappings c).flatMap fun a => if inSram a then [a] else (List.range 32).map fun k => a + 0x10000 * k

/-- The granule list of a context's image on this module. -/
def State.capEntries (s : State) (c : Nat) : List CapEntry :=
  match s.ctx c with
  | some x => (s.protGranules c).flatMap fun a => x.capEntries s.position a
  | none => []

/-- A granule list entry's bytes (Table 13.8). -/
def CapEntry.bytes (e : CapEntry) : List Byte :=
  leBytes 8 e.addr ++ leBytes 8 e.ref ++ leBytes 1 e.kind ++ zeros 3 ++ leBytes 4 e.arg

/-- A metadata record: head and body (R529). -/
def capRecord (type count : Nat) (body : List Byte) : List Byte :=
  leBytes 2 type ++ zeros 2 ++ leBytes 4 body.length ++ leBytes 4 count ++ leBytes 4 (crc32c body) ++ body

/-- The metadata section (Table 13.7). The bodies whose byte layout no table gives are free. -/
def State.metadata (s : State) (c : Nat) : List Byte :=
  let r := s.creg c
  let free (k : Nat) : List Byte := capRecord k 1 (Config.freeBytes (512 + k) (leBytes 2 c ++ leBytes 4 s.brdStamp.toNat))
  let slots := s.ctxSlots c
  let brood := slots.flatMap fun i => let e := s.slot i; e.bytes ++ leBytes 4 e.drawn ++ zeros 12
  free 1 ++ capRecord 2 slots.length brood ++ ([3, 4, 5, 6, 7, 8].flatMap free) ++
    capRecord 9 1 (leBytes 8 r.supHead ++ leBytes 8 r.supTail)

/-- An image's header (Table 13.6). -/
def State.capHeader (s : State) (c : Capping) : List Byte :=
  withCrc (leBytes 8 c.imageBytes ++ leBytes 2 0x0100 ++ leBytes 2 c.ctx ++ leBytes 1 s.position ++ leBytes 1 s.groupSize ++
    leBytes 2 0x0100 ++ leBytes 4 c.stamp.toNat ++ leBytes 4 c.lastStep ++ leBytes 8 c.metaBytes ++ leBytes 4 c.entries.length ++
    leBytes 4 c.copied.length ++ leBytes 8 c.dataOffset ++ zeros 12)

/-! ### Writes that waited (R526) -/

/-- Carry out a held write: its packet or connection is answered once it is visible. -/
def State.landHeld (s : State) (h : HeldWrite) : State :=
  match s.writeRange (.ctx h.ctx) h.addr h.data with
  | none => s
  | some s1 =>
    let s2 := match h.packet with
      | some b => if Config.lastPacket b then s1.answerDone b 0 else s1
      | none => s1
    match h.qpn with
    | some n => s2.transmit (.roceAck n)
    | none => s2

/-- Carry out the held writes that no protection holds any more, in order. -/
def State.settleHeld (s : State) : State :=
  let waits (h : HeldWrite) : Bool := s.rangeHeld (.ctx h.ctx) h.addr h.data.length
  let s1 : State := { s with guard := { s.guard with heldWrites := s.guard.heldWrites.filter waits } }
  (s.guard.heldWrites.filter fun h => !waits h).foldl State.landHeld s1

/-- WP_WRITE_HELD: a write reaches a protected granule and waits (R219, R526). An engine's frame waits in its queue. -/
def execWpWriteHeld (w : Writer) (ctx addr : Nat) (data : List Byte) (s : State) : Host.Outcome State Fault Refusal :=
  let hold (q : Option Nat) : State :=
    { s with guard := { s.guard with heldWrites := s.guard.heldWrites ++ [⟨ctx, addr, data, none, q⟩] } }
  .next (if !s.rangeHeld (.ctx ctx) addr data.length then s
  else match w with
    | .engine _ _ => s
    | .rdma n => if s.guard.heldWrites.any fun h => h.ctx == ctx && h.addr == addr && h.data == data then s else hold (some n)
    | .keeper => hold none)

/-! ### A capture (R523 to R531) -/

/-- End the capture on this module: every WP it set is cleared, the writes that waited go on, and its command ends. -/
def State.endCapture (s : State) (c : Capping) (status : Nat) : State :=
  let s1 := (c.left.foldl (fun (t : State) a => t.clearWp c.ctx a) s).setCap none
  let s2 : State := if status = stDone then s1 else { s1 with guard := { s1.guard with capFault := setBit32 s1.guard.capFault 0 } }
  ((s2.settleHeld.tellEnd c.ticket status).finish c.ticket status 0 0).settleReleases

/-- The status of a copy that did not become visible (R531). -/
def copyStatus : CopyOutcome → Option Nat
  | .visible => none
  | .uncorrectable _ => some stMem
  | .linkFailed => some stLinkDown
  | .deviceLost => some stDeviceLost
  | .tooSmall => some stCapacity

/-- A capture or restore newly accepted. -/
def Capping.fresh (state : CapState) (c : Nat) (t : Ticket) (m : List Byte) : Capping :=
  ⟨state, c, t, field m 32 1 == 1, field m 33 1, (windowAt m 40).reg, (windowAt m 40).offset, (windowAt m 40).length, false, [], [], 0,
    0, 0, [], [], []⟩

/-- Whether the PEER of a message may be named: a position of the group other than the queen's (R528). -/
def State.peerOk (s : State) (m : List Byte) : Bool :=
  field m 32 1 == 0 || (decide (field m 33 1 < s.groupSize) && field m 33 1 != s.queenPos)

/-- Whether a turn or load of a context is accepted and not ended. -/
def State.moving (s : State) (c : Nat) : Bool :=
  s.turns.turn.any (fun t => t.ticket.ctx == c) || s.turns.loads.any fun l => l.ticket.ctx == c && !l.waitsSwitch

/-- Whether a capture or restore of the group is accepted and not ended. -/
def State.cappingOn (s : State) : Bool := s.guard.cap.isSome

/-- CAP_TAKE (R523). -/
def State.takeCapTake (s : State) (m : List Byte) (t : Ticket) : State :=
  let c := msgContext m
  if !s.peerOk m then s.finish t stBad 0 0
  else if s.halted || s.cappingOn || s.moving c then s.finish t stNotPermitted 0 0
  else (s.wake.setCap (some (.fresh .capturing c t m))).tellAll kmOrder m

/-- The command of code 0x0053, from a mailbox. -/
def execCapTake (mb : Nat) (s : State) : Host.Outcome State Fault Refusal := .next (s.serve mb 0x0053 State.takeCapTake)

/-- Protect the context and write the metadata section and the granule list (R524). -/
def State.protectCtx (s : State) (c : Capping) : State :=
  let body := s.metadata c.ctx
  let entries := s.capEntries c.ctx
  let c0 := { c with
    begun := true, entries := entries, metaBytes := body.length, stamp := s.brdStamp, lastStep := (s.learnerOf c.ctx).lastStep }
  let c1 := { c0 with left := c0.copied }
  if !c.toPeer && decide (c.length / s.groupSize < c1.imageBytes) then s.endCapture c stCapacity
  else if !c.toPeer && !s.windowLive 0 ⟨c.reg, c.offset, c.length⟩ then s.endCapture c stLinkDown
  else
    let s1 := s.sendPart c1 64 (body ++ entries.flatMap CapEntry.bytes)
    let s2 := c1.left.foldl (fun (t : State) a => t.setWp c.ctx a) s1
    { s2.setCap (some c1) with memCtl := { s2.memCtl with inval := BitVec.ofNat 32 (2 ^ 31 + c.ctx) } }

/-- CAPTURE_POINT: the first step boundary of the context with no learning step of it unended (R524). -/
def execCapturePoint (s : State) : Host.Outcome State Fault Refusal :=
  .next (match s.guard.cap with
  | none => s
  | some c =>
    if c.state != .capturing || c.begun || s.ctxRunning c.ctx || s.learningStep c.ctx then s
    else s.protectCtx c)

/-- What the copy of a granule meets: a code word known to have an uncorrectable error in it is met again, whatever the outcome. -/
def State.copyOutcome (s : State) (c : Capping) (a : Nat) (o : CopyOutcome) : CopyOutcome :=
  match (s.resolveRange (.ctx c.ctx) a 0x10000 false).bind s.damagedIn with
  | some w => .uncorrectable w
  | none => o

/-- The end of one granule's copy: the next goes on, or the capture ends early; an uncorrectable read of the copy is counted, captured
and reported as any other (R228). -/
def State.copyDone (s : State) (c : Capping) (a : Nat) (o : CopyOutcome) : State :=
  let x := s.copyOutcome c a o
  let s1 := match x with
    | .uncorrectable w => s.memUncorrectable w false (some c.ctx)
    | _ => s
  match copyStatus x with
  | some st => s1.endCapture c st
  | none => (s1.copyGranule c a).settleHeld

/-- CAP_GRANULE_COPY_DONE: the copy of the next protected granule in image order ends (R527, R531). -/
def execCapGranuleCopyDone (o : CopyOutcome) (s : State) : Host.Outcome State Fault Refusal :=
  .next (match s.guard.cap with
  | none => s
  | some c => match c.left with
    | [] => s
    | a :: _ => if c.state == .capturing && c.begun then s.copyDone c a o else s)

/-- CAP_FIRST_TOUCH_COPY_DONE: the copy that a waiting write asked for ends, and the write proceeds (R526). -/
def execCapFirstTouchCopyDone (ctx addr : Nat) (o : CopyOutcome) (s : State) : Host.Outcome State Fault Refusal :=
  .next (match s.guard.cap with
  | none => s
  | some c =>
    let a := addr / 0x10000 * 0x10000
    if c.state == .capturing && c.ctx == ctx && c.left.contains a then
      ({ s with guard := { s.guard with touch := s.guard.touch + (if s.copyOutcome c a o == .visible then 1 else 0) } } : State).copyDone c a o
    else s)

/-- A position's part of a capture or restore is done: the queen ends it when every part is, a member reports its own. -/
def State.partDone (s : State) (c : Capping) (pos : Nat) (finish : State → Capping → State) : State :=
  let c1 := { c with headers := ninsert c.headers pos }
  let s1 := s.setCap (some c1)
  if !s.isQueen then s1.tellEnd c.ticket stDone
  else if s.groupSize ≤ c1.headers.length then finish s1 c1
  else s1

/-- Whether a position may report its part: this module's own, or on the queen a member's. -/
def State.reportsPart (s : State) (c : Capping) (pos : Nat) : Bool :=
  !c.headers.contains pos && (pos == s.position || (s.isQueen && decide (pos < s.groupSize)))

/-- CAPTURE_END: a module has every copy visible and writes its header; the queen ends the capture when every member has (R530). -/
def State.captureEnd (s : State) (c : Capping) (pos : Nat) : State :=
  if c.state != .capturing || !c.begun || !s.reportsPart c pos then s
  else if pos = s.position then
    if c.left.isEmpty then (s.sendPart c 0 (s.capHeader c)).partDone c pos fun t k => t.endCapture k stDone else s
  else s.partDone c pos fun t k => t.endCapture k stDone

/-- CAPTURE_END. -/
def execCaptureEnd (pos : Nat) (s : State) : Host.Outcome State Fault Refusal :=
  .next (match s.guard.cap with
  | none => s
  | some c => s.captureEnd c pos)

/-! ### Peer images (R528) -/

/-- Bytes of a peer image as held here. -/
def imageSize (i : CapImage) : Nat := 0x10000 * i.data.length

/-- Free the image held here and its granules. -/
def State.dropHeld (s : State) : State :=
  let gs := s.guard.heldGrans
  { s with
    guard := { s.guard with heldImages := [], heldGrans := [] }
    memCtl := { s.memCtl with lpUsed := s.memCtl.lpUsed.filter fun g => !gs.contains g } }

/-- Hold a peer's image in allocatable granules in place of any earlier one; where they lack, its sender's capture ends. -/
def State.holdImage (s : State) (i : CapImage) : State :=
  let s1 := s.dropHeld
  match MemCtl.takeLp MemCtl.freeLp ((imageSize i + 0x1FFFFF) / 0x200000) s1.memCtl with
  | none => s1.tell i.position kmOrderEnd (leBytes 2 i.ctx ++ leBytes 2 stCapacity)
  | some (gs, mc) => { s1 with memCtl := mc, guard := { s1.guard with heldImages := [(i.position, i)], heldGrans := gs } }

/-- Send the image held here back to the position that wrote it, for a restore that reads it. -/
def State.returnImage (s : State) : State :=
  match s.guard.heldImages with
  | [] => s
  | (p, i) :: _ => (s.tell p kmImage (leBytes 2 i.ctx)).dropHeld

/-! ### A restore (R532 to R536) -/

/-- Whether a context holds no slot, handle, version, adapter index, learner state or super entry (R532). -/
def State.holdsNothing (s : State) (c : Nat) : Bool :=
  match s.ctx c with
  | none => false
  | some x => (s.ctxSlots c).isEmpty && x.pool.handles.isEmpty && x.versions.isEmpty && x.learner.isNone && x.supers.isEmpty &&
      !s.adapters.any fun a => a.2.ctx == c

/-- The bytes of CTX_CREATE from offset 48 that a context has, with what CTX_SET may change as 0. -/
def State.createFields (s : State) (c : Nat) : List Byte :=
  let r := s.creg c
  match s.ctx c with
  | none => []
  | some x => leBytes 4 r.combs.toNat ++ zeros 4 ++ leBytes 8 x.dataBytes ++ leBytes 8 r.supBase.toNat ++ leBytes 8 r.supBytes.toNat ++
      leBytes 8 r.kvBase.toNat ++ leBytes 4 r.kvGeom.toNat ++ leBytes 4 r.kvPages.toNat ++ leBytes 4 r.kvLists.toNat ++
      leBytes 4 r.kvPrefix.toNat ++ leBytes 8 x.shelfBase ++ leBytes 8 x.shelfBytes ++ leBytes 8 x.watchBase ++
      leBytes 4 x.watchRecords ++ leBytes 4 x.normRecords ++ leBytes 8 x.normBase ++ zeros 16

/-- The package slots of a context: slot, PACKAGE_ID and kind. -/
def Ctx.packageList (x : Ctx) : List (Nat × Nat × Nat) :=
  x.packages.map fun p => (p.1, p.2.package.packageId, kindCode p.2.package.kind)

/-- Whether a slot of an image names a fit registration for its mirror. -/
def State.mirrorFit (s : State) (c : Nat) (e : Slot) : Bool :=
  !e.mirror || (s.registration (c + 1) e.mirrorReg).any fun r => r.canWrite && r.canRead

/-- Whether an image passes R532 in its context on this module. -/
def State.imageFits (s : State) (c : Nat) (i : CapImage) : Bool :=
  match s.ctx c with
  | none => false
  | some x => i.sound && i.groupSize == s.groupSize && i.position == s.position && contractOk i.contract && s.holdsNothing c &&
      i.settings.packages == x.packageList && i.settings.fields == s.createFields c &&
      (i.adapters.all fun a => (tget s.adapters a.1).isNone) && i.slots.all (s.mirrorFit c)

/-- CAP_RESTORE (R532): the images are read before the rest of its checks can be made. -/
def State.takeCapRestore (s : State) (m : List Byte) (t : Ticket) : State :=
  let c := msgContext m
  if !s.peerOk m then s.finish t stBad 0 0
  else if s.halted || s.cappingOn then s.finish t stNotPermitted 0 0
  else if !s.holdsNothing c then s.finish t stBad 0 0
  else
    let k := Capping.fresh .restoring c t m
    let s1 := (s.setCap (some k)).tellAll kmOrder m
    if k.toPeer then s1.returnImage
    else
      let part := k.length / s.groupSize
      match s1.registration 0 k.reg with
      | none => (s1.setCap none).tellEnd t stLinkDown |>.finish t stLinkDown 0 0
      | some r =>
        if s1.qpUsable r.qpn then
          s1.postOp r.qpn (.read (r.addr + k.offset + s.position * part) r.rkey part .image)
        else (s1.setCap none).tellEnd t stLinkDown |>.finish t stLinkDown 0 0

/-- The command of code 0x0054, from a mailbox. -/
def execCapRestore (mb : Nat) (s : State) : Host.Outcome State Fault Refusal := .next (s.serve mb 0x0054 State.takeCapRestore)

/-- End what was submitted to a context while a restore of it ran, each item with its own record (R8): admissions and handle
registrations. The slots that the restore put there ended where the image was taken. -/
def State.endArrivals (s : State) (k : Capping) (status : Nat) : State :=
  let own (i : Nat) : Bool := k.restored.contains (s.slot i).seqId
  let s1 := s.endSlots ((s.ctxSlots k.ctx).filter fun i => !own i) status
  (s1.pool k.ctx).waiting.foldl (fun (t : State) w => t.finish w.ticket status 0 0) s1

/-- Take from a context everything that a restore has put into it. -/
def State.emptyCtx (s : State) (c : Nat) (mapped : List Nat) : State :=
  let loads := s.turns.loads.filter fun l => l.ticket.ctx == c && l.restore
  let s1 := loads.foldl (fun (t : State) l => (t.eraseLoad l).dropGranules l.grans) s
  let s2 : State := { s1 with slots := s1.slots.filter fun e => e.2.ctx != c }
  let s3 := (s2.setPool c .empty).dropVersions c
  let s4 := mapped.foldl (fun (t : State) a => t.unmap c a) s3
  let s5 := s4.setCreg c { s4.creg c with supHead := 0, supTail := 0 }
  match s5.ctx c with
  | some x => s5.setCtx c { x with learner := none, supers := [] }
  | none => s5

/-- End the restore on this module; any status but DONE leaves the context holding nothing (R533). One that ends before its image has been
accepted has put nothing there and changes nothing (R10, R532). -/
def State.endRestore (s : State) (c : Capping) (status : Nat) : State :=
  let undo := status != stDone && c.begun
  let s1 := ((if undo then (s.endArrivals c status).emptyCtx c.ctx c.mapped else s).setCap none).abandonReads fun w => w == .image
  ((s1.tellEnd c.ticket status).finish c.ticket status 0 0).settleReleases

/-- A draw stream wound back by `n` positions (R534). -/
def State.reconcile (s : State) (c n : Nat) : State :=
  if n = 0 then s
  else ({ s with guard := { s.guard with capFault := setBit32 s.guard.capFault 1 } } : State).report 0x0404 n c

/-- Put one captured slot into the lowest free slot (Table 13.9, R534, R535). -/
def State.restoreSlot (s : State) (c : Nat) (e : Slot) : State :=
  match s.freeSlotNumber with
  | none => s
  | some i =>
    let e1 := { e with
      ctx := c, drawn := e.length - 1, polling := false, pollAt := s.now, ringOff := false, waits := 0
      ringCons := if e.mirror then e.ringProd else e.ringCons
      rewind := if e.mirror then some 0 else none }
    let s1 := (s.setSlot i e1).reconcile c (e.drawn - (e.length - 1))
    if e.mirror then s1.readConsumer i else s1

/-- Put the captured learner state back: the stream stands at LAST_STEP (R534). -/
def State.restoreLearner (s : State) (c : Nat) (l : Option Learner) : State :=
  match l, s.ctx c with
  | some k, some x =>
    (s.setCtx c { x with learner := some { k with startedStep := k.lastStep, damaged := false } }).reconcile c
      (k.startedStep - k.lastStep)
  | _, _ => s

/-- The version of an owner that a grantee's entry names: its SOURCE matches and the owner holds it SHARED (R533). -/
def State.sharedSource (s : State) (owner source : Nat) : Option Version :=
  (s.versions owner .base).find? fun v => v.source == source && (v.shared || v.askedShared) && v.owner.isNone

/-- A captured version as it is restored: a grantee's one names its owner's version of today. -/
def State.restoreVersion (s : State) (v : Version) : Version :=
  match v.owner with
  | some o => { v with grans := [], owner := some (o.1, ((s.sharedSource o.1 v.source).map Version.tag).getD o.2) }
  | none => { v with grans := [] }

/-- Map a grantee's shards from the owner's granules. -/
def State.mapShared (s : State) (c : Nat) (v : Version) : State :=
  match v.owner with
  | none => s
  | some o =>
    match s.version o.1 .base o.2 with
    | none => s
    | some w =>
      let s1 := (s.putVersion o.1 .base { w with shared := true }).markReadonly o.1 w true
      (placeGranules v.shards).foldl (fun t a => let e := t.xent o.1 a; t.changeXent c a { e with wp := 0 }) s1

/-- The records of Table 13.7 as Table 13.9 restores them. -/
def State.restoreRecords (s : State) (c : Nat) (i : CapImage) : State :=
  let pool : KvPool := ⟨i.lists, i.lists.map Prod.fst, i.pages, i.hashes, i.handles, i.serial, [], 0⟩
  let vs := i.versions.map s.restoreVersion
  let s1 := s.setPool c pool
  let s2 := match s1.ctx c with
    | some x => s1.setCtx c { x with versions := vs, lastTag := i.lastTag, supers := i.supers }
    | none => s1
  let s3 := s2.setCreg c { s2.creg c with supHead := i.supHead, supTail := i.supTail }
  let s4 : State := { s3 with adapters := i.adapters.foldl (fun t a => tset t a.1 { a.2 with ctx := c }) s3.adapters }
  let s5 := vs.foldl (fun (t : State) v => t.mapShared c v) s4
  (i.slots.foldl (fun (t : State) e => t.restoreSlot c e) s5).restoreLearner c i.learner

/-- The translation granule of a protection granule. -/
def xlateGranule (a : Nat) : Nat := if inSram a then a else lpBase + (a - lpBase) / 0x200000 * 0x200000

/-- The reloads of an image's staged shards: one for each pack, its granules not yet mapped (R533, KIND 2). -/
def State.reloads (s : State) (c : Nat) (i : CapImage) (gs : List (Nat × Nat)) : List Loading :=
  let es := i.entries.filter fun e => e.kind == 2
  (union [] (es.map CapEntry.ref)).map fun id =>
    let shards := union [] ((es.filter fun e => e.ref == id).map CapEntry.arg)
    let places := (i.versions.filter fun v => v.source == id && v.fromPack).flatMap fun v =>
      v.shards.filter fun p => p.position == s.position && p.tier == 2 && shards.contains p.shard
    let mirrored := match tget s.store.packs id with
      | some k => mfMirrored k.manifest
      | none => false
    ⟨⟨0, BitVec.ofNat 64 id, 0, c⟩, id, 0, false, none, 0, false, 0, s.now, places.map fun p => .fresh p 0, places, [],
      gs.filter fun g => staged2 places g.1, none, false, mirrored, true⟩

/-- Zero the learner regions of a context before an image's data comes into them: bank 1 − CUR is +0 (Table 13.9). -/
def State.zeroRegions (s : State) (c : Nat) : State :=
  match s.ctx c with
  | none => s
  | some x => (x.packages.flatMap fun p => learnRegion p.2.package).foldl (fun (t : State) a =>
      let e := t.xent c a
      if e.valid then t.zero (e.device a) (e.device a + 0x200000) else t) s

/-- Restore an image here: fresh granules, their data, and the records (R533). An error is the status that ends the restore. -/
def State.applyImage (s : State) (k : Capping) (i : CapImage) : Except Nat (State × Capping) :=
  let c := k.ctx
  let staged (a : Nat) : Bool := i.entries.any fun e => e.kind == 2 && xlateGranule e.addr == a
  let need := (union [] ((i.entries.filter fun e => decide (e.kind ≤ 2)).map fun e => xlateGranule e.addr)).filter fun a =>
    !(s.xent c a).valid
  if i.entries.any fun e => e.kind == 3 && (s.sharedSource e.arg e.ref).isNone then .error stVersionGone
  else match s.takeGranules c staged need with
    | none => .error stCapacity
    | some (gs, s1) =>
      let now := gs.filter fun g => !staged g.1
      let s2 := (s1.mapGrans c (fun _ => false) now).zeroRegions c
      let data := ((i.entries.filter fun e => decide (e.kind ≤ 1)).map CapEntry.addr).zip i.data
      let s3 := data.foldl (fun (t : State) d => t.writeOwned c d.1 (slice d.2 0 0x10000)) s2
      let s4 := s3.restoreRecords c i
      let s5 : State := { s4 with turns := { s4.turns with
        loads := s4.turns.loads ++ s4.reloads c i (gs.filter fun g => staged g.1) } }
      .ok (s5, { k with
        begun := true, mapped := now.map Prod.fst, restored := i.slots.map Slot.seqId, stamp := BitVec.ofNat 32 i.stamp, lastStep := i.lastStep })

/-- An image has been read, or could not be: R532's checks, then the restore here. -/
def State.takeImage (s : State) (d : ReadData) : State :=
  match s.guard.cap with
  | none => s
  | some k =>
    if k.state != .restoring || k.begun then s
    else match d with
      | .failed => s.endRestore k stLinkDown
      | .image i =>
        if !s.imageFits k.ctx i then s.endRestore k stBad
        else match s.applyImage k i with
          | .error st => s.endRestore k st
          | .ok (s1, k1) => s1.wake.setCap (some k1)
      | _ => s.endRestore k stBad

/-- RESTORE_END: a module has restored its image; the queen ends the restore when every module has (R536). -/
def State.restoreEnd (s : State) (k : Capping) (pos : Nat) : State :=
  if k.state != .restoring || !s.reportsPart k pos then s
  else if pos = s.position && (!k.begun || s.turns.loads.any fun l => l.restore && l.ticket.ctx == k.ctx) then s
  else s.partDone k pos fun t c => t.endRestore c stDone

/-- RESTORE_END. -/
def execRestoreEnd (pos : Nat) (s : State) : Host.Outcome State Fault Refusal :=
  .next (match s.guard.cap with
  | none => s
  | some k => s.restoreEnd k pos)

/-! ### The end of a load (R415, R533) -/

/-- The end of a restore's reload of a pack's shards: its granules are mapped, or the restore ends. -/
def State.endReload (s : State) (l : Loading) : State :=
  match firstFailed l.shards with
  | some st => match s.guard.cap with
    | some k => s.endRestore k st
    | none => s.eraseLoad l
  | none => (s.eraseLoad l).mapGrans l.ticket.ctx (staged2 l.places) l.grans

/-- LOAD_END: every shard has ended on every module, and the queen ends the load: a DONE one takes effect or waits for its switch, any
other is undone (R415). The reload of a restore ends on its own module. -/
def execLoadEnd (packId : Nat) (s : State) : Host.Outcome State Fault Refusal :=
  .next (match s.turns.loads.find? fun l => l.packId == packId && !l.waitsSwitch && l.shards.all fun p => p.status.isSome with
  | none => s
  | some l =>
    if l.restore then s.endReload l
    else if !s.isQueen then s
    else match firstFailed l.shards with
      | some st => s.failLoad l st
      | none => ((s.doneLoad l).tellEnd l.ticket stDone).finish l.ticket stDone l.results.1 l.results.2)

end Sys2Proof.Machine
end

