-- ==== Sys2Proof/Machine/Group.lean ====
section
/-! DEFINITION. The group (R425 to R449): formation, queen move, dissolve, heartbeats, links that go down, lost modules, and the
packets HELLO, CONTROL and STALE. -/

namespace Sys2Proof.Machine

/-! ### DL_STATUS and its events (Table 11.9, Table 12.13) -/

/-- The code of DL_STATUS.STATE. -/
def groupCode : GroupState → Nat
  | .none => 0
  | .forming => 1
  | .active => 2
  | .fenced => 3

/-- Whether a link is up. -/
def State.linkUp (s : State) (k : Nat) : Bool := (s.link k).up

/-- DL_STATUS. -/
def State.dlStatus (s : State) : Nat :=
  let g := s.cascade.state != .none
  groupCode s.cascade.state + 4 * b2n (g && s.isQueen) + 8 * b2n (g && s.position == s.successorPos) +
    16 * (b2n (s.linkUp 0) + 2 * b2n (s.linkUp 1) + 4 * b2n (s.linkUp 2) + 8 * b2n (s.linkUp 3))

/-- Post GROUP_STATE, with a lost position or 0xFF. -/
def State.groupEvent (s : State) (lost : Nat) : State := s.eventAdmin 0x0005 s.dlStatus lost

/-- Set DL_STATUS.STATE. -/
def State.setGroup (s : State) (g : GroupState) : State := { s with cascade := { s.cascade with state := g } }

/-- Whether the topology uses link `k` of this module. -/
def State.linkUsed (s : State) (k : Nat) : Bool := decide (k < 4) && (s.wiring s.position k).isSome

/-- A link that no longer carries packets; its counts stay. -/
def Link.drop (l : Link) : Link :=
  { Link.reset with peer := l.peer, peerLink := l.peerLink, cause := l.cause, downs := l.downs, ce := l.ce, retry := l.retry, bytes := l.bytes }

/-- The module belongs to no group: its links are idle, DL_GROUP is cleared, DL_EPOCH stays (text before R434). -/
def State.leaveGroup (s : State) : State :=
  { s with cascade := { s.cascade with
    state := .none
    group := 0
    links := s.cascade.links.map fun e => (e.1, e.2.drop)
    readyFrom := []
    formTicket := none
    beats := []
    lost := []
    held := []
    transfers := []
    asked := []
    down := [] } }

/-! ### Formation (R428 to R430) -/

/-- DL_GROUP of a GROUP_FORM (Table 11.9). -/
def groupWord (m : List Byte) : Long :=
  BitVec.ofNat 64 (field m 32 4 + field m 43 1 % 64 * 2 ^ 32 + field m 44 1 % 64 * 2 ^ 38 + field m 45 1 % 64 * 2 ^ 44 +
    field m 41 1 % 64 * 2 ^ 50 + field m 40 1 % 4 * 2 ^ 56 + field m 42 1 % 8 * 2 ^ 58)

/-- Whether a topology's size and rows are those of Table 11.4. -/
def topologyOk (code g rows : Nat) : Bool :=
  match code with
  | 0 => g == 1 && rows == 0
  | 1 => decide (2 ≤ g) && decide (g ≤ 64) && rows == 0
  | 2 =>
    let r := rows + 1
    decide (2 ≤ r) && decide (r ≤ 8) && g % r == 0 && decide (2 ≤ g / r) && decide (g / r ≤ 8)
  | _ => decide (2 ≤ g) && decide (g ≤ 5) && rows == 0

/-- Whether the fields of a GROUP_FORM pass R429. -/
def State.formOk (s : State) (m : List Byte) : Bool :=
  let g := field m 41 1 + 1
  topologyOk (field m 40 1) g (field m 42 1) && decide (field m 43 1 < g) && decide (field m 44 1 < g) && decide (field m 45 1 < g) &&
    (g == 1 || field m 44 1 != field m 45 1) && decide (s.cascade.epoch.toNat < field m 36 4)

/-- The group is ACTIVE: heartbeat periods begin, and the formation's completion is posted (R430, R447). -/
def State.activate (s : State) : State :=
  let s1 : State := { s with cascade := { s.cascade with state := .active, formTick := s.now, beats := [], formTicket := none } }
  let s2 := match s.cascade.formTicket with
    | some t => s1.finish t stDone 0 0
    | none => s1
  s2.groupEvent 0xFF

/-- The queen sends ACTIVE once every module is READY (R430). -/
def State.settleForming (s : State) : State :=
  if s.cascade.state = .forming ∧ s.isQueen = true ∧ s.groupSize ≤ s.cascade.readyFrom.length then (s.tellAll kmActive []).activate else s

/-- This module is READY once every link its topology uses has met its partner's HELLO. -/
def State.settleReady (s : State) : State :=
  if s.cascade.state = .forming ∧ ((List.range 4).all fun k => !s.linkUsed k || (s.linkUp k && (s.link k).matched)) = true then
    if s.isQueen then
      ({ s with cascade := { s.cascade with readyFrom := ninsert s.cascade.readyFrom s.position } } : State).settleForming
    else s.tell s.queenPos kmReady []
  else s

/-- GROUP_FORM (R428 to R430). -/
def State.takeGroupForm (s : State) (m : List Byte) (t : Ticket) : State :=
  if s.cascade.state != .none || !s.ctxs.isEmpty then s.finish t stNotPermitted 0 0
  else if !s.formOk m then s.finish t stBad 0 0
  else
    let s1 : State := { s with cascade := { s.cascade with
      enable := true
      state := .forming
      group := groupWord m
      epoch := field32 m 36
      formTicket := some t
      formTick := s.now
      readyFrom := [] } }
    (s1.groupEvent 0xFF).settleReady

/-- The command of code 0x0020, from a mailbox. -/
def execGroupForm (mb : Nat) (s : State) : Host.Outcome State Fault Refusal := .next (s.serve mb 0x0020 State.takeGroupForm)

/-- READY: the queen takes a member's report (R430). -/
def execReady (pos epoch : Nat) (s : State) : Host.Outcome State Fault Refusal :=
  .next (if s.cascade.state == .forming && s.isQueen && epoch == s.cascade.epoch.toNat && s.others.contains pos then
    ({ s with cascade := { s.cascade with readyFrom := ninsert s.cascade.readyFrom pos } } : State).settleForming
  else s)

/-- ACTIVE: a member's group is ACTIVE (R430). -/
def execActive (epoch : Nat) (s : State) : Host.Outcome State Fault Refusal :=
  .next (if s.cascade.state == .forming && !s.isQueen && epoch == s.cascade.epoch.toNat then s.activate else s)

/-- FORM_WAIT_EXPIRY: a formation not ACTIVE within DL_FORM_WAIT ticks ends (R430). -/
def execFormWaitExpiry (s : State) : Host.Outcome State Fault Refusal :=
  .next (if s.cascade.state == .forming && decide (s.cascade.formTick + s.cascade.formWait.toNat ≤ s.now) then
    let s1 := match s.cascade.formTicket with
      | some t => s.leaveGroup.finish t stLinkDown 0 0
      | none => s.leaveGroup
    s1.groupEvent 0xFF
  else s)

/-! ### Links that train (R430, R434) -/

/-- DL_ENABLE: DL_CTRL.ENABLE is set, and the links that the topology uses train. -/
def execDlEnable (s : State) : Host.Outcome State Fault Refusal :=
  .next { s with cascade := { s.cascade with enable := true } }

/-- The HELLO that this module sends on link `k` (Table 11.2). -/
def State.helloPacket (s : State) (k : Nat) : List Byte :=
  packet 6 0 s.position (((s.wiring s.position k).map Prod.fst).getD 0) s.cascade.epoch.toNat 0 0
    (s.cascade.group.toNat % 2 ^ 32 + s.position * 2 ^ 32 + k * 2 ^ 38) 0 0 []

/-- DEVICE_LINK_TRAINED: a used link of a module that belongs to a group gains lane lock and sends HELLO; it carries nothing else until
the partner's HELLO matches (R430, R434). A fenced link stays idle. -/
def execDeviceLinkTrained (link : Nat) (s : State) : Host.Outcome State Fault Refusal :=
  .next (if s.cascade.enable && s.linkUsed link && !s.linkUp link && s.keeper.powerState != 2 &&
      (s.cascade.state == .forming || s.cascade.state == .active) then
    (s.setLink link { (s.link link).drop with up := true }).sendOn link (s.helloPacket link)
  else s)

/-- What a HELLO shows: a match lets the link carry packets, anything else leaves it unused (R430). -/
def State.takeHello (s : State) (k : Nat) (b : List Byte) : State :=
  let a := pkAddr b
  let q := bits a 37 32
  let j := bits a 39 38
  if s.cascade.state != .none && a % 2 ^ 32 == s.cascade.group.toNat % 2 ^ 32 && s.wiring s.position k == some (q, j) then
    (s.setLink k { s.link k with matched := true, peer := q, peerLink := j }).settleReady
  else (s.setLink k { s.link k with matched := false }).dlFault 1

/-- HELLO. -/
def execHello (link : Nat) (packet : List Byte) (s : State) : Host.Outcome State Fault Refusal :=
  .next (s.receive link packet 6 fun s => s.takeHello link packet)

/-! ### Queen move and dissolve (R432) -/

/-- Whether something of the group is not ended: a slot outside FREE, a step, a turn, a load, or a capture (R432, R523). -/
def State.groupBusy (s : State) : Bool :=
  !s.usedSlots.isEmpty || !s.steps.isEmpty || !s.learnSteps.isEmpty || s.turns.turn.isSome || s.turns.loads.any (fun l => !l.waitsSwitch) ||
    s.guard.cap.isSome

/-- QUEEN_MOVE (R432): a new epoch with a queen and a successor. -/
def State.takeQueenMove (s : State) (m : List Byte) (t : Ticket) : State :=
  let q := field m 36 1
  let n := field m 37 1
  let g := s.groupSize
  if s.cascade.state = .none ∨ s.cascade.state = .forming then s.finish t stNotPermitted 0 0
  else if field m 32 4 ≤ s.cascade.epoch.toNat ∨ g ≤ q ∨ g ≤ n ∨ (1 < g ∧ q = n) then s.finish t stBad 0 0
  else if s.groupBusy then s.finish t stNotPermitted 0 0
  else
    let s1 : State := { s with cascade := { s.cascade with
      epoch := field32 m 32
      group := BitVec.ofNat 64 (setBits (setBits s.cascade.group.toNat 43 38 q) 49 44 n)
      formTick := s.now
      beats := [] } }
    (s1.groupEvent 0xFF).finish t stDone 0 0

/-- The command of code 0x0021, from a mailbox. -/
def execQueenMove (mb : Nat) (s : State) : Host.Outcome State Fault Refusal := .next (s.serve mb 0x0021 State.takeQueenMove)

/-- End the capture or restore of the group with a status. -/
def State.endCapping (s : State) (status : Nat) : State :=
  match s.guard.cap with
  | none => s
  | some c => if c.state = .capturing then s.endCapture c status else s.endRestore c status

/-- End everything that a FENCED group still holds (R432, R448). -/
def State.endGroupItems (s : State) : State :=
  let st := if s.cascade.lost.isEmpty then stLinkDown else stDeviceLost
  (s.ctxs.map Prod.fst).foldl (fun (t : State) c => t.endItems c st) (s.endCapping st)

/-- GROUP_DISSOLVE (R432). -/
def State.takeGroupDissolve (s : State) (_ : List Byte) (t : Ticket) : State :=
  if s.cascade.state = .none ∨ s.cascade.state = .forming ∨ (s.cascade.state = .active ∧ s.groupBusy = true) then
    s.finish t stNotPermitted 0 0
  else
    let s1 := if s.cascade.state = .fenced then s.endGroupItems else s
    ((s1.leaveGroup.groupEvent 0xFF).finish t stDone 0 0).settleIdle.settleReleases

/-- The command of code 0x0022, from a mailbox. -/
def execGroupDissolve (mb : Nat) (s : State) : Host.Outcome State Fault Refusal := .next (s.serve mb 0x0022 State.takeGroupDissolve)

/-! ### A lost module (R447 to R449) -/

/-- A generation step that needs a lost module ends: one not yet run leaves its slots as they are. -/
def State.loseGenStep (s : State) (t : GenStep) : State :=
  if t.phase = .committed ∨ t.phase = .failed then s
  else
    let s1 := if t.phase = .running then s.clearCores (s.maskCores t.mask) else s
    if !s.isQueen || (t.phase == .built && t.runs.isEmpty) then s1.dropStep t else s1.failStep t stDeviceLost

/-- A learning step when position `pos` is lost: one committed by R442 ends DONE, any other is rolled back with the lost module's
micro-batches as origin (R448, R374). -/
def State.loseLearnStep (s : State) (t : LearnStep) (pos : Nat) : State :=
  if !s.isQueen then (s.stopLearn t).eraseLearn t.ctx
  else if t.commitSent then
    if s.others.all fun p => t.acks.contains p || s.cascade.lost.contains p then s.finishCommit t else s
  else
    let gs := (List.range t.plan.micros.length).filter fun g => g % s.groupSize == pos
    s.rollBack { t with status := stDeviceLost, origins := gs.foldl ninsert t.origins } stDeviceLost

/-- Turns, loads and a capture or restore that need a lost module end. -/
def State.loseMoves (s : State) : State :=
  let s1 := match s.turns.turn with
    | some t => s.undoTurn t stDeviceLost
    | none => s
  let s2 := (s1.turns.loads.filter fun l => !l.waitsSwitch && !l.restore).foldl (fun (t : State) l => t.failLoad l stDeviceLost) s1
  s2.endCapping stDeviceLost

/-- A member that has lost its queen reports through its own context mailboxes: the successor the queen's last set, any other its own running
items (R449). -/
def State.reportSet (s : State) (es : List SuccessorEntry) (items : List (Nat × Nat × Nat)) : State :=
  let post (t : State) (c kind item : Nat) : State :=
    t.post (c + 16) ⟨0, BitVec.ofNat 64 item, 0, 0, stDeviceLost, kind, false, true, 0, c, 0, 0, t.now⟩
  let s1 := es.foldl (fun (t : State) e => post t e.ctx 1 e.seqId.toNat) s
  items.foldl (fun (t : State) x => post t x.1 x.2.1 x.2.2) s1

/-- Take position `pos` as lost (R447): the group is FENCED and what needs the module ends (R448, R449). -/
def State.takeLost (s : State) (pos : Nat) : State :=
  if s.cascade.lost.contains pos || s.cascade.state == .none || s.cascade.state == .forming then s
  else
    let s1 : State := { s with cascade := { s.cascade with lost := ninsert s.cascade.lost pos, state := .fenced } }
    let s2 := (s1.dlFault 4).groupEvent pos
    let s3 := s2.learnSteps.foldl (fun (t : State) x => t.loseLearnStep x pos) s2
    let s4 := s3.steps.foldl (fun (t : State) x => t.loseGenStep x) s3
    let s5 := s4.loseMoves
    if pos != s.queenPos then s5
    else if s.position = s.successorPos then s5.reportSet s.cascade.successorSet s.cascade.successorItems
    else s5.reportSet [] s.successorItemsOf

/-- Whether every link that the topology gives toward position `pos` is reported down (R447). -/
def State.cutOff (s : State) (pos : Nat) : Bool :=
  s.groupSize != 1 && (List.range s.groupSize).all fun p => p == pos || (List.range 4).all fun k =>
    (s.wiring p k).map Prod.fst != some pos || s.cascade.down.contains (p, k)

/-- The queen notes link `k` of position `p` as down, and takes its partner as lost where that was the last link toward it. -/
def State.noteDown (s : State) (p k : Nat) : State :=
  let s1 : State := { s with cascade := { s.cascade with
    down := if s.cascade.down.contains (p, k) then s.cascade.down else s.cascade.down ++ [(p, k)] } }
  match s1.wiring p k with
  | some (q, _) => if s1.cutOff q && q != s1.position then s1.takeLost q else s1
  | none => s1

/-- An ACTIVE group becomes FENCED (R446): a learning step that runs no core step here is rolled back; one that does is when it ends. -/
def State.fenceGroup (s : State) : State :=
  if s.cascade.state != .active then s
  else
    let s1 := (s.setGroup .fenced).groupEvent 0xFF
    if s.isQueen then
      (s1.learnSteps.filter fun t => !t.running && !t.commitSent).foldl (fun (u : State) t => u.failLearn t stLinkDown) s1
    else s1

/-- Fence a link that goes down (R446): its own transfers end, forwarded packets are answered, and the loss is reported. -/
def State.fenceLink (s : State) (k cause : Nat) : State :=
  let l := s.link k
  if !l.up then s
  else
    let l1 := { l.drop with cause := cause, downs := min 0xFFFF (l.downs + 1) }
    let q := ((s.wiring s.position k).map Prod.fst).getD l.peer
    let s1 := ((s.setLink k l1).report 0x0300 cause k).eventAdmin 0x0002 (k + 4 * cause) q
    let lostOnes := (l.unacked ++ l.waiting.map Prod.snd).filter fun b => decide (pkType b ≤ 2) && pkSrc b != s.position
    let once := lostOnes.foldl (fun (acc : List (List Byte)) b =>
      if acc.any fun x => pkSrc x == pkSrc b && pkTag x == pkTag b then acc else acc ++ [b]) []
    let s2 := once.foldl (fun (t : State) b => t.answerDone b 4) s1
    let s3 := (s.cascade.transfers.filter fun x => x.link == k).foldl (fun (t : State) x => t.endTransfer x.tag 4) s2
    let s4 := if s3.isQueen then s3.noteDown s3.position k else s3.tell s3.queenPos kmLoss (leBytes 2 0 ++ leBytes 1 k)
    s4.fenceGroup

/-- LINK_DOWN: loss of lane lock, no unit, or the replay limit (R445). -/
def execLinkDown (link cause : Nat) (s : State) : Host.Outcome State Fault Refusal := .next (s.fenceLink link (cause % 4))

/-- DL_FENCE: DL_CTRL.FENCE fences every link (R446). -/
def execDlFence (s : State) : Host.Outcome State Fault Refusal :=
  .next ((List.range 4).foldl (fun (t : State) k => t.fenceLink k 3) s)

/-! ### Heartbeats (R447) -/

/-- Ticks of a heartbeat period. -/
def State.beatPeriod (s : State) : Nat := 10 * max 1 (bits s.cascade.hbCfg.toNat 15 0)

/-- Whether position `pos` exchanges heartbeats with this module. -/
def State.beatsWith (s : State) (pos : Nat) : Bool := s.others.contains pos && (s.isQueen || pos == s.queenPos)

/-- HEARTBEAT: a partner's packet has come. -/
def execHeartbeat (pos : Nat) (s : State) : Host.Outcome State Fault Refusal :=
  .next (if (s.cascade.state == .active || s.cascade.state == .fenced) && s.beatsWith pos then
    { s with cascade := { s.cascade with beats := tset s.cascade.beats pos s.now } }
  else s)

/-- Whole periods since ACTIVE in which no heartbeat came from a position, counted back from the present one (R36, R447). -/
def State.missedBeats (s : State) (pos : Nat) : Nat :=
  let k := (s.now - s.cascade.formTick) / s.beatPeriod
  match tget s.cascade.beats pos with
  | some t => k - (t - s.cascade.formTick) / s.beatPeriod - 1
  | none => k

/-- HEARTBEAT_LOSS: MISSES consecutive periods without a heartbeat take the partner as lost. -/
def execHeartbeatLoss (pos : Nat) (s : State) : Host.Outcome State Fault Refusal :=
  .next (if (s.cascade.state == .active || s.cascade.state == .fenced) && s.beatsWith pos &&
      decide (bits s.cascade.hbCfg.toNat 23 16 ≤ s.missedBeats pos) then s.takeLost pos
  else s)

/-- HEARTBEAT_SEND: once per period a member's heartbeat to the queen, or the queen's to every member; none while the Keeper restarts
(text after R549). -/
def execHeartbeatSend (s : State) : Host.Outcome State Fault Refusal :=
  .next (if s.cascade.state != .active || s.keeper.mode != .running then s
  else if s.isQueen then s.tellAll kmHeartbeat [] else s.tell s.queenPos kmHeartbeat [])

/-! ### What members do for their queen (R392, R395, R411, R523, R532) -/

/-- A member's part of a command that its queen has accepted; `body` is the manifest or turn map that the command names. -/
def State.obey (s : State) (m body : List Byte) : State :=
  let c := msgContext m
  let t : Ticket := ⟨0, BitVec.ofNat 64 (msgTag m), 0, c⟩
  match msgCommand m with
  | 0x0040 => match (s.ctx c).bind fun x => x.loadKind body with
    | some (k, kind) => s.acceptLoad t m body c k kind
    | none => s
  | 0x0041 => if s.turns.turn.isSome then s else (s.setTurn (.accepted .learn t (msgLc m) (field m 32 1) 0 0)).settleIdle
  | 0x0042 =>
    if s.turns.turn.isSome then s
    else if field m 32 1 = 2 then (s.setTurn (.accepted .restore t (msgLc m) (field m 33 1) 0 (field m 48 8))).settleIdle
    else (s.acceptTurn (.accepted (if field m 32 1 = 0 then .full else .adapter) t (msgLc m) (field m 33 1) (field m 34 2) (field m 48 8))
      m body).settleIdle
  | 0x0043 => s.takeSwitchMode m t
  | 0x0044 => s.takeVersionRetire m t
  | 0x0045 => s.takeVersionGrant m t
  | 0x0046 => s.takeVersionRevoke m t
  | 0x0047 => s.takeAdapterRelease m t
  | 0x0053 => s.takeCapTake m t
  | 0x0054 => s.takeCapRestore m t
  | _ => s

/-- The turn, load or capping operation that a ticket's tag names ends here with the status that the queen gives. -/
def State.orderEnds (s : State) (tag : Long) (command c status : Nat) : State :=
  let s1 : State := match s.turns.turn with
    | some t =>
      if t.ticket.tag = tag ∧ t.ticket.ctx = c ∧ (command = 0x0041 ∨ command = 0x0042) then
        if status ≠ stDone then s.undoTurn t status
        else if t.kind = .learn then s.doneLearn t else s.switchTurn t
      else s
    | none => s
  let s2 : State := match s1.turns.loads.find? fun l => l.ticket.tag == tag && l.ticket.ctx == c && !l.waitsSwitch && !l.restore with
    | some l => if command != 0x0040 then s1 else if status = stDone then s1.doneLoad l else s1.failLoad l status
    | none => s1
  match s2.guard.cap with
  | some k =>
    if k.ticket.tag = tag ∧ k.ctx = c ∧ (command = 0x0053 ∨ command = 0x0054) then
      if k.state = .capturing then s2.endCapture k status else s2.endRestore k status
    else s2
  | none => s2

/-- A member's report that an operation has ended there: its part of a capture or restore is done, or the operation fails. -/
def State.memberEnds (s : State) (pos : Nat) (tag : Long) (command c status : Nat) : State :=
  match s.guard.cap with
  | some k =>
    if k.ctx = c ∧ status = stDone then if k.state = .capturing then s.captureEnd k pos else s.restoreEnd k pos
    else if status = stDone then s else s.orderEnds tag command c status
  | none => if status = stDone then s else s.orderEnds tag command c status

/-- The entries of a successor's set (R433). -/
def successorEntries (b : List Byte) : List SuccessorEntry :=
  (List.range (b.length / 16)).map fun i =>
    ⟨BitVec.ofNat 64 (field b (16 * i) 8), field b (16 * i + 8) 2, slotStateOf (field b (16 * i + 10) 2), field b (16 * i + 12) 2⟩

/-- A member takes the clip factor of its learning step (R364). -/
def State.takeClip (s : State) (c : Nat) (f : Word) : State :=
  match s.learnStep c with
  | some t => s.setLearn { t with clipFactor := some f }
  | none => s

/-- A member takes bytes of its micro-batches' inputs (R344). -/
def State.takeInputs (s : State) (c a : Nat) (b : List Byte) : State :=
  match s.learnStep c with
  | some t => (s.writeOwned c a b).setLearn { t with inputsDue := t.inputsDue - b.length }
  | none => s

/-- A member takes bytes of the input of a micro-batch that it replays. -/
def State.takeReplayInput (s : State) (c g o : Nat) (b : List Byte) : State :=
  match s.learnStep c with
  | some t => s.setLearn { t with replayInputs := tset t.replayInputs g (if o = 0 then b else tgetD t.replayInputs g [] ++ b) }
  | none => s

/-- What a Keeper message from position `p` makes this module do. Messages with a row of their own act by that row. -/
def State.takeControl (s : State) (p : Nat) (kind : ControlKind) : State :=
  match kind with
  | .lossReport k =>
    if s.isQueen then
      let s1 := if s.cascade.state = .active then s.tellAll kmLoss (leBytes 2 0 ++ leBytes 1 k) else s
      (s1.noteDown p k).fenceGroup
    else s.fenceGroup
  | .refuse => if s.isQueen then (List.range 4).foldl (fun (t : State) k => t.fenceLink k 3) s else s
  | .order m body => if !s.isQueen && p == s.queenPos then s.obey m body else s
  | .suspects c => if !s.isQueen && p == s.queenPos then (s.maskCores (s.creg c).combs).foldl State.suspect s else s
  | .orderEnd tag command c status =>
    if s.isQueen then s.memberEnds p tag command c status
    else if p = s.queenPos then s.orderEnds tag command c status else s
  | .successor b items =>
    if p = s.queenPos ∧ s.position = s.successorPos then
      { s with cascade := { s.cascade with successorSet := successorEntries b, successorItems := items } }
    else s
  | .capHold i => s.holdImage i
  | .capImage i => s.takeImage (.image i)
  | .clip c f => if !s.isQueen && p == s.queenPos then s.takeClip c f else s
  | .scales es => if !s.isQueen && p == s.queenPos then s.takeScales es else s
  | .inputs c a b => if !s.isQueen && p == s.queenPos then s.takeInputs c a b else s
  | .replayInputs c g o b => if !s.isQueen && p == s.queenPos then s.takeReplayInput c g o b else s
  | .stepStart => s
  | .stepEnd => s
  | .staged => s
  | .replay => s
  | .replayResult => s
  | .commit => s
  | .rollback => s
  | .ack => s
  | .ready => s
  | .active => s
  | .heartbeat => s
  | .other => s

/-- CONTROL (R427). -/
def execControl (link : Nat) (packet : List Byte) (kind : ControlKind) (s : State) : Host.Outcome State Fault Refusal :=
  .next (s.receive link packet 3 fun s => s.takeControl (pkSrc packet) kind)

/-! ### STALE (R437) -/

/-- A step whose message was answered STALE ends FAILED_ROLE_STALE, rolled back where it is a learning step (Table 11.6). -/
def State.staleStep (s : State) (c : Nat) : State :=
  match s.genStep c with
  | some t =>
    if t.phase = .committed ∨ t.phase = .failed then s
    else
      let s1 := if t.phase = .running then s.clearCores (s.maskCores t.mask) else s
      if s.isQueen then s1.failStep t stRoleStale else s1.dropStep t
  | none => match s.learnStep c with
    | some t =>
      if !s.isQueen then (s.stopLearn t).eraseLearn c
      else if t.commitSent then s
      else s.failLearn t stRoleStale
    | none => s

/-- STALE: the transfer or step that the tag names ends (Table 11.6). -/
def State.takeStale (s : State) (tag : Nat) : State :=
  let s1 := s.dlFault 2
  if s1.cascade.transfers.any fun x => x.tag == tag then s1.endTransfer tag 1
  else match s1.cascade.asked.find? fun x => x.1 == tag with
    | some x => ({ s1 with cascade := { s1.cascade with asked := s1.cascade.asked.filter fun y => y.1 != tag } } : State).staleStep x.2
    | none => s1

/-- STALE. -/
def execStale (link : Nat) (packet : List Byte) (s : State) : Host.Outcome State Fault Refusal :=
  .next (s.receive link packet 5 fun s => s.takeStale (pkTag packet))

end Sys2Proof.Machine
end

