-- ==== Sys2Proof/Machine/Guard.lean ====
section
/-! DEFINITION. The guard beside its decisions: GUARD_SET (R503), tests and retirement of cores (R162 to R165, R515, R519 to R521), and
hardened registers (R494 to R496). -/

namespace Sys2Proof.Machine

/-- GUARD_SET: FRACTION of a context (R503). -/
def State.takeGuardSet (s : State) (m : List Byte) (t : Ticket) : State :=
  let c := msgContext m
  (s.setCreg c { s.creg c with guardCfg := BitVec.ofNat 32 (field m 32 1 % 4) }).finish t stDone 0 0

/-- The command of code 0x0052, from a mailbox. -/
def execGuardSet (mb : Nat) (s : State) : Host.Outcome State Fault Refusal := .next (s.serve mb 0x0052 State.takeGuardSet)

/-! ### Cores that fail (R163 to R165, R519 to R521) -/

/-- The logical position that a physical core serves. -/
def State.servedBy (s : State) (p : Nat) : Option Nat := (List.range 512).find? fun c => s.positionCore c == p

/-- Whether comb `k`'s spare works and serves no position. -/
def State.spareFree (s : State) (k : Nat) : Bool := !s.isRetired (17 * k + 16) && (s.servedBy (17 * k + 16)).isNone

/-- Whether the contexts of a comb are between steps and without a learning step RUNNING or STAGED (R515). -/
def State.combRests (s : State) (k : Nat) : Bool :=
  let uses (c : Nat) : Bool := bitAt (s.creg c).combs.toNat k
  (s.steps.all fun t => !uses t.ctx || (t.phase == .built && t.runs.isEmpty)) &&
    s.learnSteps.all fun t => !uses t.ctx || (t.state != .running && t.state != .staged)

/-- End a learning step whose redo a core without a spare has refused (R515). -/
def State.refuseRedo (s : State) (t : LearnStep) : State :=
  (((s.completeLearn t stDisagree).eraseLearn t.ctx).sweepVersions t.ctx).settleIdle.settleReleases

/-- Enter DEGRADED, or lower L in it, and post the event (R519, R521). -/
def State.degrade (s : State) : State :=
  let s1 : State := { s with guard := { s.guard with degraded := true } }
  s1.eventAdmin 0x0008 s1.coreCount 0

/-- The copy of logical core `c`'s slice to the spare's (R165): every byte stays at its address, and the items that hold a word of it that
cannot be read end: a word known to be damaged, or one of `lost`, which the copy finds so. -/
def State.copySlice (s : State) (c : Nat) (lost : List Nat) : State :=
  let mine (d : Nat) : Bool := inSram d && d / 0x2000000 == c
  let found := lost.filter mine
  found.foldl (fun (t : State) d => t.memUncorrectable d false none)
    (s.loseData (union (s.memCtl.uncorrectable.filter mine) (found.map codeWord)))

/-- Retire a physical core for the module's life: its comb's spare takes its position with its window and slice address, or the module
enters DEGRADED (R163, R164, R519). -/
def State.failCore (s : State) (p : Nat) (lost : List Nat) : State :=
  let k := combOf p
  let s1 : State := { (s.setCore p { s.core p with mode := .retired }).report 0x0202 1 p with
    guard := { s.guard with suspects := s.guard.suspects.filter fun x => x != p, testing := s.guard.testing.filter fun x => x != p } }
  let s2 : State := { s1 with ledger := s1.ledger.retireCore p }
  match s.servedBy p with
  | none => s2
  | some c =>
    if s.spareFree k then ({ s2 with coreMap := tset s2.coreMap c (17 * k + 16) } : State).copySlice c lost
    else
      let waits := s2.learnSteps.filter fun t => t.redoing && bitAt (s.creg t.ctx).combs.toNat k
      (waits.foldl State.refuseRedo s2).degrade

/-- CORE_SELF_TEST: at the first boundary at which its comb rests, a suspect core's test starts; a core suspect for the fourth time is
retired without one (R515). `lost` are the words that the copy of its slice cannot read. -/
def execCoreSelfTest (p : CoreLoss) (s : State) : Host.Outcome State Fault Refusal :=
  .next (if s.guard.suspects.contains p.core && !s.guard.testing.contains p.core && s.combRests (combOf p.core) &&
      s.keeper.mode == .running then
    if 4 ≤ tgetD s.guard.suspicions p.core 0 then s.failCore p.core p.lost
    else { s with guard := { s.guard with testing := ninsert s.guard.testing p.core } }
  else s)

/-- CORE_SELF_TEST_DONE: a core that passes is suspect no more; one that fails is a failed core (R515). -/
def execCoreSelfTestDone (p : CoreLoss) (pass : Bool) (s : State) : Host.Outcome State Fault Refusal :=
  .next (if !s.guard.testing.contains p.core then s
  else if pass then
    { s with guard := { s.guard with
      suspects := s.guard.suspects.filter fun x => x != p.core, testing := s.guard.testing.filter fun x => x != p.core } }
  else s.failCore p.core p.lost)

/-! ### Hardened registers (R494 to R496) -/

/-- A block's CFG_MISMATCH bit. -/
inductive CfgBit where
  | core (p : Nat)
  | veu (p : Nat)
  | mem | brd | trn | dl | eth | grd | kpr | clk | prp
  deriving DecidableEq, Repr

/-- The hardened registers of a core window, by offset (R167, R211): whether the VEU's. -/
def hardCore (off : Nat) : Option Bool :=
  if off = 0x18 ∨ off = 0x20 ∨ off = 0x30 then some false
  else if off = 0x8020 then some true
  else if 0x8080 ≤ off ∧ off < 0x80E0 ∧ ((off - 0x8080) % 0x20 = 0 ∨ (off - 0x8080) % 0x20 = 4 ∨ (off - 0x8080) % 0x20 = 0x10 ∨
      (off - 0x8080) % 0x20 = 0x18) then some true
  else none

/-- The CFG_MISMATCH bit of the hardened register at a device address; none where no hardened register lies (R167, R211, R253, R295,
R331, R416, R450, R492, R538, R571, R572, R598). -/
def State.hardened (s : State) (a : Nat) : Option CfgBit :=
  let off := a % 0x1000000
  let coreBit (p : Nat) : Option CfgBit := (hardCore (a % 0x10000)).map fun v => if v then .veu p else .core p
  match a / 0x1000000 with
  | 0x800 => coreBit (s.logicalCore (off / 0x10000))
  | 0x801 => coreBit (s.logicalCore (256 + off / 0x10000))
  | 0x804 => coreBit (off / 0x10000)
  | 0x805 => coreBit (256 + off / 0x10000)
  | 0x806 => if off / 0x10000 < 32 then coreBit (512 + off / 0x10000) else none
  | 0x810 =>
    if off = 0 ∨ (0x1000 ≤ off ∧ off < 0x5000 ∧ (off % 0x20 = 0 ∨ off % 0x20 = 8)) ∨
      (0x800000 ≤ off ∧ off < 0x808000 ∧ off % 8 = 0 ∧ off % 0x40 ≤ 0x28) then some .brd else none
  | 0x812 => if off = 8 ∨ off = 0x10 ∨ off = 0x20 then some .mem else none
  | 0x814 => if off = 0 ∨ off = 0x10 ∨ off = 0x18 then some .trn else none
  | 0x815 => if off = 0x10 ∨ off = 0x18 ∨ off = 0x28 then some .dl else none
  | 0x816 => if off = 0 ∨ off = 0x18 ∨ off = 0x20 then some .eth else none
  | 0x817 => if off = 0x10 ∨ off = 0x18 ∨ off = 0x38 then some .kpr else none
  | 0x818 => if off = 0x8008 then some .clk else none
  | 0x819 => if off = 8 then some .prp else none
  | 0x81B => if 0x1000 ≤ off ∧ off < 0x2000 ∧ off % 8 = 0 then some .grd else none
  | _ => none

/-- Set a block's CFG_MISMATCH bit. A core's run faults; CORE_FAULT_AT then names no frame, and its value is free. -/
def State.markCfg (s : State) (b : CfgBit) : State :=
  match b with
  | .core p => s.raiseUnplaced p false 10
  | .veu p => s.raiseUnplaced p true 5
  | .mem => { s with memCtl := { s.memCtl with errInfo := setBit32 s.memCtl.errInfo 3 } }
  | .brd => { s with brdFault := setBit32 s.brdFault 0 }
  | .trn => { s with turns := { s.turns with fault := setBit32 s.turns.fault 0 } }
  | .dl => s.dlFault 0
  | .eth => { s with port := { s.port with fault := setBit32 s.port.fault 0 } }
  | .grd => { s with guard := { s.guard with fault := setBit32 s.guard.fault 0 } }
  | .kpr => { s with keeper := { s.keeper with fault := setBit32 s.keeper.fault 0 } }
  | .clk => s
  | .prp => { s with propolis := { s.propolis with fault := setBit32 s.propolis.fault 0 } }

/-- CFG_MISMATCH: one copy of a hardened register differs and is rewritten from the other two (R494, R495). The register reads as
before; the block's bit, GRD_CFG_FIXES and the Ledger record it. -/
def execCfgMismatch (addr : Nat) (s : State) : Host.Outcome State Fault Refusal :=
  .next (match s.hardened addr with
  | none => s
  | some b => ({ s.markCfg b with guard := { (s.markCfg b).guard with cfgFixes := s.guard.cfgFixes + 1 } } : State).report 0x0402 addr
      noUnit)

/-- Abort every core. -/
def State.abortAll (s : State) : State := { s with cores := s.cores.map fun e => (e.1, e.2.abort) }

/-- End a step that cannot go on: its sequences end with the status. -/
def State.endGenStep (s : State) (t : GenStep) (status : Nat) : State :=
  if !s.isQueen then s.dropStep t
  else if t.phase = .committed ∨ t.phase = .failed then s.queenBoundary t
  else s.queenBoundary { t with phase := .failed, status := status }

/-- End every running item of the module with a status (R496, R549). -/
def State.endRunning (s : State) (status : Nat) : State :=
  let s1 := s.steps.foldl (fun (u : State) t => u.endGenStep t status) s
  (s1.ctxs.map Prod.fst).foldl (fun (u : State) c => u.endItems c status) (s1.endCapping status)

/-- CFG_LOST: no two copies of a hardened register agree (R496). A register has no tier, so VALUE1's tier is free (log entry 90). -/
def execCfgLost (addr : Nat) (s : State) : Host.Outcome State Fault Refusal :=
  .next (if (s.hardened addr).isNone then s
  else
    let s1 : State := { s.report 0x0403 addr noUnit with guard := { s.guard with cfgLost := true, fault := setBit32 s.guard.fault 1 } }
    let s2 := s1.abortAll.endRunning stMem
    let f := ((List.range 4).foldl (fun (t : State) k => t.fenceLink k 3) s2).fresh
    f.2.eventAdmin 0x0001 addr (f.1 % 2))

end Sys2Proof.Machine
end

