-- ==== Sys2Proof/Machine/Power.lean ====
section
/-! DEFINITION. Power states (R559 to R561), Power Guard (R562 to R567) and the CCLK divider (R568, R569). -/

namespace Sys2Proof.Machine

/-! ### Power Guard's record (R563 to R567) -/

/-- Current clamps of the rails, in A (Table 14.6). -/
def railClamps : List Nat := [1800, 560, 140, 120, 220, 3]

/-- The clamp of a rail. -/
def railClamp (r : Nat) : Nat := (railClamps[r]?).getD 0

/-- Setpoints of VCORE by code, in mV (Table 14.7). -/
def vcoreSet (c : Nat) : Nat := ([850, 780, 740, 680][c]?).getD 680

/-- Minimum VCORE by code, in mV (Table 14.7). -/
def vcoreMin (c : Nat) : Nat := ([820, 755, 715, 655][c]?).getD 655

/-- Setpoint of a rail, in mV; that of VCORE is the divider code's. -/
def Power.setpoint (p : Power) (r : Nat) : Nat := if r = 0 then vcoreSet p.divider else ([0, 750, 1050, 800, 800, 3300][r]?).getD 0

/-- The junction reading in °C as FP32 (VALUE1 of a POWER event). -/
def junction32 (temp : Word) : Nat := rne32 ((Val.ofInt (signed 16 (bits temp.toNat 15 0))).scale (-4))

/-- Post a POWER event and enter its cause in the Ledger (R567). -/
def State.powerEvent (s : State) (cause unit : Nat) : State :=
  let s1 : State := { s with power := { s.power with causeCode := cause } }
  (s1.eventAdmin 0x0006 cause (junction32 s.power.temp)).report 0x0601 cause unit

/-- ALERT_N follows EMERGENCY; a running Keeper restart does not release it (R566). -/
def State.drawAlert (s : State) : State :=
  { s with pins := { s.pins with alert := s.power.emergency || (s.pins.alert && s.keeper.mode == .restarting) } }

/-! ### The divider (R568, R569) -/

/-- The code that the requests and the ceiling call for (R568). -/
def Power.wanted (p : Power) : Nat := max p.request (max p.hostCeil p.ceiling)

/-- Change the divider in force. -/
def Power.setDivider (p : Power) (c : Nat) : Power :=
  if c = p.divider then p else { p with divider := c, dvfsCount := p.dvfsCount + 1 }

/-- Act on the code called for when no raise is in progress: slower at once, faster by a raise of VCORE. -/
def Power.retarget (p : Power) (now : Nat) : Power :=
  if p.target.isSome then p
  else if p.divider < p.wanted then p.setDivider p.wanted
  else if p.wanted < p.divider && !p.raiseHeld then { p with target := some p.wanted, raiseAt := now }
  else p

/-- Act on a rise of the ceiling, which a raise in progress does not hold back. -/
def Power.guardRise (p : Power) (now : Nat) : Power :=
  match p.target with
  | none => p.retarget now
  | some t => if t < p.wanted then ({ p with target := none } : Power).setDivider p.wanted else p

/-- Set the ceiling code with its cause: EMERGENCY opens as it leaves 0 and the divider follows (R564, R566, R567, R569). -/
def State.setCeiling (s : State) (code cause unit : Nat) : State :=
  let p := s.power
  if code = p.ceiling then s
  else
    let up := decide (p.ceiling < code)
    let p1 := { p with
      ceiling := code
      emergency := p.emergency || decide (0 < code)
      zeroTick := if code = 0 then s.now else p.zeroTick
      rises := if up then p.rises + 1 else p.rises }
    let p2 := if up then p1.guardRise s.now else p1.retarget s.now
    (State.drawAlert { s with power := p2 }).powerEvent cause unit

/-- The floor that VCORE sets (R564): the lowest code whose minimum is at or below it, where it lies below the minimum of the code in
force. -/
def Power.floor (p : Power) : Nat :=
  let v := (p.railMv[0]?).getD 0
  if vcoreMin p.divider ≤ v then 0 else ((List.range 4).find? fun c => decide (vcoreMin c ≤ v)).getD 3

/-- The ceiling code and cause after a window, before the floor (R564). -/
def Power.afterWindow (p : Power) (r : PowerReadings) : Nat × Nat :=
  if 1600 ≤ r.tj then (min 3 (p.ceiling + 1), 0x01)
  else if 2200 < r.watts then (min 3 (p.ceiling + 1), 0x02)
  else if decide (r.tj < 1520) && decide (r.watts < 2000) && r.railsCalm && p.clamped.isEmpty then (p.ceiling - 1, 0x04)
  else (p.ceiling, 0x04)

/-- Unit of a cause's Ledger entry: its sensor or rail. -/
def causeUnit (cause sensor rail : Nat) : Nat :=
  if cause = 0x01 || cause = 0x06 then sensor else if cause = 0x03 || cause = 0x07 || cause = 0x08 then rail else noUnit

/-- PGD_TEMP of a reading. -/
def tempWord (tj : Int) (sensor : Nat) : Word := BitVec.ofNat 32 (unsigned 16 tj + 2 ^ 16 * (sensor % 64))

/-- PGD_WINDOW_END: the readings of the window that ended are taken and the ceiling rises, falls or holds; a raise held off is tried
again (R563, R564, R569). -/
def execPgdWindowEnd (r : PowerReadings) (s : State) : Host.Outcome State Fault Refusal :=
  .next (if !s.clocked then s
  else
    let s1 : State := { s with power := { s.power with
      temp := tempWord r.tj r.sensor
      watts := BitVec.ofNat 32 (r.watts % 65536)
      railMv := r.railMv
      railAmps := r.railAmps
      raiseHeld := false } }
    let c := s1.power.afterWindow r
    let f := s1.power.floor
    let s2 := if c.1 < f then s1.setCeiling f 0x08 (causeUnit 0x08 r.sensor 0) else s1.setCeiling c.1 c.2 (causeUnit c.2 r.sensor 0)
    { s2 with power := s2.power.retarget s2.now })

/-- RAIL_CURRENT_CLAMP: a rail above its clamp sets the code to 3 (R564). -/
def execRailCurrentClamp (rail amps : Nat) (s : State) : Host.Outcome State Fault Refusal :=
  .next (if !s.clocked || decide (6 ≤ rail) || decide (amps ≤ railClamp rail) then s
  else
    let p := s.power
    let was := p.clamped.contains rail
    let s1 : State := { s with power := { p with
      railAmps := p.railAmps.set rail amps
      clamped := ninsert p.clamped rail
      clamps := if was then p.clamps else p.clamps + 1 } }
    if s1.power.ceiling < 3 then s1.setCeiling 3 0x03 rail
    else if was then s1 else s1.powerEvent 0x03 rail)

/-- RAIL_CLAMP_RELEASE: a rail's current falls back to its clamp or below; CLAMP clears with the last of them, and the change is posted
(R567). -/
def execRailClampRelease (rail amps : Nat) (s : State) : Host.Outcome State Fault Refusal :=
  .next (if !s.clocked || !s.power.clamped.contains rail || decide (railClamp rail < amps) then s
  else
    let p := s.power
    State.powerEvent { s with power := { p with
      railAmps := p.railAmps.set rail amps
      clamped := p.clamped.filter fun r => r != rail } } 0x03 rail)

/-- The code is never below the floor that the measured VCORE sets; a rise that it makes carries cause 0x08 (R564). -/
def State.applyFloor (s : State) : State :=
  if s.power.ceiling < s.power.floor then s.setCeiling s.power.floor 0x08 0 else s

/-- VCORE_REACHED: a measured VCORE at or above the minimum of a raise's code makes the faster divider take effect (R569); one below the
minimum of the code in force raises the ceiling (R564). -/
def execVcoreReached (mv : Nat) (s : State) : Host.Outcome State Fault Refusal :=
  .next (if !s.clocked then s
  else
    let p := { s.power with railMv := s.power.railMv.set 0 mv }
    match p.target with
    | none => State.applyFloor { s with power := p }
    | some t =>
      if vcoreMin t ≤ mv then { s with power := (({ p with target := none } : Power).setDivider t).retarget s.now }
      else State.applyFloor { s with power := p })

/-- DVFS_RAISE_TIMEOUT: a raise that has not reached its minimum in 30 µs is abandoned until the end of the next window, and a change of code
that came during it is applied (R569). -/
def execDvfsRaiseTimeout (s : State) : Host.Outcome State Fault Refusal :=
  .next (if s.power.target.isSome && decide (s.power.raiseAt + 30 * usTicks ≤ s.now) then
    { s with power := ({ s.power with target := none, raiseHeld := true } : Power).retarget s.now }
  else s)

/-- A write of CLK_DVFS: REQUEST by the firmware, HOST_CEIL with it. -/
def State.writeDvfs (s : State) (v : Nat) : State :=
  let p := { s.power with request := bits v 1 0, hostCeil := bits v 3 2 }
  { s with power := p.retarget s.now }

/-- CLK_DVFS_WRITE (R568, R569): during a raise the change is applied after it ends. -/
def execClkDvfsWrite (v : Word) (s : State) : Host.Outcome State Fault Refusal := .next (s.writeDvfs v.toNat)

/-! ### Power states (R559 to R561) -/

/-- Whether a slot, step, learning step, turn, load, capture or restore holds the module in P0 (R560). -/
def State.powerBusy (s : State) : Bool :=
  (s.slots.any fun e => e.2.state == .prefill || e.2.state == .decode || e.2.state == .held) || !s.steps.isEmpty ||
    !s.learnSteps.isEmpty || s.turns.turn.isSome || s.loadingNow || s.guard.cap.isSome

/-- Enter a power state: scrubbing stops in P2, where the device links go to electrical idle and the stacks to self-refresh. -/
def State.enterPower (s : State) (n : Nat) : State :=
  if n = s.keeper.powerState then s
  else
    let s1 : State := { s with
      keeper := { s.keeper with powerState := n, selfRefresh := n == 2, lastP2Access := s.now }
      memCtl := { s.memCtl with scrubPaused := n == 2 } }
    if n = 2 then
      { s1 with cascade := { s1.cascade with links := s1.cascade.links.map fun l => (l.1, { l.2 with up := false, matched := false }) } }
    else s1

/-- POWER_SET: the divider ceiling, and the power state where R560 lets it change. -/
def State.takePowerSet (s : State) (m : List Byte) (t : Ticket) : State :=
  let v := field m 32 1
  let n := bits v 1 0
  if n != 0 && n != s.keeper.powerState &&
      (s.powerBusy || (n == 2 && s.cascade.state == .active && decide (1 < s.groupSize))) then s.finish t stNotPermitted 0 0
  else
    let p := { s.power with hostCeil := bits v 3 2 }
    (State.enterPower { s with power := p.retarget s.now } n).finish t stDone 0 0

/-- The command of code 0x0062, from a mailbox. -/
def execPowerSet (mb : Nat) (s : State) : Host.Outcome State Fault Refusal := .next (s.serve mb 0x0062 State.takePowerSet)

/-- SELF_REFRESH_IDLE: in P2, after 100 µs without an access to the Keeper region, the stacks return to self-refresh (R561). -/
def execSelfRefreshIdle (s : State) : Host.Outcome State Fault Refusal :=
  .next (if s.keeper.powerState == 2 && decide (s.keeper.lastP2Access + 100 * usTicks ≤ s.now) then
    { s with keeper := { s.keeper with selfRefresh := true } }
  else s)

end Sys2Proof.Machine
end

