-- ==== Sys2Proof/Machine/Keeper.lean ====
section
/-! DEFINITION. The Keeper complex (chapter 14): firmware images and FW_LOAD (R542 to R544), the start sequence (R539 to R541), restarts
(R545 to R550), the watchdog (R551, R552), activation (R553, R566), the log ring and trace points (R554 to R558), and LEDGER_READ
(R613). -/

namespace Sys2Proof.Machine

/-! ### Firmware images (R542, R543, R576, R579, R580) -/

/-- CODE_LENGTH of an image's bytes. -/
def imageCode (b : List Byte) : Nat := field b 24 4

/-- Header and code of an image: what its signature and its measurement cover. -/
def imageSigned (b : List Byte) : List Byte := b.take (64 + imageCode b)

/-- Check 1 of R543. -/
def imageSound (b : List Byte) : Bool :=
  let n := imageCode b
  decide (64 ≤ b.length) && decide (1 ≤ n) && decide (n ≤ 1572864) && field b 0 4 == 64 + n + 3309 && decide (field b 0 4 ≤ b.length) &&
    field b 4 2 == 0x0100 && field b 7 1 == 1 && decide (field b 20 2 ≤ 0x4101) && zeroAt b 22 2 && decide (field b 28 4 < n) &&
    zeroAt b 34 26 && crcOkAt (imageSigned b) 60

/-- Whether a lifecycle state accepts firmware signed with key `k` of R579 (Table 15.5). -/
def acceptsKey (lifecycle k : Nat) : Bool :=
  match lifecycle with
  | 0 => k == 1
  | 2 => k == 0
  | _ => decide (k ≤ 1)

/-- The firmware key that verifies an image in the present lifecycle state. -/
def State.imageKey (s : State) (b : List Byte) : Option Nat :=
  [0, 1].find? fun k => acceptsKey s.propolis.lifecycle k && Config.mldsaVerify k (imageSigned b) (slice b (64 + imageCode b) 3309)

/-- What the Keeper keeps of a verified image. -/
def imageOf (b : List Byte) (key : Nat) : Image where
  version := BitVec.ofNat 64 (field b 8 8)
  secVersion := BitVec.ofNat 32 (field b 16 4)
  interface := field b 6 2
  points := field b 32 2
  measurement := BitVec.ofNat 512 (leNat (shake256 (imageSigned b) 64))
  testKey := key == 1
  length := field b 0 4

/-- Propolis rejects a signature (PRP_COUNT, PRP_FAULT, Table 16.4). -/
def State.rejectSignature (s : State) : State :=
  ({ s with propolis := { s.propolis with sigFail := hold32 (s.propolis.sigFail + 1), fault := setBit32 s.propolis.fault 1 } } : State).report
    0x0700 0 noUnit

/-- The checks of R543 in order: the image, or the status that ends its load. -/
def State.checkImage (s : State) (b : List Byte) : State × Except Nat Image :=
  if !imageSound b then (s, .error stBad)
  else match s.imageKey b with
    | none => (s.rejectSignature, .error stNotPermitted)
    | some k =>
      if field b 16 4 < s.propolis.floor.toNat then (s, .error stNotPermitted) else (s, .ok (imageOf b k))

/-- Device address of the ACTIVE slot (R544). -/
def State.activeSlot (s : State) : Nat := s.keeper.fwBase.toNat

/-- Device address of the PENDING slot (R544). -/
def State.pendingSlot (s : State) : Nat := s.keeper.fwBase.toNat + 0x200000

/-- A verified image becomes ACTIVE: Propolis derives AK for its measurement and raises the floor (R576, R580). -/
def State.becomeActive (s : State) (i : Image) : State :=
  let p := s.propolis
  ({ s with
    keeper := { s.keeper with active := some i }
    propolis := { p with
      measure := i.measurement
      testKey := i.testKey
      floor := BitVec.ofNat 32 (max p.floor.toNat i.secVersion.toNat) } } : State).report 0x0502 i.secVersion.toNat noUnit

/-! ### FW_LOAD -/

/-- End the FW_LOAD in progress. -/
def State.endFwLoad (s : State) (t : Ticket) (status : Nat) : State :=
  ({ s with keeper := { s.keeper with loadTicket := none, loadWaits := false } } : State).finish t status 0 0

/-- The bytes of an image have come: it is checked, verified, and placed in its slot (R543, R544). In boot-ROM mode the load ends when
the firmware starts. -/
def State.takeFirmware (s : State) (t : Ticket) (d : ReadData) : State :=
  match d with
  | .failed => s.endFwLoad t stLinkDown
  | .package _ => s.endFwLoad t stBad
  | .image _ => s.endFwLoad t stBad
  | .bytes b =>
    let r := s.checkImage b
    match r.2 with
    | .error st => r.1.endFwLoad t st
    | .ok i =>
      if s.bootRom then
        let s1 := (r.1.write s.activeSlot (b.take i.length)).becomeActive i
        { s1 with keeper := { s1.keeper with startStep := 7 } }
      else
        let s1 := r.1.write s.pendingSlot (b.take i.length)
        ({ s1 with keeper := { s1.keeper with pendingImage := some i } } : State).endFwLoad t stDone

/-- The connection that the boot ROM opens to a UDP source (text before Table 14.2); what its other fields hold is not stated. -/
def bootQp (src : UdpSource) (m : List Byte) (x now : Nat) : Qp where
  mb := 0
  mtu := 4096
  ackT := x % 32
  retry := x / 32 % 8
  peerQpn := bits (field m 56 8) 23 0
  peerPsn := bits (field m 56 8) 47 24
  psn := 0
  peerIp := src.addr
  peerMac := BitVec.ofNat 48 (x / 256)
  vlan := 0
  dscp := 0
  rkey := 0
  error := false
  unacked := []
  tries := 0
  rate := lineRate
  lastCnp := none
  calm := now
  queued := []

/-- Open the boot ROM's connection and read the image over it. -/
def State.openBootRead (s : State) (mb : Nat) (m : List Byte) : State :=
  match (s.mailbox mb).udp with
  | none => s
  | some src =>
    let a := s.pickNumber (2 ^ 24) (s.port.qps.map Prod.fst)
    let f := a.2.fresh
    (f.2.setQp a.1 (bootQp src m f.1 s.now)).postOp a.1 (.read (field m 40 8) (field m 32 4) (field m 48 8) (.firmware mb))

/-- Whether an outbound operation reads firmware for the boot ROM. -/
def OutOp.readsFirmware (op : OutOp) : Bool :=
  match op.why with
  | some (.firmware _) => true
  | _ => false

/-- Destroy the boot ROM's connection. -/
def State.closeBootRead (s : State) : State :=
  { s with port := { s.port with qps := s.port.qps.filter fun q =>
    !(q.2.unacked.any (fun u => u.op.readsFirmware) || q.2.queued.any OutOp.readsFirmware) } }

/-- Let a message wait for a read that is not posted through a registration. -/
def State.holdReading (s : State) (mb : Nat) (m : List Byte) : State :=
  let s1 := s.setMailbox mb { s.mailbox mb with busy := true }
  { s1 with readings := s1.readings ++ [Reading.mk mb m] }

/-- FW_LOAD: the image is read; in boot-ROM mode it waits for step 5 of Table 14.1, and while an activation is deferred it is rejected
(R539, R544). -/
def State.takeFwLoad (s : State) (m : List Byte) (t : Ticket) : State :=
  if s.bootRom then
    let s1 := s.holdReading t.mb m
    let s2 : State := { s1 with keeper := { s1.keeper with loadTicket := some t, loadWaits := decide (s.keeper.startStep < 5) } }
    if s.keeper.startStep < 5 then s2 else s2.openBootRead t.mb m
  else if !s.keeper.deferred.isEmpty then s.finish t stNotPermitted 0 0
  else
    let s1 := s.readWindow t m (windowAt m 32)
    if s1.readings.any fun r => r.mb == t.mb then { s1 with keeper := { s1.keeper with loadTicket := some t } } else s1

/-- The command of code 0x0060, from a mailbox: one is handled at a time (R544). -/
def execFwLoad (mb : Nat) (s : State) : Host.Outcome State Fault Refusal :=
  .next (if s.keeper.loadTicket.isSome then s else s.serve mb 0x0060 State.takeFwLoad)

/-! ### The start sequence (R539, Table 14.1) -/

/-- The start fails (R541). -/
def State.failStart (s : State) (code unit : Nat) : State :=
  ({ s with keeper := { s.keeper with startFail := code, failUnit := unit } } : State).report 0x0501 code unit

/-- Whether the module runs its start and step `n` of Table 14.1 was the last to end. -/
def State.startingAt (s : State) (n : Nat) : Bool :=
  s.clocked && s.keeper.mode == .bootRom && s.keeper.startStep == n && s.keeper.startFail == 0

/-- A start step has ended. -/
def State.endStep (s : State) (n : Nat) : State := { s with keeper := { s.keeper with startStep := n } }

/-- PLL_LOCK: step 1 ends; KC0 starts from the boot ROM, PRESENT_N is asserted and the transmitters are active (Table 17.3). -/
def execPllLock (s : State) : Host.Outcome State Fault Refusal :=
  .next (if s.startingAt 0 then
    { s with
      keeper := { s.keeper with startStep := 1, coresRun := 1 }
      power := { s.power with rootLock := true, serdesLock := true, lpLock := true }
      pins := { s.pins with present := true, transmit := true } }
  else s)

/-- PROPOLIS_SELF_CHECK: step 2 ends and the port trains from here on. A first start in BLANK enrols the array; a failure fails the
start (R541, R574, R575). -/
def execPropolisSelfCheck (pass : Bool) (s : State) : Host.Outcome State Fault Refusal :=
  .next (if s.startingAt 1 then
    let s1 : State := { s with
      keeper := { s.keeper with startStep := 2 }
      port := { s.port with training := bitAt s.port.ctrl.toNat 0, trainAt := s.now }
      propolis := { s.propolis with selfOk := pass, enrolled := s.propolis.enrolled || (pass && s.propolis.lifecycle == 0) } }
    if pass then s1 else s1.failStart 3 0
  else s)

/-- Enter the cores that self-test finds failed for the first time (R162). -/
def State.enterCores (s : State) (ps : List Nat) : State :=
  ((union [] ps).filter fun p => !s.isRetired p).foldl (fun (t : State) p =>
    ({ t with ledger := t.ledger.retireCore p } : State).report 0x0202 1 p) s

/-- The position that comb `k`'s spare serves by the history of the comb's failures: that of the first of its other cores to fail
(R163); none where the spare itself has failed. -/
def spareServes (retired : List Nat) (k : Nat) : Option Nat :=
  if retired.contains (17 * k + 16) then none else retired.find? fun p => p / 17 == k

/-- The core map after built-in self-test. -/
def State.mapSpares (s : State) : Table Nat :=
  let retired := s.ledger.retiredCores.map Prod.fst
  (List.range 32).foldl (fun m k =>
    match spareServes retired k with
    | some p => tset m (16 * k + p % 17) (17 * k + 16)
    | none => m) []

/-- The failed rows of a slice that its 64 spare rows do not replace, in increasing row address (R229). -/
def unreplaced (rows : List (Nat × Nat × Nat)) (p : Nat) : List Nat :=
  (((rows.filter fun r => r.1 == p).map fun r => r.2.1).foldl ninsert []).drop 64

/-- Enter the rows that self-test finds failed for the first time; those that the full table does not take (R230, R602). -/
def State.enterRows (s : State) (rows : List (Nat × Nat)) : State × List (Nat × Nat) :=
  (rows.filter fun r => !s.ledger.sramRows.any fun e => e.1 == r.1 && e.2.1 == r.2).foldl (fun acc r =>
    let t := (acc.1.report 0x0102 r.2 r.1)
    ({ t with ledger := t.ledger.enterRow r.1 r.2 }, if 65536 ≤ acc.1.ledger.sramRows.length then acc.2 ++ [r] else acc.2)) (s, [])

/-- Withdraw the granule that holds a row of a slice, where the slice serves a position (R231). -/
def State.withdrawRow (s : State) (p row : Nat) : State :=
  match s.servedBy p with
  | none => s
  | some c => if s.memCtl.sramWithdrawn.contains (512 * c + row / 64) then s else s.withdrawSram (512 * c + row / 64)

/-- Cores and SRAM rows repaired by the Ledger's history (R162, R163, R229 to R231, R519). -/
def State.repair (s : State) : State :=
  let s1 : State := { s with coreMap := s.mapSpares }
  let s2 := s1.ledger.retiredCores.foldl (fun (t : State) e => t.setCore e.1 { t.core e.1 with mode := .retired }) s1
  let s3 : State := { s2 with guard := { s2.guard with degraded := (List.range 512).any fun c => s2.isRetired (s2.positionCore c) } }
  (List.range 544).foldl (fun (t : State) p => (unreplaced t.ledger.sramRows p).foldl (fun (u : State) r => u.withdrawRow p r) t) s3

/-- BUILT_IN_SELF_TEST: step 3 ends; a failed comb fails the start (R522). -/
def execBuiltInSelfTest (r : BistReport) (s : State) : Host.Outcome State Fault Refusal :=
  .next (if s.startingAt 2 then
    let a := (s.enterCores r.failedCores).enterRows r.failedRows
    let s1 := a.2.foldl (fun (t : State) e => t.withdrawRow e.1 e.2) a.1.repair
    let s2 := ({ s1 with memCtl := { s1.memCtl with bistDone := true } } : State).endStep 3
    match r.failedComb with
    | some k => s2.failStart 2 k
    | none => s2
  else s)

/-- LPDDR5X_TRAINING: step 4 ends at 9,600 MT/s, at 8,533 MT/s when a stack fails the first, or as a failed start (R240). -/
def execLpddr5xTraining (fail9600 fail8533 : Option Nat) (s : State) : Host.Outcome State Fault Refusal :=
  .next (if s.startingAt 3 then
    match fail9600 with
    | none => s.endStep 4
    | some a =>
      let s1 := (s.report 0x0113 a noUnit).endStep 4
      match fail8533 with
      | none => { s1 with memCtl := { s1.memCtl with lpSlow := true } }
      | some b => s1.failStart 1 b
  else s)

/-- LPDDR5X granules of the Keeper region that the boot ROM's layout takes: image slots, log ring, translation tables of 512 contexts,
nectar rings, version table and adapter table. -/
def layoutGranules : Nat := 2 + 2 + 768 + 32 + 1 + 1

/-- The layout of the Keeper region from granule `g` on. -/
def State.layOut (s : State) (g : Nat) : State :=
  let at' (k : Nat) : Long := BitVec.ofNat 64 (lpBase + (g + k) * 0x200000)
  { s with
    keeper := { s.keeper with fwBase := at' 0, logBase := at' 2 }
    memCtl := { s.memCtl with ptBase := at' 4 }
    necRingBase := at' 772
    turns := { s.turns with vtBase := at' 804, atBase := at' 805 } }

/-- DIRECTORY_READ: step 5 ends: MEM_LAYOUT.STAGING is read (Table 6.10), the Keeper region is laid out, every granule is zeroed before
any is mapped (R223, R224), the flash directory is read, and a waiting FW_LOAD goes on. -/
def execDirectoryRead (s : State) : Host.Outcome State Fault Refusal :=
  .next (if s.startingAt 4 then
    let f := s.fresh
    let m := { s.memCtl.retired s.ledger.lpGranules with staging := bits s.memCtl.layout.toNat 16 0 }
    let s1 := ({ f.2 with mem := [], memCtl := m, store := { s.store with ready := true } } : State).layOut (f.1 % (4096 - layoutGranules))
    let s2 := s1.endStep 5
    match s2.keeper.loadWaits, s2.readings.find? fun r => msgCommand r.message == 0x0060 with
    | true, some r => ({ s2 with keeper := { s2.keeper with loadWaits := false } } : State).openBootRead r.mb r.message
    | _, _ => s2
  else s)

/-- Every mailbox number. -/
def State.boundMailboxes (s : State) : List Nat := s.mailboxes.map Prod.fst

/-- Settle every mailbox: messages that no row names are consumed. -/
def State.settleAll (s : State) : State := s.boundMailboxes.foldl State.settle s

/-- The firmware runs on every Keeper core and its watchdog is armed (step 8 of Table 14.1, R551). -/
def State.runFirmware (s : State) : State :=
  { s with keeper := { s.keeper with mode := .running, startStep := 8, coresRun := 15, wdogArmed := some s.now, kicks := 0 } }

/-- Release the contexts that a module in R550's boot-ROM mode still holds, without a completion. -/
def State.releaseAll (s : State) : State :=
  (s.ctxs.map Prod.fst).foldl (fun (t : State) c => (t.eraseCtx c).closeMailbox (c + 16)) s

/-- FIRMWARE_ENTRY: step 8: the firmware starts, the page-table-root lock bit is set, and FW_LOAD ends DONE. -/
def execFirmwareEntry (s : State) : Host.Outcome State Fault Refusal :=
  .next (match s.keeper.loadTicket with
  | none => s
  | some t =>
    if s.startingAt 7 then ((s.releaseAll.runFirmware.setLocks 4).endFwLoad t stDone).settleAll else s)

/-! ### Restarts (R545 to R550) -/

/-- Ticks of 600 s. -/
def streakTicks : Nat := 60000000000

/-- KPR_RESTART_CAUSE of a cause and its core. -/
def causeWord (cause core : Nat) : Word := BitVec.ofNat 32 (cause + 8 * (core % 4))

/-- Record a restart: its cause, the counts of KPR_RESTARTS, its fault bit, and its Ledger entry. -/
def State.noteRestart (s : State) (cause core : Nat) : State :=
  let k := s.keeper
  ({ s with keeper := { k with
    cause := causeWord cause core
    restarts := k.restarts + 1
    restartTicks := (k.restartTicks.filter fun t => decide (s.now < t + streakTicks)) ++ [s.now]
    fault := setBit32 k.fault 2 } } : State).report 0x0500 (causeWord cause core).toNat (core % 4)

/-- Whether R550 applies: the restart just recorded brings RECENT to 4. -/
def Keeper.streak (k : Keeper) : Bool := decide (4 ≤ k.restartTicks.length)

/-- Set KPR_FAULT.STREAK where R550 applies. -/
def State.markStreak (s : State) : State :=
  if s.keeper.streak then { s with keeper := { s.keeper with fault := setBit32 s.keeper.fault 3 } } else s

/-- The hardware aborts the core steps that run: a generation step that has not passed phase 5 commits nothing and its sequences stay
due; a learning step's pass stops (R547). -/
def State.abortSteps (s : State) : State :=
  let s1 := s.steps.foldl (fun (u : State) t =>
    if t.phase = .committed ∨ t.phase = .failed then u
    else (if t.phase = .running ∨ t.phase = .coresDone then u.clearCores (u.maskCores t.mask) else u).dropStep t) s
  s1.learnSteps.foldl (fun (u : State) t => if t.running then (u.stopLearn t).setLearn { t with running := false } else u) s1

/-- A restart in boot-ROM mode: KC0 starts again, and a FW_LOAD in progress ends FAILED_FIRMWARE_RESTART (R545). -/
def State.restartBoot (s : State) : State :=
  let s1 : State := match s.keeper.loadTicket with
    | none => s
    | some t =>
      let s0 : State := { s.closeBootRead with keeper := { s.keeper with loadTicket := none, loadWaits := false } }
      if s0.readings.any fun r => r.mb == t.mb then s0.dropReading t.mb stRestart else s0.finish t stRestart 0 0
  { s1 with keeper := { s1.keeper with startStep := min s1.keeper.startStep 5, coresRun := b2n (decide (0 < s1.keeper.startStep)) } }

/-- End the messages consumed and not yet given a terminal status (R548). -/
def State.endConsumed (s : State) (status : Nat) : State :=
  let s1 := (s.readings.map Reading.mb).foldl (fun (t : State) mb => t.dropReading mb status) s
  let k := s1.keeper
  let tickets := s1.store.writing.map PackWriting.ticket ++ s1.store.packs.flatMap (fun e => e.2.deleting) ++ k.deferred ++
    (match s1.turns.modeWait with | some (_, t) => [t] | none => []) ++ s1.turns.boundaryWaits.map Prod.fst ++ s1.propolis.wiping.toList ++
    s1.ctxs.filterMap fun e => e.2.releasing
  let s2 : State := { s1 with
    keeper := { k with deferred := [], loadTicket := none, loadWaits := false }
    store := { s1.store with writing := [], packs := s1.store.packs.map fun e => (e.1, { e.2 with deleting := [] }) }
    turns := { s1.turns with modeWait := none, boundaryWaits := [] }
    propolis := { s1.propolis with wiping := none, wipeTo := none }
    ctxs := s1.ctxs.map fun e => (e.1, { e.2 with releasing := none }) }
  tickets.foldl (fun (t : State) x => t.finish x status 0 0) s2

/-- End the outstanding shard requests, each with a TRANSFER record to the bound admin mailboxes that the request went to (R548). -/
def State.endShardRequests (s : State) (status : Nat) : State :=
  let s1 := (s.turns.requests.filter fun r => !r.ended).foldl (fun (u : State) r =>
    ((List.range 8).filter fun mb => (u.mailbox mb).bound).foldl (fun (t : State) mb =>
      t.post mb ⟨0, BitVec.ofNat 64 r.request, BitVec.ofNat 64 r.packId, BitVec.ofNat 64 r.shard, status, 4, false, true, 0x0048, 0, 0, 0,
        t.now⟩) u) s
  { s1 with turns := { s1.turns with requests := s1.turns.requests.map fun r => { r with ended := true } } }

/-- End a group formation in progress (R548). -/
def State.endForming (s : State) (status : Nat) : State :=
  if s.cascade.state = .forming then
    let s1 := match s.cascade.formTicket with
      | some t => s.leaveGroup.finish t status 0 0
      | none => s.leaveGroup
    s1.groupEvent 0xFF
  else s

/-- End a learning step that a restart finds not COMMITTED and not in the commit journal (R548, R549); a member's queen is told. -/
def State.restartLearn (s : State) (t : LearnStep) : State :=
  if s.keeper.journal.contains (t.ctx, t.plan.step) then s
  else
    let s1 := s.failLearn t stRestart
    if s.isQueen then s1 else s1.tell s.queenPos kmStaged (t.fields ++ leBytes 1 0 ++ leBytes 2 stRestart)

/-- End what R548 names: learning steps, turns, loads, a capture or restore, a formation, messages and shard requests. -/
def State.endForRestart (s : State) : State :=
  let s1 := s.endShardRequests stRestart
  let s2 := s1.learnSteps.foldl State.restartLearn s1
  let s3 := (s2.endCapping stRestart).endForming stRestart
  let s4 := (s3.ctxs.map Prod.fst).foldl (fun (t : State) c =>
    let t1 := match t.turns.turn with
      | some x => if x.ticket.ctx = c then t.undoTurn x stRestart else t
      | none => t
    let t2 := (t1.turns.loads.filter fun l => l.ticket.ctx == c && !l.waitsSwitch).foldl (fun (u : State) l => u.failLoad l stRestart) t1
    t2.endWaits c stRestart) s3
  s4.endConsumed stRestart

/-- R550: the Keeper does not resume. Every item ends, and the Keeper stays in boot-ROM mode until a FW_LOAD starts firmware. -/
def State.stayInBoot (s : State) : State :=
  let s1 := (s.endForRestart).endRunning stRestart
  let ks := s1.keeper.activating
  let s2 : State := { s1 with keeper := { s1.keeper with
    mode := .bootRom, startStep := 5, coresRun := 1, active := none, activating := [], wdogArmed := none } }
  ks.foldl (fun (t : State) x => t.finish x stRestart 0 0) s2

/-- A cause of R545. -/
def State.beginRestart (s : State) (cause core : Nat) : State :=
  let s1 := (s.noteRestart cause core).markStreak
  if s.bootRom then s1.restartBoot
  else
    let s2 : State := { s1 with keeper := { s1.keeper with
      mode := .restarting, startStep := 6, coresRun := 0, wdogArmed := none, kicks := 0 } }
    let s3 := s2.abortSteps
    if s1.keeper.streak then s3.stayInBoot else s3

/-- Whether the Keeper complex runs, so that a cause of R545 can arise in it. -/
def State.keeperRuns (s : State) : Bool := s.clocked && s.keeper.mode != .halted && decide (1 ≤ s.keeper.startStep)

/-- KEEPER_CORE_EXCEPTION (R545). -/
def execKeeperCoreException (core : Nat) (s : State) : Host.Outcome State Fault Refusal :=
  .next (if s.keeperRuns then s.beginRestart 2 core else s)

/-- KEEPER_SRAM_UNCORRECTABLE (R545). -/
def execKeeperSramUncorrectable (core : Nat) (s : State) : Host.Outcome State Fault Refusal :=
  .next (if s.keeperRuns then s.beginRestart 3 core else s)

/-- Whether a restart still has the PENDING image to load: that of an activation, until it has moved to the ACTIVE slot (R545). -/
def Keeper.takesPending (k : Keeper) : Bool := !k.activating.isEmpty && k.pendingImage.isSome

/-- The image that a restart loads, with the address of its slot: PENDING for an activation, else ACTIVE (R545). -/
def State.restartImage (s : State) : Option (Image × Nat) :=
  if s.keeper.takesPending then s.keeper.pendingImage.map fun i => (i, s.pendingSlot)
  else s.keeper.active.map fun i => (i, s.activeSlot)

/-- Load a verified image at a restart: a PENDING one moves to the ACTIVE slot. -/
def State.loadImage (s : State) (i : Image) (b : List Byte) : State :=
  let s1 : State := if s.keeper.takesPending then { s.write s.activeSlot b with keeper := { s.keeper with pendingImage := none } } else s
  (s1.becomeActive i).endStep 7

/-- KEEPER_RESTART: the boot ROM verifies the image again and loads it (R545). An image that no longer verifies leaves the Keeper in
boot-ROM mode. -/
def execKeeperRestart (s : State) : Host.Outcome State Fault Refusal :=
  .next (if s.keeper.mode == .restarting && s.keeper.startStep == 6 then
    match s.restartImage with
    | none => s.stayInBoot
    | some (i, a) =>
      let b := s.read a i.length
      let r := s.checkImage b
      match r.2 with
      | .ok j => r.1.loadImage j b
      | .error _ => r.1.stayInBoot
  else s)

/-- The firmware posts the completions of the activation that started it (R553). -/
def State.postActivated (s : State) : State :=
  s.keeper.activating.foldl (fun (t : State) x => t.finish x stDone 0 0) { s with keeper := { s.keeper with activating := [] } }

/-- Handle the doorbells kept during a restart, in order (R547). -/
def State.keptDoorbellsNow (s : State) : State :=
  s.keeper.keptDoorbells.foldl (fun (t : State) d => t.doorbell d.1 d.2) { s with keeper := { s.keeper with keptDoorbells := [] } }

/-- KEEPER_RESUME: the firmware resumes: journalled commits stand (R549), what R548 names ends, an activation's completion is posted, and
kept doorbells are handled (R547). -/
def execKeeperResume (s : State) : Host.Outcome State Fault Refusal :=
  .next (if s.keeper.mode == .restarting && s.keeper.startStep == 7 then
    let s1 := s.runFirmware.endForRestart.postActivated
    (s1.drawAlert.keptDoorbellsNow.settleAll.settleIdle).settleReleases
  else s)

/-! ### Watchdog (R551, R552) -/

/-- Whether every running core has kicked in the present window. -/
def Keeper.kicked (k : Keeper) : Bool := k.coresRun &&& ~~~k.kicks == 0

/-- WDOG_KICK: a kick counts for the window it comes in; a window that a running core left unwritten stays as it is. -/
def execWdogKick (v : Word) (s : State) : Host.Outcome State Fault Refusal :=
  let k := s.keeper
  let b := BitVec.ofNat 4 v.toNat
  .next (match k.wdogArmed with
  | none => s
  | some a =>
    let n := k.wdogCfg.toNat
    if s.now < a + n then { s with keeper := { k with kicks := k.kicks ||| b } }
    else if s.now < a + 2 * n ∧ k.kicked = true then { s with keeper := { k with wdogArmed := some (a + n), kicks := b } }
    else s)

/-- Device address of KPR_WDOG_CFG. -/
def regWdogCfg : Nat := 0x817000018

/-- WDOG_CFG_WRITE: a window below 100,000 ticks is ignored and counted. -/
def execWdogCfgWrite (v : Word) (s : State) : Host.Outcome State Fault Refusal :=
  .next (if v.toNat < 100000 then s.ignored regWdogCfg none else { s with keeper := { s.keeper with wdogCfg := v } })

/-- Whether core `c`'s bit has stayed unwritten through a window that has ended. -/
def State.watchdogDue (s : State) (c : Nat) : Bool :=
  let k := s.keeper
  match k.wdogArmed with
  | none => false
  | some a =>
    let n := k.wdogCfg.toNat
    bitAt k.coresRun.toNat c && ((decide (a + n ≤ s.now) && !bitAt k.kicks.toNat c) || decide (a + 2 * n ≤ s.now))

/-- WATCHDOG_EXPIRY (R551). -/
def execWatchdogExpiry (core : Nat) (s : State) : Host.Outcome State Fault Refusal :=
  .next (if s.keeper.mode == .running && s.watchdogDue core then s.beginRestart 1 core else s)

/-! ### Activation (R553, R566) -/

/-- Begin an activation for some tickets. -/
def State.activateNow (s : State) (ts : List Ticket) : State :=
  ({ s with keeper := { s.keeper with activating := ts, deferred := [] } } : State).beginRestart 4 0

/-- FW_ACTIVATE (R553). -/
def State.takeFwActivate (s : State) (_ : List Byte) (t : Ticket) : State :=
  if s.keeper.pendingImage.isNone then s.finish t stNotPermitted 0 0
  else if s.power.emergency then { s with keeper := { s.keeper with deferred := s.keeper.deferred ++ [t] } }
  else s.activateNow [t]

/-- The command of code 0x0061, from a mailbox. -/
def execFwActivate (mb : Nat) (s : State) : Host.Outcome State Fault Refusal := .next (s.serve mb 0x0061 State.takeFwActivate)

/-- EMERGENCY_CLOSE: 10,000,000 ticks after the ceiling returned to 0 EMERGENCY closes, and a deferred activation runs in that tick
(R553, R566, R567). -/
def execEmergencyClose (s : State) : Host.Outcome State Fault Refusal :=
  .next (if s.clocked && s.power.emergency && s.power.ceiling == 0 && decide (s.power.zeroTick + 10000000 ≤ s.now) then
    let s1 := ((State.drawAlert { s with power := { s.power with emergency := false } }).powerEvent 0x05 noUnit)
    if s1.keeper.mode == .running && !s1.keeper.deferred.isEmpty then s1.activateNow s1.keeper.deferred else s1
  else s)

/-! ### Log ring, trace points, Ledger (R554 to R558, R613) -/

/-- Bytes of the log ring. -/
def logBytes : Nat := 0x400000

/-- The first log byte that LOG_READ copies, and how many (R557). -/
def logPart (source count length : Nat) : Nat × Nat :=
  let start := max source (count - logBytes)
  (start, min length (count - start))

/-- `n` bytes of the log from byte `b` on. -/
def State.logSlice (s : State) (b n : Nat) : List Byte :=
  (List.range n).map fun i => memGet s.mem (s.keeper.logBase.toNat + (b + i) % logBytes)

/-- Write a command's window and end the command, or end it FAILED_LINK_DOWN where its connection carries nothing (R454, R478). -/
def State.copyOut (s : State) (t : Ticket) (w : Window) (data : List Byte) (v0 : Nat) : State :=
  if s.windowLive (domainOf t.mb) w then (s.writeWindow (domainOf t.mb) w data).finish t stDone v0 0 else s.finish t stLinkDown 0 0

/-- LOG_READ (R557). -/
def State.takeLogRead (s : State) (m : List Byte) (t : Ticket) : State :=
  let w := windowAt m 32
  let r := logPart (field m 56 8) s.keeper.logCount w.length
  s.copyOut t w (s.logSlice r.1 r.2) s.keeper.logCount

/-- The command of code 0x0063, from a mailbox. -/
def execLogRead (mb : Nat) (s : State) : Host.Outcome State Fault Refusal := .next (s.serve mb 0x0063 State.takeLogRead)

/-- TRACE_SET: one bit of the KPR_TRACE_EN registers (R558). -/
def State.takeTraceSet (s : State) (m : List Byte) (t : Ticket) : State :=
  let p := field m 32 2
  let v := (tgetD s.keeper.trace (p / 64) 0).toNat
  ({ s with keeper := { s.keeper with
    trace := tset s.keeper.trace (p / 64) (BitVec.ofNat 64 (setBits v (p % 64) (p % 64) (field m 34 1))) } } : State).finish t stDone 0 0

/-- The command of code 0x0064, from a mailbox. -/
def execTraceSet (mb : Nat) (s : State) : Host.Outcome State Fault Refusal := .next (s.serve mb 0x0064 State.takeTraceSet)

/-- What a Ledger read from FROM gives in `n` bytes (R613). -/
def State.ledgerBytes (s : State) (start n : Nat) : List Byte :=
  if bitAt start 63 then
    ((s.ledger.tableBytes (bits start 59 56) s.store.peUsed s.guard.suspicions).drop (bits start 39 0)).take n
  else (s.ledger.readRecords start (n / 128)).flatMap id

/-- LEDGER_READ (R613). -/
def State.takeLedgerRead (s : State) (m : List Byte) (t : Ticket) : State :=
  let w := windowAt m 32
  s.copyOut t w (s.ledgerBytes (field m 56 8) w.length) s.ledger.written

/-- The command of code 0x0065, from a mailbox. -/
def execLedgerRead (mb : Nat) (s : State) : Host.Outcome State Fault Refusal := .next (s.serve mb 0x0065 State.takeLedgerRead)

end Sys2Proof.Machine
end

