-- ==== Sys2Proof/Machine/Propolis.lean ====
section
/-! DEFINITION. Propolis (chapter 15): tokens and DEBUG_UNLOCK (R584 to R587), the wipe (R588) and the lock bits' register (R590). -/

namespace Sys2Proof.Machine

/-! ### Tokens (Table 15.7) -/

/-- KIND of a token. -/
def tokenKind (b : List Byte) : Nat := field b 6 1

/-- TARGET of a token. -/
def tokenTarget (b : List Byte) : Nat := field b 7 1

/-- LENGTH that a token of its kind has, from a lifecycle state; none for a kind that does not exist. -/
def tokenLength (lifecycle : Nat) (b : List Byte) : Option Nat :=
  match tokenKind b with
  | 0 => some 64
  | 1 => some 3373
  | 2 => some (if lifecycle = 0 ∧ tokenTarget b = 1 then 8698 else 3373)
  | _ => none

/-- Whether TARGET is one of the token's kind: a level of a LEVEL token, D2 of a SESSION token, a lifecycle code. -/
def tokenTargetOk (b : List Byte) : Bool :=
  match tokenKind b with
  | 0 => decide (tokenTarget b ≤ 2)
  | 1 => tokenTarget b == 2
  | _ => decide (tokenTarget b ≤ 3)

/-- Check 1 of R585. -/
def tokenSound (lifecycle : Nat) (b : List Byte) : Bool :=
  decide (64 ≤ b.length) && tokenLength lifecycle b == some (field b 0 4) && decide (field b 0 4 ≤ b.length) && field b 4 2 == 0x0100 &&
    tokenTargetOk b && zeroAt b 32 28 && field b 60 4 == crc32c (b.take 60) &&
    (tokenKind b != 0 || (zeroAt b 8 16 && zeroAt b 24 8))

/-- Whether a token's signature over bytes 0 to 63 verifies under key `k` of R579. -/
def tokenSigned (k : Nat) (b : List Byte) : Bool := Config.mldsaVerify k (b.take 64) (slice b 64 3309)

/-- The device certificate that a token carries. -/
def tokenCertificate (b : List Byte) : List Byte := slice b 3373 5325

/-- The key that signs a lifecycle transition of Table 15.6, where its condition holds. -/
def State.transitionKey (s : State) (b : List Byte) : Option Nat :=
  match s.propolis.lifecycle, tokenTarget b with
  | 0, 1 => if slice (tokenCertificate b) 64 1952 = dikPublic then some 1 else none
  | 1, 2 => if s.propolis.testKey || s.keeper.active.isNone then none else some 2
  | 1, 3 => some 2
  | 2, 3 => some 2
  | 3, 1 => some 1
  | _, _ => none

/-- Whether R587 permits a LEVEL token's TARGET. -/
def State.levelPermitted (s : State) (b : List Byte) : Bool :=
  if tokenTarget b ≤ 1 then s.propolis.level != 2 else s.propolis.lifecycle == 3

/-- Whether a token names this device and this start (R586). -/
def State.tokenBound (s : State) (b : List Byte) : Bool := field128 b 8 == deviceId && field b 24 8 == s.challenge

/-- What the checks of R585 make of a token: accepted, or a status, and whether a signature was rejected. -/
inductive TokenCheck where
  | accepted
  | refused (status : Nat)
  | badSignature
  deriving DecidableEq, Repr

/-- Checks 2 and 3 of R585 on a signed token under key `k`. -/
def State.checkSigned (s : State) (b : List Byte) (k : Option Nat) : TokenCheck :=
  match k with
  | none => .refused stNotPermitted
  | some k => if !s.tokenBound b then .refused stNotPermitted else if tokenSigned k b then .accepted else .badSignature

/-- The checks of R585. -/
def State.checkToken (s : State) (b : List Byte) : TokenCheck :=
  if !tokenSound s.propolis.lifecycle b then .refused stBad
  else if tokenKind b = 0 then
    if !s.levelPermitted b then .refused stNotPermitted
    else if s.propolis.level < tokenTarget b ∧ bitAt s.propolis.lock.toNat 0 = true then .refused stLocked
    else .accepted
  else if tokenKind b = 1 then s.checkSigned b (some 2)
  else s.checkSigned b (s.transitionKey b)

/-! ### The wipe (R588) -/

/-- Begin the wipe: every context is released as CTX_RELEASE does, without a message that asked for it. -/
def State.beginWipe (s : State) (t : Ticket) (to' : Option Nat) : State :=
  let s1 : State := { s with propolis := { s.propolis with wiping := some t, wipeTo := to' } }
  (s1.ctxs.map Prod.fst).foldl (fun (u : State) c =>
    if (u.ctx c).any fun x => x.releasing.isNone then u.beginRelease c ⟨0, 0, 0, c⟩ else u) s1

/-- Memory after the wipe: only the image slots and the log ring keep their bytes. -/
def State.wipeMemory (s : State) : State :=
  let keep (a : Nat) : Bool :=
    (decide (s.keeper.fwBase.toNat ≤ a) && decide (a < s.keeper.fwBase.toNat + 0x400000)) ||
    (decide (s.keeper.logBase.toNat ≤ a) && decide (a < s.keeper.logBase.toNat + logBytes))
  let m := s.memCtl
  { s with
    mem := s.mem.filter fun c => keep c.1
    spillOf := []
    memCtl := { m with
      uncorrectable := []
      soft := []
      sramUsed := []
      lpUsed := [] }
    cores := s.cores.map fun e => (e.1, e.2.wipe)
    guard := { s.guard with heldImages := [], heldGrans := [], heldWrites := [] } }

/-- Set the lifecycle state: the record is written before the completion is posted (R584). -/
def State.setLifecycle (s : State) (n : Nat) : State :=
  ({ s with propolis := { s.propolis with lifecycle := n } } : State).report 0x0702 n noUnit

/-- WIPE_COMPLETE: every context is gone and the wipe ends: memory, stores and held images are zeroed, the level becomes D2 or the
lifecycle its new state, and DEBUG_UNLOCK is posted DONE (R584, R588). -/
def execWipeComplete (s : State) : Host.Outcome State Fault Refusal :=
  .next (match s.propolis.wiping with
  | none => s
  | some t =>
    if !s.ctxs.isEmpty then s
    else
      let s1 := s.wipeMemory
      let s2 : State := { s1 with propolis := { s1.propolis with wiping := none, wipeTo := none } }
      match s.propolis.wipeTo with
      | none => { s2.finish t stDone 0 0 with propolis := { s2.propolis with level := 2 } }
      | some n =>
        let s3 : State := if n = 3 then { s2 with store := { s2.store with packs := [] } } else s2
        (s3.setLifecycle n).finish t stDone 0 0)

/-! ### DEBUG_UNLOCK -/

/-- An accepted token takes effect (R584, R587). -/
def State.applyToken (s : State) (t : Ticket) (b : List Byte) : State :=
  let p := s.propolis
  let n := tokenTarget b
  let s1 := ({ s with propolis := { p with tokens := hold32 (p.tokens + 1) } } : State).report 0x0701 (tokenKind b) noUnit
  if tokenKind b = 2 then
    if p.lifecycle = 0 then
      (({ s1 with propolis := { s1.propolis with certificate := tokenCertificate b } } : State).setLifecycle n).finish t stDone 0 0
    else if n = 2 then (s1.setLifecycle n).finish t stDone 0 0
    else s1.beginWipe t (some n)
  else if n ≤ 1 then ({ s1 with propolis := { s1.propolis with level := n } } : State).finish t stDone 0 0
  else if p.level = 2 then s1.finish t stDone 0 0
  else s1.beginWipe t none

/-- A DEBUG_UNLOCK whose token has been read (R585). -/
def State.tokenWindow (s : State) (t : Ticket) (d : ReadData) : State :=
  match d with
  | .failed => s.finish t stLinkDown 0 0
  | .package _ => s.finish t stBad 0 0
  | .image _ => s.finish t stBad 0 0
  | .bytes b =>
    match s.checkToken b with
    | .refused st => s.finish t st 0 0
    | .badSignature => s.rejectSignature.finish t stNotPermitted 0 0
    | .accepted => s.wake.applyToken t b

/-- DEBUG_UNLOCK: the token is read (R585). -/
def State.takeDebugUnlock (s : State) (m : List Byte) (t : Ticket) : State := s.readWindow t m (windowAt m 32)

/-- The command of code 0x0066, from a mailbox. -/
def execDebugUnlock (mb : Nat) (s : State) : Host.Outcome State Fault Refusal := .next (s.serve mb 0x0066 State.takeDebugUnlock)

/-! ### Lock bits -/

/-- PRP_LOCK_WRITE: a write of PRP_LOCK sets bits and clears none (R590, Table 15.12). -/
def execPrpLockWrite (v : Word) (s : State) : Host.Outcome State Fault Refusal := .next (s.setLocks (v.toNat % 8))

end Sys2Proof.Machine
end

