-- ==== Sys2Proof/Machine/Pins.lean ====
section
/-! DEFINITION. Pins and supplies (R599, R600, R607, R608, R618 to R631): module reset, power-up and power loss, the reference clock,
Power Guard's stops (R565), and the management port (R614, R620). -/

namespace Sys2Proof.Machine

/-! ### Module reset (R629) -/

/-- Undefined memory contents in canonical form. -/
def undefinedMemory (k : Nat) : List Host.Cell :=
  (Config.freeMemory k).foldl (fun m c => if isMemory c.1 then memSet m c.1 c.2 else m) []

/-- The weight store after a reset: the packs on the NAND and its wear stay, its registers and what was in progress do not. -/
def Store.restart (w : Store) : Store :=
  { Store.reset with
    packs := w.packs.map fun e => (e.1, { e.2 with deleting := [] })
    peUsed := w.peUsed
    peBudget := w.peBudget
    reads := w.reads
    patrolled := w.patrolled }

/-- The pins of a module in reset (Table 17.3); inputs and the management port stay. -/
def Pins.quiet (p : Pins) : Pins :=
  { p with present := false, alert := false, thermtrip := false, transmit := false, jtag := .idcode, jtagOut := none }

/-- Every main-domain block at its reset values, memory undefined. What the auxiliary domain, the NAND and the protected area hold
stays, as does a Power Guard stop (R565, R578, R629), and what has been sent remains sent. The power state is P3 while main power is
lost or the main regulators are off, else P0 (R14). -/
def State.resetMain (s : State) : State :=
  { State.reset with
    pending := s.pending
    free := s.free + 1
    mem := undefinedMemory s.free
    store := s.store.restart
    dlSent := s.dlSent
    port := { Port.reset with mac := s.port.mac, sent := s.port.sent }
    guard := { Guard.reset with suspicions := s.guard.suspicions }
    keeper := { Keeper.reset with powerState := if s.pins.pwrGood && s.power.stopped.isNone then 0 else 3 }
    power := { Power.reset with stopped := s.power.stopped }
    propolis := { Propolis.reset with
      lifecycle := s.propolis.lifecycle
      floor := s.propolis.floor
      starts := s.propolis.starts
      enrolled := s.propolis.enrolled
      certificate := s.propolis.certificate }
    ledger := { s.ledger with dropped := 0, fault := 0 }
    memCtl := MemCtl.reset.retired s.ledger.lpGranules
    pins := s.pins.quiet }

/-- MOD_RESET_N_ASSERT: a low level of 10 µs or more is a module reset, one below 1 µs has no effect, and R629 forbids any between, for
which it gives no effect. Without auxiliary power the level is only kept. -/
def execModResetNAssert (lowNs : Nat) (s : State) : Host.Outcome State Fault Refusal :=
  if s.pins.modReset || decide (lowNs < 1000) then .next s
  else if !s.pins.vaux then .next { s with pins := { s.pins with modReset := decide (10000 ≤ lowNs) } }
  else if lowNs < 10000 then .fault .undefinedResetPulse
  else .next (State.resetMain { s with pins := { s.pins with modReset := true } })

/-- MOD_RESET_N_RELEASE: counted since main power came up (R586); a hold by a lost reference ends with it (R630). A stop that still holds
asserts its pin again (R565, Table 17.3). -/
def execModResetNRelease (s : State) : Host.Outcome State Fault Refusal :=
  .next (if s.pins.modReset then
    { s with
      pins := { s.pins with
        modReset := false
        refclkHold := false
        thermtrip := s.power.stopped == some 6
        alert := s.power.stopped == some 7 }
      propolis := { s.propolis with starts := if s.pins.pwrGood then s.propolis.starts + 1 else s.propolis.starts } }
  else s)

/-! ### Reference clock (R625, R630) -/

/-- REFCLK_LOSS: a module out of reset enters the reset condition and is held there. -/
def execRefclkLoss (s : State) : Host.Outcome State Fault Refusal :=
  .next (if !s.pins.refclk then s
  else
    let s1 : State := { s with pins := { s.pins with refclk := false } }
    if s.pins.pwrGood && !s.pins.modReset then State.resetMain { s1 with pins := { s1.pins with refclkHold := true } } else s1)

/-- REFCLK_RETURN: the reference is within its requirements again. -/
def execRefclkReturn (s : State) : Host.Outcome State Fault Refusal := .next { s with pins := { s.pins with refclk := true } }

/-! ### Supplies (R599, R600, R607, R608, R624 to R628) -/

/-- VAUX_APPLIED: the auxiliary domain is powered. -/
def execVauxApplied (s : State) : Host.Outcome State Fault Refusal := .next { s with pins := { s.pins with vaux := true } }

/-- The Ledger as the controller finds it at a power-up: after a loss of auxiliary power, as last saved (R600). -/
def Ledger.resumed (l : Ledger) : Ledger :=
  if l.auxDown then
    { l with
      powerCycles := l.savedCycles
      seconds := l.savedSeconds
      summaries := l.savedSummaries
      flushed := l.savedFlushed
      windowStart := l.savedSeconds / 600 * 600
      droppedWindow := 0
      intake := [] }
  else l

/-- A power-up: the power-cycle count rises, the open window resumes, POWER_UP and, where it applies, AUX_LOSS are entered, and the
counts are saved (R599, R600, R607, R608). -/
def Ledger.powerUp (l : Ledger) : Ledger :=
  let r := l.resumed
  let r1 := { r with
    powerCycles := min (r.powerCycles + 1) 0xFFFFFFFF
    ready := true
    carried := !r.summaries.isEmpty
    auxLost := l.auxDown
    partialWindow := r.partialWindow || l.auxDown
    auxDown := false }
  let r2 := r1.report 0x0001 r1.powerCycles noUnit
  ((if l.auxDown then r2.report 0x0002 0 noUnit else r2).drain).save

/-- PWR_GOOD_RISE (R625): a stop ends, and releases of MOD_RESET_N are counted from here; a level already high counts as the first. -/
def execPwrGoodRise (s : State) : Host.Outcome State Fault Refusal :=
  .next (if s.pins.vaux && !s.pins.pwrGood then
    { s with
      ledger := s.ledger.powerUp
      keeper := { s.keeper with powerState := 0 }
      power := { s.power with stopped := none }
      propolis := { s.propolis with starts := b2n !s.pins.modReset }
      pins := { s.pins with pwrGood := true, rails := false, refclkHold := false } }
  else s)

/-- RAILS_IN_REGULATION (R625). -/
def execRailsInRegulation (s : State) : Host.Outcome State Fault Refusal :=
  .next (if s.pins.pwrGood && s.power.stopped.isNone then { s with pins := { s.pins with rails := true } } else s)

/-- The Ledger's save at a loss of main power: the intake is taken first (R600, R607, R628). -/
def Ledger.lose (l : Ledger) : Ledger := { l.drain.save with ready := false, carried := false, auxLost := false }

/-- The main domain loses its power: P3 (R628). -/
def State.loseMain (s : State) : State :=
  let s1 := s.resetMain
  { s1 with
    keeper := { s1.keeper with powerState := 3 }
    pins := { s1.pins with pwrGood := false, rails := false } }

/-- POWER_LOSS: transmitters idle, PRESENT_N and ALERT_N are released, the Ledger is saved and the regulators turn off (R628). With
VAUX_IN failing the save may be incomplete: whether it is made is free. -/
def execPowerLoss (cause : PowerLossCause) (s : State) : Host.Outcome State Fault Refusal :=
  .next (if cause = .vauxSag then
    if s.pins.vaux then
      let s1 := if s.pins.pwrGood then s.loseMain else s
      let kept := if s.fresh.1 % 2 = 0 then s1.ledger.lose else { s1.ledger with ready := false, carried := false, auxLost := false }
      { s1 with ledger := { kept with auxDown := true }, free := s1.free + 1, pins := { s1.pins with vaux := false } }
    else s
  else if s.pins.pwrGood then
    let s1 := s.loseMain
    { s1 with ledger := s1.ledger.lose }
  else s)

/-! ### Power Guard's stops (R565) -/

/-- Power Guard stops the module: clocks halt, the main-domain regulators turn off, and the cause is entered in the Ledger. -/
def State.stop (s : State) (cause unit : Nat) : State :=
  let s1 := (s.report 0x0601 cause unit).resetMain
  { s1 with
    keeper := { s1.keeper with powerState := 3 }
    power := { s1.power with stopped := some cause, causeCode := cause }
    pins := { s1.pins with rails := false } }

/-- THERMAL_STOP: a sensor at 115.0 °C or more asserts THERMTRIP_N. -/
def execThermalStop (sensor : Nat) (s : State) : Host.Outcome State Fault Refusal :=
  .next (if s.clocked then
    let s1 := s.stop 6 (sensor % 64)
    { s1 with pins := { s1.pins with thermtrip := true } }
  else s)

/-- RAIL_VOLTAGE_STOP: a rail more than 8 % from its setpoint for 10 µs asserts ALERT_N. -/
def execRailVoltageStop (rail : Nat) (s : State) : Host.Outcome State Fault Refusal :=
  .next (if s.clocked && decide (rail < 6) then
    let s1 := s.stop 7 rail
    { s1 with pins := { s1.pins with alert := true } }
  else s)

/-! ### The management port (R614, R620) -/

/-- The port's SMBus address. -/
def Pins.smbAddress (p : Pins) : Nat := 0x64 + p.mgmtSel.toNat

/-- The module sends a message on the management port. -/
def State.mgmtSend (s : State) (b : List Byte) : State := { s with pins := { s.pins with mgmtSent := s.pins.mgmtSent ++ [b] } }

/-- The readings that PLDM sensors report: junction maximum, main input power, rail voltages and currents. -/
def State.sensorBytes (s : State) : List Byte :=
  leBytes 4 s.power.temp.toNat ++ leBytes 4 s.power.watts.toNat ++ s.power.railMv.flatMap (leBytes 2) ++ s.power.railAmps.flatMap (leBytes 2)

/-- MCTP_CONTROL: an MCTP control message is answered. -/
def execMctpControl (request : List Byte) (s : State) : Host.Outcome State Fault Refusal :=
  .next (if s.pins.vaux then s.mgmtSend (Config.freeBytes 16 (leBytes 1 s.pins.smbAddress ++ request)) else s)

/-- PLDM type of a request. -/
def pldmType (request : List Byte) : Nat := field request 1 1 % 64

/-- PLDM_REQUEST: Platform Monitoring and Control (type 2) and FRU data (type 4) are answered; no other type is served. -/
def execPldmRequest (request : List Byte) (s : State) : Host.Outcome State Fault Refusal :=
  .next (if s.pins.vaux && (pldmType request == 2 || pldmType request == 4) then
    s.mgmtSend (Config.freeBytes 17 (s.sensorBytes ++ leBytes 6 s.port.mac.toNat ++ leBytes 4 Config.idcode.toNat ++ request))
  else s)

/-- The response to a Ledger read by FROM (R614): a history table holds no records. -/
def State.mgmtRecords (s : State) (start : Nat) : List (List Byte) := if bitAt start 63 then [] else s.ledger.readRecords start 4

/-- The response to a Ledger read request, which is command byte 0x01 and an 8-byte FROM; the completion byte of any other is not
stated. -/
def State.mgmtAnswer (s : State) (request : List Byte) : List Byte :=
  if request.length = 9 ∧ field request 0 1 = 1 then
    let rs := s.mgmtRecords (field request 1 8)
    leBytes 1 0 ++ leBytes 8 s.ledger.written ++ leBytes 1 rs.length ++ rs.flatMap id
  else Config.freeBytes 18 request

/-- MGMT_LEDGER_READ (R614): served in every power state. -/
def execMgmtLedgerRead (request : List Byte) (s : State) : Host.Outcome State Fault Refusal :=
  .next (if s.pins.vaux then s.mgmtSend (s.mgmtAnswer request) else s)

end Sys2Proof.Machine
end

