-- ==== Sys2Proof/Machine/RegMap.lean ====
section
/-! DEFINITION. Register space (R18 to R20, Table 1.4): what a read of each register gives, what a write does by its access code
(RO, RW, W1C, RWL), and accesses to addresses that name no register. -/

namespace Sys2Proof.Machine

/-! ### Access codes -/

/-- A written value cut to 32 bits, with the bits of a mask. -/
def cut32 (v : Long) (mask : Nat) : Word := BitVec.ofNat 32 (v.toNat % 2 ^ 32) &&& BitVec.ofNat 32 mask

/-- A written address of 48 bits. -/
def cut48 (v : Long) : Long := BitVec.ofNat 64 (v.toNat % 2 ^ 48)

/-- The state that an outcome goes on in. -/
def goesOn (s : State) : Host.Outcome State Fault Refusal → State
  | .next t => t
  | _ => s

/-- Whether a lock bit of Table 15.8 is set: the registers it holds then act as RO (R591). -/
def State.lockSet (s : State) (i : Nat) : Bool := bitAt s.propolis.lock.toNat i

/-- The answer of a write to a register whose lock bit may be set. -/
def State.unlessLocked (s : State) (i : Nat) (t : State) : Option State := some (if s.lockSet i then s else t)

/-- Index of `off` in an array of registers from `base` on with a stride, where it names one of the first `n`. -/
def indexIn (off base stride n : Nat) : Option Nat :=
  if base ≤ off ∧ (off - base) % stride = 0 ∧ (off - base) / stride < n then some ((off - base) / stride) else none

/-- Index and inner offset of `off` in an array of groups of registers. -/
def groupIn (off base stride n : Nat) : Option (Nat × Nat) :=
  if base ≤ off ∧ (off - base) / stride < n then some ((off - base) / stride, (off - base) % stride) else none

/-! ### Cores and vector engines (Tables 4.14 and 5.10) -/

/-- CORE_STATE.STATE. -/
def modeCode : CoreMode → Nat
  | .idle => 0
  | .running => 1
  | .done => 2
  | .aborting => 3
  | .faulted => 4
  | .retired => 5

/-- CORE_STATE.WAITING: the sequencer or a queue head has an unmet wait. -/
def Core.waiting (c : Core) : Bool :=
  c.active && [0, 1, 2, 3, 4, 5, 6].any fun e => match c.taker e with
    | some f => !c.waitsMet f
    | none => false

/-- CORE_ID (Table 4.14). -/
def State.coreId (s : State) (p : Nat) : Nat :=
  let l := if s.isRetired p then 0x1FF else (s.servedBy p).getD 0x1FF
  p + 2 ^ 10 * l + 2 ^ 19 * (p / 17) + 2 ^ 24 * (p % 17)

/-- CORE_QUEUE. -/
def Core.queueWord (c : Core) : Nat := ([0, 1, 2, 3, 4, 5].map fun e => (c.queue e).length * 2 ^ (8 * e)).sum

/-- Loop index of a level. -/
def Core.loopIndex (c : Core) (i : Nat) : Nat := ((c.idx[i]?).getD 0).toNat

/-- A core register's value by its offset below 0x8000; none where no register lies. -/
def State.coreRead (s : State) (p off : Nat) : Option Nat :=
  let c := s.core p
  match off with
  | 0x000 => some (s.coreId p)
  | 0x008 => some (modeCode c.mode + 8 * b2n c.fillBusy + 16 * b2n c.waiting)
  | 0x010 => some 0
  | 0x018 => some c.context.toNat
  | 0x020 => some c.entry.toNat
  | 0x028 => some c.stepSeq.toNat
  | 0x030 => some c.waitLimit.toNat
  | 0x200 => some c.queueWord
  | 0x208 => some (c.pc % 4096)
  | 0x210 => some (c.loopIndex 0 + 2 ^ 32 * c.loopIndex 1)
  | 0x218 => some (c.loopIndex 2 + 2 ^ 32 * c.loopIndex 3)
  | 0x280 => some c.fault.toNat
  | 0x288 => some c.faultAt.toNat
  | 0x2C0 => some c.busy
  | 0x300 => some c.fsSrc.toNat
  | 0x308 => some c.fsDst.toNat
  | 0x310 => some c.fsLen.toNat
  | _ =>
    match indexIn off 0x48 8 15, indexIn off 0x100 4 32 with
    | some n, _ => some (tgetD c.params (n + 1) 0).toNat
    | _, some n => some (tgetD c.tokens n 0).toNat
    | none, none => none

/-- A watch entry's register by its offset in the entry. -/
def watchRead (w : WatchSum) : Nat → Option Nat
  | 0x00 => some (w.tag + 2 ^ 31)
  | 0x08 => some w.elems
  | 0x10 => some w.zeros
  | 0x18 => some w.sats
  | 0x20 => some w.nonfin
  | 0x28 => some w.recomp
  | 0x30 => some w.fallback
  | 0x38 => some w.amax.toNat
  | _ => none

/-- The user function registers of a slot. -/
def Core.userReg (c : Core) (n : Nat) : UserRegs := tgetD c.userRegs n ⟨0, 0, 0, 0, 0⟩

/-- A user function register's value by its offset in the slot's group. -/
def userRead (u : UserRegs) : Nat → Option Nat
  | 0x00 => some u.lo.toNat
  | 0x04 => some u.cfg.toNat
  | 0x08 => some u.crc.toNat
  | 0x10 => some u.vinf.toNat
  | 0x18 => some u.dinf.toNat
  | _ => none

/-- Whether an offset lies in the chain store or the user tables, 8-byte aligned. -/
def inVeuStore (off : Nat) : Bool := decide (0x9000 ≤ off) && decide (off < 0xF800) && off % 8 == 0

/-- A vector engine register's value by its offset from 0x8000 on. -/
def State.veuRead (s : State) (p off : Nat) : Option Nat :=
  let c := s.core p
  match off with
  | 0x8000 => some (b2n !(tgetD c.started 5 []).isEmpty + 2 * b2n c.veuFillBusy)
  | 0x8008 => some c.veuFlags.toNat
  | 0x8010 => some c.veuFlagsStep.toNat
  | 0x8018 => some c.veuFault.toNat
  | 0x8020 => some c.chainValid.toNat
  | 0x8028 => some c.veuFillSrc.toNat
  | 0x8030 => some c.veuFillDst.toNat
  | 0x8038 => some c.veuFillLen.toNat
  | 0x8040 => some 0
  | 0x8100 => some c.watch.length
  | _ =>
    if inVeuStore off then some (field (c.veuUnit ((off - 0x9000) / 64)) ((off - 0x9000) % 64) 8)
    else match groupIn off 0x8080 0x20 3, groupIn off 0x8400 0x40 32 with
      | some (n, o), _ => userRead (c.userReg n) o
      | _, some (e, o) =>
        match c.watch[e]? with
        | some w => watchRead w o
        | none => (watchRead ⟨0, 0, 0, 0, 0, 0, 0, 0⟩ o).map fun _ => 0
      | none, none => none

/-- Whether a core takes writes of R169 and R210: it is IDLE or DONE. -/
def Core.settled (c : Core) : Bool := c.mode == .idle || c.mode == .done

/-- A write of CORE_CTRL: START, ABORT and FILL each act where the written bit is 1. -/
def State.writeCoreCtrl (s : State) (w : CoreWin) (v : Nat) : State :=
  let s1 := if bitAt v 0 then goesOn s (execCoreStart w s) else s
  let s2 := if bitAt v 1 then goesOn s1 (execCoreAbort w s1) else s1
  if bitAt v 2 then goesOn s2 (execFrameStoreFill ⟨w, .ok⟩ s2) else s2

/-- A write below offset 0x8000 of a core window. -/
def State.coreWrite (s : State) (w : CoreWin) (off : Nat) (v : Long) : Option State :=
  let p := s.windowCore w
  let c := s.core p
  match off with
  | 0x010 => some (s.writeCoreCtrl w v.toNat)
  | 0x018 => some (s.setCore p { c with context := cut32 v 0x800001FF })
  | 0x020 => some (s.setCore p { c with entry := cut32 v 0xFFF })
  | 0x028 => some (s.setCore p { c with stepSeq := cut32 v 0xFFFFFFFF })
  | 0x030 => some (s.setCore p { c with waitLimit := cut32 v 0xFFFFFFFF })
  | 0x280 => some (s.setCore p { c with fault := w1c c.fault (cut32 v 0xFFFFFFFF) })
  | 0x300 => some (s.setCore p { c with fsSrc := cut48 v })
  | 0x308 => some (s.setCore p { c with fsDst := cut32 v 0xFFF })
  | 0x310 => some (s.setCore p { c with fsLen := cut32 v 0x1FFF })
  | _ =>
    match indexIn off 0x48 8 15, indexIn off 0x100 4 32 with
    | some n, _ => some (s.setCore p { c with params := tset c.params (n + 1) v })
    | _, some n => some (goesOn s (execCoreTokenWrite w n (cut32 v 0xFFFFFFFF) s))
    | none, none => (s.coreRead p off).map fun _ => s

/-- A user function slot's registers after a write in its group. -/
def userWrite (u : UserRegs) (o : Nat) (v : Long) : Option UserRegs :=
  match o with
  | 0x00 => some { u with lo := cut32 v 0xFFFFFFFF }
  | 0x04 => some { u with cfg := cut32 v 0xFF01 }
  | 0x08 => some { u with crc := cut32 v 0xFFFFFFFF }
  | 0x10 => some { u with vinf := v }
  | 0x18 => some { u with dinf := v }
  | _ => none

/-- Eight bytes written into a 64-byte unit. -/
def putUnit (unit : List Byte) (o : Nat) (v : Long) : List Byte := unit.take o ++ leBytes 8 v.toNat ++ unit.drop (o + 8)

/-- A write from offset 0x8000 on of a core window. R210 holds back fills, VEU_CHAIN_VALID and the VEU_UFn_ registers only: a write into
the chain store or a user table takes effect in every state of the core (DESIGN CHOICE, assumption 144). -/
def State.veuWrite (s : State) (w : CoreWin) (off : Nat) (v : Long) : Option State :=
  let p := s.windowCore w
  let c := s.core p
  let guarded (d : Core) : Option State :=
    some (if c.settled then s.setCore p d else s.ignored (coreRegAddr w off) (windowUnit w))
  match off with
  | 0x8008 => some (s.setCore p { c with veuFlags := w1c c.veuFlags (cut32 v 0xFFFFFFFF) })
  | 0x8018 => some (s.setCore p { c with veuFault := w1c c.veuFault (cut32 v 0xFFFFFFFF) })
  | 0x8020 => guarded { c with chainValid := v }
  | 0x8028 => some (s.setCore p { c with veuFillSrc := cut48 v })
  | 0x8030 => some (s.setCore p { c with veuFillDst := cut32 v 0x1FF })
  | 0x8038 => some (s.setCore p { c with veuFillLen := cut32 v 0x1FF })
  | 0x8040 => some (if bitAt v.toNat 0 then goesOn s (execVeuFill ⟨w, .ok⟩ s) else s)
  | _ =>
    if inVeuStore off then
      let k := (off - 0x9000) / 64
      some (s.setCore p { c with
        veuStore := tset c.veuStore k (putUnit (c.veuUnit k) ((off - 0x9000) % 64) v)
        veuCtx := c.ctx.or c.veuCtx })
    else match groupIn off 0x8080 0x20 3 with
      | some (n, o) =>
        match userWrite (c.userReg n) o v with
        | some u => guarded { c with userRegs := tset c.userRegs n u }
        | none => none
      | none => (s.veuRead p off).map fun _ => s

/-- The core window, and the offset in it, of a device address: logical cores of R519's numbering, or physical cores. -/
def State.windowOf (s : State) (a : Nat) : Option (CoreWin × Nat) :=
  match groupIn a 0x800000000 0x10000 s.coreCount, groupIn a 0x804000000 0x10000 544 with
  | some (c, off), _ => some (.logical c, off)
  | _, some (p, off) => some (.physical p, off)
  | none, none => none

/-- The comb scalar register of a device address: 64 times its comb plus its number (Table 5.10's comb map). -/
def combScalarOf (a : Nat) : Option Nat :=
  match groupIn a 0x802000000 0x10000 32 with
  | some (k, off) => (indexIn off 0x1000 8 64).map fun n => 64 * k + n
  | none => none

/-! ### Blocks read -/

/-- BRD_ and BRD_KV_ (Tables 7.9 and 8.11). -/
def State.brdRead (s : State) (off : Nat) : Option Nat :=
  match off with
  | 0x00 => some s.brdCtrl.toNat
  | 0x08 => some s.usedSlots.length
  | 0x10 => some s.brdStarted.toNat
  | 0x18 => some s.shareWindow
  | 0x20 => some s.brdFault.toNat
  | 0x7F0000 => some s.cowCount
  | 0x7F0008 => some s.evictCount
  | _ =>
    match groupIn off 0x1000 0x20 512, groupIn off 0x200000 0x80 16384, groupIn off 0x800000 0x40 512 with
    | some (n, o), _, _ =>
      let r := s.creg n
      match o with
      | 0x00 => some r.cfg.toNat
      | 0x08 => some r.combs.toNat
      | 0x10 => some (r.usage / 100 % 2 ^ 32)
      | 0x18 => some (r.usagePrev / 100 % 2 ^ 32)
      | _ => none
    | _, some (i, o), _ =>
      let e := s.slot i
      if o % 8 = 0 then some (field (e.bytes) o 8) else none
    | _, _, some (n, o) =>
      let r := s.creg n
      match o with
      | 0x00 => some r.kvBase.toNat
      | 0x08 => some r.kvGeom.toNat
      | 0x10 => some r.kvPages.toNat
      | 0x18 => some r.kvLists.toNat
      | 0x20 => some r.kvMeta.toNat
      | 0x28 => some r.kvPrefix.toNat
      | 0x30 => some ((s.pool n).freeCount r.pages)
      | 0x38 => some (s.pool n).reused
      | _ => none
    | none, none, none => none

/-- NEC_ and SUP_ (Table 7.10). -/
def State.necRead (s : State) (off : Nat) : Option Nat :=
  match off with
  | 0x00 => some s.necPoll.toNat
  | 0x08 => some s.necRingBase.toNat
  | _ =>
    match groupIn off 0x1000 0x20 512 with
    | some (n, 0x00) => some (s.creg n).supBase.toNat
    | some (n, 0x08) => some (s.creg n).supBytes.toNat
    | some (n, 0x10) => some (s.creg n).supHead
    | some (n, 0x18) => some (s.creg n).supTail
    | _ => none

/-- MEM_ (Table 6.10). -/
def MemCtl.regRead (m : MemCtl) (off : Nat) : Option Nat :=
  match off with
  | 0x00 => some (b2n m.lpSlow + 2 * b2n m.bistDone + 4 * b2n m.scrubPaused)
  | 0x08 => some m.ptBase.toNat
  | 0x10 => some m.layout.toNat
  | 0x18 => some m.inval.toNat
  | 0x20 => some m.scrubCfg.toNat
  | 0x28 => some m.ceCount.toNat
  | 0x30 => some m.ueCount.toNat
  | 0x38 => some m.errAddr.toNat
  | 0x40 => some m.errInfo.toNat
  | 0x48 => some (m.poolFree + 2 ^ 12 * m.withdrawn)
  | 0x50 => some m.zeroAddr.toNat
  | 0x58 => some m.zeroCtrl.toNat
  | _ => none

/-- WST_ (Table 6.11). -/
def Store.regRead (w : Store) (off : Nat) : Option Nat :=
  match off with
  | 0x00 => some (b2n w.ready + 2 * b2n w.readOnly + 4 * b2n !w.relocating.isEmpty + 16 * w.wear)
  | 0x08 => some 0x09600420
  | 0x10 => some w.errCount.toNat
  | 0x18 => some w.peUsed
  | 0x20 => some w.peBudget
  | 0x28 => some w.patrolCfg.toNat
  | 0x30 => some w.freeExtents
  | _ => none

/-- TRN_STATUS.TURN: a turn to generation before it begins stands at step 1, with shards to come at step 3, else at step 5. -/
def turnCode : Option Turn → Nat
  | none => 0
  | some t =>
    if t.kind = .learn then 1
    else if !t.begun then 2
    else if t.shards.all fun p => p.status.isSome then 6 else 4

/-- TRN_ (Table 10.12). -/
def TurnCtl.regRead (t : TurnCtl) (off : Nat) : Option Nat :=
  match off with
  | 0x00 => some (b2n t.continueMode)
  | 0x08 => some (b2n t.learning.isSome + 2 * turnCode t.turn + 16 * b2n (t.loads.any fun l => !l.waitsSwitch))
  | 0x10 => some t.vtBase.toNat
  | 0x18 => some t.atBase.toNat
  | 0x20 => some t.turnCount.toNat
  | 0x28 => some t.lastTicks
  | 0x30 => some t.shardCount.toNat
  | 0x38 => some t.retryCount.toNat
  | 0x40 => some t.hostWait.toNat
  | 0x48 => some t.fault.toNat
  | _ => none

/-- DL_LINKk_STATUS. -/
def State.linkStatus (s : State) (k : Nat) : Nat :=
  let l := s.link k
  b2n l.up + 2 * b2n (s.linkUsed k) + 4 * (l.peer % 64) + 2 ^ 8 * (l.peerLink % 4) + 2 ^ 10 * (l.cause % 4) + 2 ^ 12 * (l.downs % 2 ^ 16)

/-- DL_ (Table 11.9). -/
def State.dlRead (s : State) (off : Nat) : Option Nat :=
  let c := s.cascade
  match off with
  | 0x00 => some (b2n c.enable)
  | 0x08 => some s.dlStatus
  | 0x10 => some c.group.toNat
  | 0x18 => some c.epoch.toNat
  | 0x20 => some (c.current.toNat + 2 ^ 32 * c.next.toNat)
  | 0x28 => some c.hbCfg.toNat
  | 0x30 => some c.formWait.toNat
  | 0x38 => some (min 16384 ((s.holdBytes + 4095) / 4096))
  | 0x40 => some c.fault.toNat
  | _ =>
    match groupIn off 0x100 0x40 4 with
    | some (k, 0x00) => some (s.linkStatus k)
    | some (k, 0x08) => some (s.link k).ce
    | some (k, 0x10) => some (s.link k).retry
    | some (k, 0x18) => some (s.link k).bytes
    | _ => none

/-- ETH_ (Table 12.17). -/
def Port.regRead (p : Port) (off : Nat) : Option Nat :=
  match off with
  | 0x00 => some p.ctrl.toNat
  | 0x08 => some (b2n p.up + 2 * b2n p.slow + 4 * p.lanes.toNat)
  | 0x10 => some p.mac.toNat
  | 0x18 => some p.udpPort.toNat
  | 0x20 => some p.pfc.toNat
  | 0x28 => some p.cc.toNat
  | 0x30 => some p.linkWait.toNat
  | 0x38 => some p.qps.length
  | 0x40 => some p.fault.toNat
  | 0x48 => some p.fec.toNat
  | 0x50 => some p.drop.toNat
  | _ => none

/-- KPR_STATUS.MODE. -/
def keeperCode : KeeperMode → Nat
  | .bootRom => 0
  | .running => 1
  | .restarting => 2
  | .halted => 3

/-- KPR_STATUS. DEFERRED is cleared when a restart begins (R553). -/
def Keeper.statusWord (k : Keeper) : Nat :=
  keeperCode k.mode + 4 * b2n k.pendingImage.isSome + 8 * b2n (!k.deferred.isEmpty && k.mode != .restarting) + 16 * k.coresRun.toNat +
    2 ^ 8 * k.startFail + 2 ^ 12 * k.failUnit

/-- KPR_ (Table 14.9). -/
def State.kprRead (s : State) (off : Nat) : Option Nat :=
  let k := s.keeper
  match off with
  | 0x00 => some k.statusWord
  | 0x08 => some s.imageVersion
  | 0x10 => some k.fwBase.toNat
  | 0x18 => some k.wdogCfg.toNat
  | 0x20 => some 0
  | 0x28 => some (k.restarts % 2 ^ 32 + 2 ^ 32 * k.restartTicks.length)
  | 0x30 => some k.cause.toNat
  | 0x38 => some k.logBase.toNat
  | 0x40 => some k.logCount
  | 0x48 => some k.logLost
  | 0x50 => some k.fault.toNat
  | _ => (indexIn off 0x100 8 64).map fun w => (tgetD k.trace w 0).toNat

/-- PGD_ and CLK_ (Table 14.10). -/
def Power.regRead (p : Power) (off : Nat) : Option Nat :=
  match off with
  | 0x0000 => some (p.ceiling + 4 * b2n !p.clamped.isEmpty + 8 * b2n p.emergency + 16 * p.causeCode)
  | 0x0008 => some p.temp.toNat
  | 0x0010 => some p.watts.toNat
  | 0x0018 => some 0x08987364
  | 0x0050 => some (p.rises % 2 ^ 32 + 2 ^ 32 * (p.clamps % 2 ^ 32))
  | 0x8000 => some (p.divider + 4 * b2n p.rootLock + 8 * b2n p.serdesLock + 16 * b2n p.lpLock + 32 * b2n p.target.isSome)
  | 0x8008 => some (p.request + 4 * p.hostCeil)
  | 0x8010 => some p.timebase.toNat
  | 0x8018 => some p.dvfsCount
  | _ => (indexIn off 0x20 8 6).map fun r => (p.railMv[r]?).getD 0 + 2 ^ 16 * (p.railAmps[r]?).getD 0 + 2 ^ 32 * railClamp r

/-- PRP_STATUS. -/
def Propolis.statusWord (p : Propolis) : Nat :=
  p.lifecycle + 4 * p.level + 16 * b2n p.selfOk + 32 * b2n p.testKey + 64 * b2n p.partitioned + 128 * b2n p.wiping.isSome

/-- PRP_ (Table 15.12); the wide registers are read in units of 64 bits. -/
def State.prpRead (s : State) (off : Nat) : Option Nat :=
  let p := s.propolis
  match off with
  | 0x00 => some p.statusWord
  | 0x08 => some p.lock.toNat
  | 0x20 => some s.challenge
  | 0x28 => some p.floor.toNat
  | 0x80 => some (p.sigFail + 2 ^ 32 * p.tokens)
  | 0x88 => some p.fault.toNat
  | _ =>
    match indexIn off 0x10 8 2, indexIn off 0x40 8 8 with
    | some i, _ => some (deviceId.toNat / 2 ^ (64 * i) % 2 ^ 64)
    | _, some i => some (p.measure.toNat / 2 ^ (64 * i) % 2 ^ 64)
    | none, none => none

/-- LDG_ (Table 16.5). -/
def Ledger.regRead (l : Ledger) (off : Nat) : Option Nat :=
  match off with
  | 0x00 => some (b2n l.ready + 2 * b2n l.carried + 4 * b2n l.auxLost + 8 * l.summaries.length)
  | 0x08 => some l.powerCycles
  | 0x10 => some l.seconds
  | 0x18 => some l.written
  | 0x20 => some l.dropped
  | 0x28 => some l.fault.toNat
  | _ => none

/-- CAP_STATUS. -/
def capWord : Option Capping → Nat
  | none => 0
  | some c => (match c.state with | .idle => 0 | .capturing => 1 | .restoring => 2) + 4 * c.ctx

/-- GRD_SUSPECTw. -/
def Guard.suspectWord (g : Guard) (w : Nat) : Nat :=
  ((g.suspects.filter fun p => p / 64 == w).map fun p => 2 ^ (p % 64)).sum

/-- GRD_ and CAP_ (Table 13.10). GRD_STATUS.CORES reads its reset value 0 until the
cores have been tested (DEDUCED, assumption 16). -/
def State.grdRead (s : State) (off : Nat) : Option Nat :=
  let g := s.guard
  match off with
  | 0x0000 => some (g.run + 4 * b2n (s.steps.any (fun t => t.phase == .running) || s.learnSteps.any fun t => t.running) +
      8 * b2n (s.learnSteps.any fun t => t.redo && t.state == .running) + 16 * b2n g.degraded +
      32 * (if s.memCtl.bistDone then s.coreCount else 0))
  | 0x0008 => some g.fp.toNat
  | 0x0010 => some g.runs.toNat
  | 0x0018 => some g.decided.toNat
  | 0x0020 => some g.cfgFixes
  | 0x0028 => some g.fault.toNat
  | 0x8000 => some (capWord g.cap)
  | 0x8008 => some ((g.cap.map fun c => c.left.length).getD 0)
  | 0x8010 => some g.touch
  | 0x8018 => some ((g.heldImages.map fun i => imageSize i.2).sum)
  | 0x8020 => some g.capFault.toNat
  | _ =>
    match indexIn off 0x100 8 9, indexIn off 0x1000 8 512 with
    | some w, _ => some (g.suspectWord w)
    | _, some n => some (s.creg n).guardCfg.toNat
    | none, none => none

/-- What a read of a device address in register space gives; none where no register lies (R18, R19). -/
def State.regRead (s : State) (a : Nat) : Option Nat :=
  match s.windowOf a with
  | some (w, off) => if off < 0x8000 then s.coreRead (s.windowCore w) off else s.veuRead (s.windowCore w) off
  | none =>
    let off := a % 0x1000000
    match a / 0x1000000 with
    | 0x802 => (combScalarOf a).map fun n => (tgetD s.combScalars n 0).toNat
    | 0x810 => s.brdRead off
    | 0x811 => s.necRead off
    | 0x812 => s.memCtl.regRead off
    | 0x813 => s.store.regRead off
    | 0x814 => s.turns.regRead off
    | 0x815 => s.dlRead off
    | 0x816 => s.port.regRead off
    | 0x817 => s.kprRead off
    | 0x818 => s.power.regRead off
    | 0x819 => s.prpRead off
    | 0x81A => s.ledger.regRead off
    | 0x81B => s.grdRead off
    | _ => none

/-! ### Blocks written -/

/-- A context's BRD_ registers: WEIGHT 0 leaves the field, and a mask that R264 does not accept changes nothing. -/
def State.writeBrdCtx (s : State) (n o : Nat) (v : Long) : Option State :=
  let r := s.creg n
  match o with
  | 0x00 =>
    let w := if bits v.toNat 15 0 = 0 then bits r.cfg.toNat 15 0 else bits v.toNat 15 0
    s.unlessLocked 1 (s.setCreg n { r with cfg := BitVec.ofNat 32 (w + 2 ^ 16 * bits v.toNat 17 16) })
  | 0x08 => s.unlessLocked 1 (if s.maskAccepted n (cut32 v 0xFFFFFFFF) then s.setCreg n { r with combs := cut32 v 0xFFFFFFFF } else s)
  | 0x10 => some s
  | 0x18 => some s
  | _ => none

/-- A context's BRD_KV_ registers. -/
def State.writeKvCtx (s : State) (n o : Nat) (v : Long) : Option State :=
  let r := s.creg n
  match o with
  | 0x00 => s.unlessLocked 1 (s.setCreg n { r with kvBase := cut48 v })
  | 0x08 => s.unlessLocked 1 (s.setCreg n { r with kvGeom := cut32 v 0x7FFF0F })
  | 0x10 => s.unlessLocked 1 (s.setCreg n { r with kvPages := cut32 v 0x1FFFFF })
  | 0x18 => s.unlessLocked 1 (s.setCreg n { r with kvLists := cut32 v 0xFFFF })
  | 0x20 => s.unlessLocked 1 (s.setCreg n { r with kvMeta := cut48 v })
  | 0x28 => s.unlessLocked 1 (s.setCreg n { r with kvPrefix := cut32 v 0x7FFF3F })
  | 0x30 => some s
  | 0x38 => some s
  | _ => none

/-- Device address of BRD_SLOTs. -/
def regBrdSlot (i : Nat) : Nat := 0x810200000 + 0x80 * i

/-- A write of a Brood entry (R296): it takes effect while the builder is disabled and the debug path holds D2, by an agent that reaches the
BRD_ registers. Any other is counted. -/
def State.writeSlot (s : State) (agent : Agent) (i : Nat) (entry : List Byte) : State :=
  if agent ≠ .comb ∧ s.propolis.level = 2 ∧ bitAt s.brdCtrl.toNat 0 = false then
    let e := s.slot i
    s.setSlot i (e.ofBytes (s.creg (bits (field entry 8 2) 8 0)) entry)
  else s.ignored (regBrdSlot i) none

/-- BRD_SLOT_WRITE (R296). -/
def execBrdSlotWrite (agent : Agent) (slot : Nat) (entry : List Byte) (s : State) : Host.Outcome State Fault Refusal :=
  .next (s.writeSlot agent slot entry)

/-- A write in the BRD_ window. -/
def State.brdWrite (s : State) (agent : Agent) (off : Nat) (v : Long) : Option State :=
  match off with
  | 0x00 => some { s with brdCtrl := cut32 v 3 }
  | 0x20 => some { s with brdFault := w1c s.brdFault (cut32 v 0xFFFFFFFF) }
  | _ =>
    match groupIn off 0x1000 0x20 512, groupIn off 0x200000 0x80 16384, groupIn off 0x800000 0x40 512 with
    | some (n, o), _, _ => s.writeBrdCtx n o v
    | _, some (i, o), _ =>
      if o % 8 = 0 then some (s.writeSlot agent i (putUnit (s.slot i).bytes o v)) else none
    | _, _, some (n, o) => s.writeKvCtx n o v
    | none, none, none => (s.brdRead off).map fun _ => s

/-- A super's registers change only while the context has no slot and no entry (R297); its counts start again. -/
def State.setSup (s : State) (n : Nat) (r : CtxRegs) : State :=
  if (s.ctxSlots n).isEmpty && ((s.ctx n).all fun x => x.supers.isEmpty) then s.setCreg n { r with supHead := 0, supTail := 0 } else s

/-- A write in the NEC_, SUP_ window. -/
def State.necWrite (s : State) (off : Nat) (v : Long) : Option State :=
  match off with
  | 0x00 => some { s with necPoll := cut32 v 0xFFFFFFFF }
  | 0x08 => some { s with necRingBase := cut48 v }
  | _ =>
    match groupIn off 0x1000 0x20 512 with
    | some (n, 0x00) => some (s.setSup n { s.creg n with supBase := cut48 v })
    | some (n, 0x08) => some (s.setSup n { s.creg n with supBytes := cut48 v })
    | _ => (s.necRead off).map fun _ => s

/-- A write in the MEM_ window; clearing MEM_ERR_INFO.VALID arms the next capture. -/
def State.memWriteReg (s : State) (off : Nat) (v : Long) : Option State :=
  let m := s.memCtl
  match off with
  | 0x08 => s.unlessLocked 2 { s with memCtl := { m with ptBase := cut48 v } }
  | 0x10 => s.unlessLocked 2 { s with memCtl := { m with layout := cut32 v 0x1FFFF } }
  | 0x18 => some (goesOn s (execMemInval (cut32 v 0xFFFFFFFF) s))
  | 0x20 => some { s with memCtl := { m with scrubCfg := cut32 v 0xFFFFFFFF } }
  | 0x40 => some { s with memCtl := { m with errInfo := w1c m.errInfo (cut32 v 0xFFFFFFFF) } }
  | 0x50 => some { s with memCtl := { m with zeroAddr := cut48 v } }
  | 0x58 => some (goesOn s (execMemZero (cut32 v 0xFFFFFFFF) s))
  | _ => (m.regRead off).map fun _ => s

/-- A write in the WST_ window. -/
def State.wstWrite (s : State) (off : Nat) (v : Long) : Option State :=
  match off with
  | 0x28 => some { s with store := { s.store with patrolCfg := cut32 v 0xFFFF } }
  | _ => (s.store.regRead off).map fun _ => s

/-- A write in the TRN_ window. -/
def State.trnWrite (s : State) (off : Nat) (v : Long) : Option State :=
  let t := s.turns
  match off with
  | 0x00 => some (goesOn s (execTrnModeWrite (cut32 v 0xFFFFFFFF) s))
  | 0x10 => s.unlessLocked 1 { s with turns := { t with vtBase := cut48 v } }
  | 0x18 => s.unlessLocked 1 { s with turns := { t with atBase := cut48 v } }
  | 0x40 => some { s with turns := { t with hostWait := cut32 v 0xFFFFFFFF } }
  | 0x48 => some { s with turns := { t with fault := w1c t.fault (cut32 v 0xFFFFFFFF) } }
  | _ => (t.regRead off).map fun _ => s

/-- A write of DL_CTRL: ENABLE, and FENCE where its bit is 1 (R446). -/
def State.writeDlCtrl (s : State) (v : Nat) : State :=
  let s1 : State := { s with cascade := { s.cascade with enable := bitAt v 0 } }
  if bitAt v 1 then goesOn s1 (execDlFence s1) else s1

/-- A write in the DL_ window. -/
def State.dlWrite (s : State) (off : Nat) (v : Long) : Option State :=
  let c := s.cascade
  match off with
  | 0x00 => some (s.writeDlCtrl v.toNat)
  | 0x10 => some { s with cascade := { c with group := BitVec.ofNat 64 (v.toNat % 2 ^ 61) } }
  | 0x18 => some { s with cascade := { c with epoch := cut32 v 0xFFFFFFFF } }
  | 0x28 => some { s with cascade := { c with hbCfg := cut32 v 0xFFFFFF } }
  | 0x30 => some { s with cascade := { c with formWait := cut32 v 0xFFFFFFFF } }
  | 0x40 => some { s with cascade := { c with fault := w1c c.fault (cut32 v 0xFFFFFFFF) } }
  | _ => (s.dlRead off).map fun _ => s

/-- Device address of ETH_UDP. -/
def regEthUdp : Nat := 0x816000018

/-- Whether ETH_UDP.PORT may hold a number (R493). -/
def udpPortOk (n : Nat) : Bool := decide (1024 ≤ n) && decide (n ≤ 65535) && n != 4791

/-- A write in the ETH_ window. -/
def State.ethWrite (s : State) (off : Nat) (v : Long) : Option State :=
  let p := s.port
  match off with
  | 0x00 => some (s.writeEthCtrl (cut32 v 0xFFFFFFFF))
  | 0x18 => some (if udpPortOk (bits v.toNat 15 0) then { s with port := { p with udpPort := cut32 v 0xFFFF } } else s.ignored regEthUdp none)
  | 0x20 => some { s with port := { p with pfc := cut32 v 0x77FF } }
  | 0x28 => some { s with port := { p with cc := cut32 v 0xFFFFF } }
  | 0x30 => some { s with port := { p with linkWait := cut32 v 0xFFFFFFFF } }
  | 0x40 => some { s with port := { p with fault := w1c p.fault (cut32 v 0xFFFFFFFF) } }
  | _ => (p.regRead off).map fun _ => s

/-- A write in the KPR_ window; KPR_FW_BASE and KPR_LOG_BASE take only the boot ROM's (R571). -/
def State.kprWrite (s : State) (off : Nat) (v : Long) : Option State :=
  let k := s.keeper
  match off with
  | 0x18 => some (goesOn s (execWdogCfgWrite (cut32 v 0xFFFFFFFF) s))
  | 0x20 => some (goesOn s (execWdogKick (cut32 v 0xFFFFFFFF) s))
  | 0x50 => some { s with keeper := { k with fault := w1c k.fault (cut32 v 0xFFFFFFFF) } }
  | _ =>
    match indexIn off 0x100 8 64 with
    | some w => some { s with keeper := { k with trace := tset k.trace w v } }
    | none => (s.kprRead off).map fun _ => s

/-- A write in the PGD_, CLK_ window: Power Guard's registers are only read (R562). -/
def State.clkWrite (s : State) (off : Nat) (v : Long) : Option State :=
  match off with
  | 0x8008 => some (s.writeDvfs v.toNat)
  | _ => (s.power.regRead off).map fun _ => s

/-- A write in the PRP_ window. -/
def State.prpWrite (s : State) (off : Nat) (v : Long) : Option State :=
  match off with
  | 0x08 => some (s.setLocks (v.toNat % 8))
  | 0x88 => some { s with propolis := { s.propolis with fault := w1c s.propolis.fault (cut32 v 0xFFFFFFFF) } }
  | _ => (s.prpRead off).map fun _ => s

/-- A write in the LDG_ window. -/
def State.ldgWrite (s : State) (off : Nat) (v : Long) : Option State :=
  match off with
  | 0x28 => some { s with ledger := { s.ledger with fault := w1c s.ledger.fault (cut32 v 0xFFFFFFFF) } }
  | _ => (s.ledger.regRead off).map fun _ => s

/-- A write in the GRD_, CAP_ window. -/
def State.grdWrite (s : State) (off : Nat) (v : Long) : Option State :=
  let g := s.guard
  match off with
  | 0x0028 => some { s with guard := { g with fault := w1c g.fault (cut32 v 0xFFFFFFFF) } }
  | 0x8020 => some { s with guard := { g with capFault := w1c g.capFault (cut32 v 0xFFFFFFFF) } }
  | _ =>
    match indexIn off 0x1000 8 512 with
    | some n => some (s.setCreg n { s.creg n with guardCfg := cut32 v 3 })
    | none => (s.grdRead off).map fun _ => s

/-- What a write of a device address in register space does; none where no register lies. A register of access RO takes no write. -/
def State.regWrite (s : State) (agent : Agent) (a : Nat) (v : Long) : Option State :=
  match s.windowOf a with
  | some (w, off) => if off < 0x8000 then s.coreWrite w off v else s.veuWrite w off v
  | none =>
    let off := a % 0x1000000
    match a / 0x1000000 with
    | 0x802 => (combScalarOf a).map fun n => { s with combScalars := tset s.combScalars n v }
    | 0x810 => s.brdWrite agent off v
    | 0x811 => s.necWrite off v
    | 0x812 => s.memWriteReg off v
    | 0x813 => s.wstWrite off v
    | 0x814 => s.trnWrite off v
    | 0x815 => s.dlWrite off v
    | 0x816 => s.ethWrite off v
    | 0x817 => s.kprWrite off v
    | 0x818 => s.clkWrite off v
    | 0x819 => s.prpWrite off v
    | 0x81A => s.ldgWrite off v
    | 0x81B => s.grdWrite off v
    | _ => none

/-! ### Who may access what (R20, R166, R211, R589) -/

/-- Whether an agent reaches a device address outside memory: the Keeper every one, the debug path every one at D2, and a comb
controller the windows of the logical cores and of the combs. -/
def State.reaches (s : State) (agent : Agent) (a : Nat) : Bool :=
  !isMemory a && decide (a < 2 ^ 48) && match agent with
  | .keeper => true
  | .debugPath => s.propolis.level == 2
  | .comb => decide (0x800000000 ≤ a) && decide (a < 0x802200000)

/-- The unit of REG_IGNORED for an access: the logical core of its window (Table 16.4). -/
def State.accessUnit (s : State) (a : Nat) : Option Nat := (s.windowOf a).bind fun w => windowUnit w.1

/-- REGISTER_WRITE: a register takes the write by its access code; a write where none lies has no effect and is counted (R19), and so is one
of a Brood entry by an agent that does not reach it (R296). -/
def execRegisterWrite (agent : Agent) (addr : Nat) (v : Long) (s : State) : Host.Outcome State Fault Refusal :=
  .next (if !s.reaches agent addr then if decide (regBrdSlot 0 ≤ addr) && decide (addr < regBrdSlot 16384) then s.ignored addr none else s
  else match s.regWrite agent addr v with
    | some t => t
    | none => s.ignored addr (s.accessUnit addr))

/-- RESERVED_ADDRESS_READ: a read where no register lies gives 0 and is counted (R19). -/
def execReservedAddressRead (agent : Agent) (addr : Nat) (s : State) : Host.Outcome State Fault Refusal :=
  .next (if s.reaches agent addr && (s.regRead addr).isNone then s.ignored addr (s.accessUnit addr) else s)

/-! ### The test access port (R552, R589, R597, R621) -/

/-- The instruction that acts where a JTAG instruction arrives: below D2 everything but Table 15.10's set J0 acts as BYPASS. -/
def State.jtagActs (s : State) (op : JtagOp) : JtagOp :=
  match op with
  | .bypass => op
  | .idcode => op
  | .samplePreload => op
  | _ => if s.propolis.level = 2 then op else .bypass

/-! ### Version and adapter tables (R382, R408) -/

/-- The code of a version's state (Table 10.1). -/
def VersionState.code : VersionState → Nat
  | .free => 0
  | .loading => 1
  | .current => 2
  | .retained => 3

/-- A base version's record (Table 10.2). -/
def State.versionBytes (s : State) (c : Nat) (v : Version) : List Byte :=
  leBytes 2 v.tag ++ leBytes 1 v.state.code ++ leBytes 1 (b2n v.shelved + 2 * b2n v.shared + 4 * b2n v.damaged + 8 * b2n v.fromPack) ++
    leBytes 1 v.package ++ zeros 3 ++ leBytes 4 (s.binds c .base v.tag) ++ leBytes 2 (s.readers c .base v.tag) ++ zeros 2 ++
    leBytes 8 v.source ++ leBytes 8 (Config.scaleTableAt c 4096 v.tag) ++ leBytes 8 v.dispSram ++ leBytes 8 v.dispLp ++
    leBytes 4 v.switchStamp.toNat ++ zeros 12

/-- The version table of context `c`: its records, then its packages' current-version pointers. -/
def State.versionTable (s : State) (c : Nat) : List Byte :=
  let vs := s.versions c .base
  ((List.range 16).flatMap fun i => match vs.find? fun v => v.record == i with
    | some v => s.versionBytes c v
    | none => zeros 64) ++
    (List.range 256).flatMap fun k => leBytes 2 (((s.currentOf c .base k).map Version.tag).getD 0)

/-- An adapter version's record (Table 10.8). -/
def State.adapterVersionBytes (s : State) (c i : Nat) (v : Version) : List Byte :=
  leBytes 2 v.tag ++ leBytes 1 v.state.code ++ leBytes 1 (b2n v.shelved + 2 * b2n v.damaged) ++
    leBytes 4 (s.binds c (.adapter i) v.tag) ++ leBytes 4 (s.readers c (.adapter i) v.tag) ++ zeros 4 ++ leBytes 8 v.source ++
    leBytes 8 v.dispSram ++ leBytes 8 v.dispLp ++ leBytes 8 (Config.scaleTableAt c i v.tag)

/-- Adapter entry `i` (Table 10.8). -/
def State.adapterEntry (s : State) (i : Nat) : List Byte :=
  match tget s.adapters i with
  | none => zeros 256
  | some x => leBytes 2 (x.ctx + 0x8000) ++ leBytes 2 (((s.currentOf x.ctx (.adapter i) 0).map Version.tag).getD 0) ++
      leBytes 2 x.lastTag ++ leBytes 2 x.rank ++ leBytes 8 x.basePack ++ zeros 16 ++
      ((List.range 4).flatMap fun k => match x.versions.find? fun v => v.record == k with
        | some v => s.adapterVersionBytes x.ctx i v
        | none => zeros 48) ++ zeros 32

/-- A byte of device memory as the debug path reads it: of the version tables at TRN_VT_BASE or the adapter entries at TRN_AT_BASE where it
lies in one, else as `State.deviceByte` has it. -/
def State.debugByte (s : State) (a : Nat) : Byte :=
  let vt := s.turns.vtBase.toNat
  let at' := s.turns.atBase.toNat
  if vt != 0 && decide (vt ≤ a) && decide (a < vt + 0x100000) then ((s.versionTable ((a - vt) / 0x800))[(a - vt) % 0x800]?).getD 0
  else if at' != 0 && decide (at' ≤ a) && decide (a < at' + 0x100000) then ((s.adapterEntry ((a - at') / 256))[(a - at') % 256]?).getD 0
  else s.deviceByte a

/-- A debug-path read: register space, and at D2 in P0 and P1 device memory; a reserved address gives 0 and is counted. -/
def State.debugRead (s : State) (a : Nat) : Nat × State :=
  if isMemory a then (if s.keeper.powerState = 2 then 0 else leNat ((List.range 8).map fun k => s.debugByte (a + k)), s)
  else match s.regRead a with
    | some v => (v % 2 ^ 64, s)
    | none => (0, s.ignored a (s.accessUnit a))

/-- A debug-path write. -/
def State.debugWrite (s : State) (a : Nat) (v : Long) : State :=
  if isMemory a then if s.keeper.powerState = 2 then s else s.write a (leBytes 8 v.toNat)
  else match s.regWrite .debugPath a v with
    | some t => t
    | none => s.ignored a (s.accessUnit a)

/-- The effect of an acting instruction. -/
def State.jtagRun (s : State) (op : JtagOp) : State :=
  match op with
  | .keeperHalt =>
    if s.keeper.mode = .running then { s with keeper := { s.keeper with mode := .halted, wdogArmed := none } } else s
  | .keeperRelease =>
    if s.keeper.mode = .halted then { s with keeper := { s.keeper with mode := .running, wdogArmed := some s.now, kicks := 0 } } else s
  | .read a =>
    let r := s.debugRead a
    { r.2 with pins := { r.2.pins with jtagOut := some (BitVec.ofNat 64 r.1) } }
  | .write a v => s.debugWrite a v
  | _ => s

/-- The value that a JTAG instruction selects for TDO where it is one of identification or of a refused read. -/
def jtagValue (asked acts : JtagOp) : Option Long :=
  match asked, acts with
  | .read _, .bypass => some 0
  | _, .idcode => some (Config.idcode.setWidth 64)
  | _, _ => none

/-- JTAG_INSTRUCTION: an instruction arrives at the port, which is held in Test-Logic-Reset while the main domain is unpowered or in
reset (R621). -/
def execJtagInstruction (op : JtagOp) (s : State) : Host.Outcome State Fault Refusal :=
  .next (if !s.clocked then s
  else
    let acts := s.jtagActs op
    State.jtagRun { s with pins := { s.pins with jtag := acts, jtagOut := jtagValue op acts } } acts)

end Sys2Proof.Machine
end

