-- ==== Sys2Proof/Machine/Responses.lean ====
section
/-! DEFINITION. The responses to outbound RDMA READs (R453, R478, R480, R490, R535, R539) and a connection's ERROR (R454, R291). -/

namespace Sys2Proof.Machine

/-! ### Responses -/

/-- The bytes of a response: none where the read failed. -/
def dataBytes : ReadData → Option (List Byte)
  | .bytes b => some b
  | .package _ => none
  | .image _ => none
  | .failed => none

/-- Whether a response is a plain run of bytes or a failure. -/
def dataPlain : ReadData → Bool
  | .bytes _ => true
  | .failed => true
  | .package _ => false
  | .image _ => false

/-- Go on with a message whose window has been read (R478), by its command; only PACKAGE_LOAD, FW_LOAD and DEBUG_UNLOCK read more than
plain bytes. -/
def State.windowRead (s : State) (t : Ticket) (m : List Byte) (d : ReadData) : State :=
  match msgCommand m, dataBytes d with
  | 0x0014, _ => s.packageWindow t m d
  | 0x0060, _ => s.takeFirmware t d
  | 0x0066, _ => s.tokenWindow t d
  | 0x0048, b => s.supplyWindow t m b
  | 0x0001, some b => s.attestWith t m b
  | 0x0030, some b => s.packWindow t (field m 56 8) b
  | _, _ => s.finish t stLinkDown 0 0

/-- The window of the message that waits on mailbox `mb` has been read, or could not be. -/
def State.windowDone (s : State) (mb : Nat) (d : ReadData) : State :=
  match s.endReading mb with
  | none => s
  | some (m, s1) => (s1.windowRead (ticketOf mb m) m d).settle mb

/-- A HELD slot's consumer word has been read, or could not be (R290). -/
def State.consumerDone (s : State) (i : Nat) (d : ReadData) : State :=
  if !(s.slot i).polling then s
  else match dataBytes d with
    | some b => s.takeConsumer i (field b 0 4)
    | none => s.setSlot i { s.slot i with polling := false }

/-- The boot ROM's image has been read over connection `n`, or could not be: the connection is destroyed (R539). -/
def State.bootImageDone (s : State) (n mb : Nat) (d : ReadData) : State :=
  ({ s with port := { s.port with qps := terase s.port.qps n } } : State).windowDone mb d

/-- What a response to a read on connection `n` does. -/
def State.readDone (s : State) (n : Nat) (d : ReadData) : ReadPurpose → State
  | .consumer i => s.consumerDone i d
  | .prompt mb => s.takePrompt mb (dataBytes d)
  | .window mb => s.windowDone mb d
  | .firmware mb => s.bootImageDone n mb d
  | .image => s.takeImage d
  | .abandoned => s

/-- Whether a response can be one to a read of some purpose on this state: a package answers only PACKAGE_LOAD, an image only a
restore. -/
def State.answers (s : State) (d : ReadData) : ReadPurpose → Bool
  | .image => true
  | .window mb => dataPlain d || s.readings.any fun r => r.mb == mb && msgCommand r.message == 0x0014
  | .abandoned => true
  | .consumer _ => dataPlain d
  | .prompt _ => dataPlain d
  | .firmware _ => dataPlain d

/-- RDMA_READ_RESPONSE: the response to the oldest outstanding read of a connection arrives (R453). -/
def execRdmaReadResponse (qpn : Nat) (d : ReadData) (s : State) : Host.Outcome State Fault Refusal :=
  .next (match s.takeRead qpn with
  | some (why, s1) => if s.answers d why then s1.readDone qpn d why else s
  | none => s)

/-! ### ERROR (R454) -/

/-- The completion that an outbound write carries to a ring, where it writes one. -/
def Binding.carried (q : Binding) : OutOp → Option Completion
  | .write addr rkey data =>
    if rkey == q.cqRkey && decide (q.cqAddr ≤ addr) && decide (addr < q.cqAddr + 64 * q.entries) && data.length == 64
    then some (Completion.ofBytes data) else none
  | .read _ _ _ _ => none

/-- Records written over a connection that has failed, and not acknowledged, wait again: no completion is dropped (R467). -/
def State.keepRecords (s : State) (n : Nat) (ops : List OutOp) : State :=
  { s with mailboxes := s.mailboxes.map fun e =>
    match e.2.binding with
    | some q => if q.qpn = n then (e.1, { e.2 with pend := ops.filterMap q.carried ++ e.2.pend }) else e
    | none => e }

/-- The registrations through a connection. -/
def State.regsThrough (s : State) (n : Nat) : Nat := ((s.regs.flatMap Prod.snd).filter fun r => r.2.qpn == n).length

/-- Whether slot `i` mirrors over a connection. -/
def State.mirrorsOver (s : State) (n i : Nat) : Bool :=
  let e := s.slot i
  e.mirror && !e.ringOff && e.state != .free && e.state != .closing &&
    (s.registration (e.ctx + 1) e.mirrorReg).any fun r => r.qpn == n

/-- A sequence whose mirror's connection has failed writes no further ring records and ends: at its commit, or at once where it is in
no running step (R291). -/
def State.stopMirror (s : State) (i : Nat) : State :=
  let s1 := s.setSlot i { s.slot i with ringOff := true, polling := false }
  if s.inStep i then s1 else s1.endSlot i stLinkDown

/-- A capture or restore whose window lies over a connection that has failed ends (R531, R533). -/
def State.stopCapture (s : State) (n : Nat) : State :=
  match s.guard.cap with
  | none => s
  | some c =>
    if c.state == .capturing && !c.toPeer && (s.registration 0 c.reg).any fun r => r.qpn == n then s.endCapture c stLinkDown else s

/-- The purposes of the reads that a connection has posted or queued. -/
def Qp.reasons (q : Qp) : List ReadPurpose := (q.unacked.map Unacked.op ++ q.queued).filterMap OutOp.why

/-- A connection in ERROR: what it had outstanding is lost. -/
def Qp.failed (q : Qp) : Qp := { q with error := true, unacked := [], queued := [] }

/-- A connection enters ERROR: every item whose data path uses it ends, and the event is posted (R454). -/
def State.qpFails (s : State) (n : Nat) (q : Qp) : State :=
  let ops := q.unacked.map Unacked.op ++ q.queued
  let s1 := (s.setQp n q.failed).keepRecords n ops
  let s2 : State := { s1 with port := { s1.port with fault := setBit32 s1.port.fault 2 } }
  let v := s2.regsThrough n
  let s3 := s2.eventAdmin 0x0003 n v
  let s4 := if 16 ≤ q.mb then s3.eventCtx (q.mb - 16) 0x0003 n v else s3
  let s5 := ((s4.slots.map Prod.fst).filter (s4.mirrorsOver n)).foldl State.stopMirror s4
  let s6 := q.reasons.foldl (fun (t : State) w => t.readDone n .failed w) (s5.stopCapture n)
  s6.settleIdle.settleReleases

/-- QP_ERROR: the retries of a connection are exhausted, or it receives a remote access error (R454). -/
def execQpError (qpn : Nat) (cause : QpErrorCause) (s : State) : Host.Outcome State Fault Refusal :=
  .next (match s.qp qpn with
  | none => s
  | some q =>
    let happens := match cause with
      | .retriesExhausted => q.ackDue s.now && decide (q.retry ≤ q.tries)
      | .remoteAccess => !q.unacked.isEmpty
    if q.error || !happens then s else s.qpFails qpn q)

end Sys2Proof.Machine
end

