-- ==== Sys2Proof/Machine/Dispatch.lean ====
section
/-! DEFINITION. The one dispatch: each command of the table to its meaning. -/

namespace Sys2Proof.Machine

def exec (i : Instr) (s : State) : Host.Outcome State Fault Refusal :=
  match i with
  | .identify mb => Sys2Proof.Machine.execIdentify mb s
  | .netConfig mb => Sys2Proof.Machine.execNetConfig mb s
  | .qpCreate mb => Sys2Proof.Machine.execQpCreate mb s
  | .qpDestroy mb => Sys2Proof.Machine.execQpDestroy mb s
  | .mboxBind mb => Sys2Proof.Machine.execMboxBind mb s
  | .memRegister mb => Sys2Proof.Machine.execMemRegister mb s
  | .memDeregister mb => Sys2Proof.Machine.execMemDeregister mb s
  | .lock mb => Sys2Proof.Machine.execLock mb s
  | .ctxCreate mb => Sys2Proof.Machine.execCtxCreate mb s
  | .ctxRelease mb => Sys2Proof.Machine.execCtxRelease mb s
  | .ctxSet mb => Sys2Proof.Machine.execCtxSet mb s
  | .shareMode mb => Sys2Proof.Machine.execShareMode mb s
  | .packageLoad mb => Sys2Proof.Machine.execPackageLoad mb s
  | .packageUnload mb => Sys2Proof.Machine.execPackageUnload mb s
  | .groupForm mb => Sys2Proof.Machine.execGroupForm mb s
  | .queenMove mb => Sys2Proof.Machine.execQueenMove mb s
  | .groupDissolve mb => Sys2Proof.Machine.execGroupDissolve mb s
  | .packWrite mb => Sys2Proof.Machine.execPackWrite mb s
  | .packDelete mb => Sys2Proof.Machine.execPackDelete mb s
  | .packQuery mb => Sys2Proof.Machine.execPackQuery mb s
  | .load mb => Sys2Proof.Machine.execLoad mb s
  | .turnLearn mb => Sys2Proof.Machine.execTurnLearn mb s
  | .turnGen mb => Sys2Proof.Machine.execTurnGen mb s
  | .switchMode mb => Sys2Proof.Machine.execSwitchMode mb s
  | .versionRetire mb => Sys2Proof.Machine.execVersionRetire mb s
  | .versionGrant mb => Sys2Proof.Machine.execVersionGrant mb s
  | .versionRevoke mb => Sys2Proof.Machine.execVersionRevoke mb s
  | .adapterRelease mb => Sys2Proof.Machine.execAdapterRelease mb s
  | .shardSupply mb => Sys2Proof.Machine.execShardSupply mb s
  | .learnStep mb => Sys2Proof.Machine.execLearnStep mb s
  | .cancel mb => Sys2Proof.Machine.execCancel mb s
  | .guardSet mb => Sys2Proof.Machine.execGuardSet mb s
  | .capTake mb => Sys2Proof.Machine.execCapTake mb s
  | .capRestore mb => Sys2Proof.Machine.execCapRestore mb s
  | .fwLoad mb => Sys2Proof.Machine.execFwLoad mb s
  | .fwActivate mb => Sys2Proof.Machine.execFwActivate mb s
  | .powerSet mb => Sys2Proof.Machine.execPowerSet mb s
  | .logRead mb => Sys2Proof.Machine.execLogRead mb s
  | .traceSet mb => Sys2Proof.Machine.execTraceSet mb s
  | .ledgerRead mb => Sys2Proof.Machine.execLedgerRead mb s
  | .debugUnlock mb => Sys2Proof.Machine.execDebugUnlock mb s
  | .admission mb => Sys2Proof.Machine.execAdmission mb s
  | .handleRegister mb => Sys2Proof.Machine.execHandleRegister mb s
  | .handleRelease mb => Sys2Proof.Machine.execHandleRelease mb s
  | .setReward mb => Sys2Proof.Machine.execSetReward mb s
  | .superRelease mb => Sys2Proof.Machine.execSuperRelease mb s
  | .slotQuery mb => Sys2Proof.Machine.execSlotQuery mb s
  | .doorbell h body => Sys2Proof.Machine.execDoorbell h body s
  | .udpSubmit src sumOk datagram => Sys2Proof.Machine.execUdpSubmit src sumOk datagram s
  | .udpPoll src sumOk datagram => Sys2Proof.Machine.execUdpPoll src sumOk datagram s
  | .rdmaWriteInbound h addr rkey data => Sys2Proof.Machine.execRdmaWriteInbound h addr rkey data s
  | .rdmaReadInbound h addr rkey len => Sys2Proof.Machine.execRdmaReadInbound h addr rkey len s
  | .ceMarkedPacket h => Sys2Proof.Machine.execCeMarkedPacket h s
  | .cnpReceived h => Sys2Proof.Machine.execCnpReceived h s
  | .rateRecoverExpiry qpn => Sys2Proof.Machine.execRateRecoverExpiry qpn s
  | .roceAckTimeout qpn => Sys2Proof.Machine.execRoceAckTimeout qpn s
  | .qpError qpn cause => Sys2Proof.Machine.execQpError qpn cause s
  | .ethLinkWaitExpiry => Sys2Proof.Machine.execEthLinkWaitExpiry s
  | .ethLinkUp lanes => Sys2Proof.Machine.execEthLinkUp lanes s
  | .ethLinkDown => Sys2Proof.Machine.execEthLinkDown s
  | .ethCtrlWrite v => Sys2Proof.Machine.execEthCtrlWrite v s
  | .promptReadComplete qpn data => Sys2Proof.Machine.execPromptReadComplete qpn data s
  | .coreStart w => Sys2Proof.Machine.execCoreStart w s
  | .coreAbort w => Sys2Proof.Machine.execCoreAbort w s
  | .frameStoreFill w => Sys2Proof.Machine.execFrameStoreFill w s
  | .frameStoreFillDone p => Sys2Proof.Machine.execFrameStoreFillDone p s
  | .coreTokenWrite w n v => Sys2Proof.Machine.execCoreTokenWrite w n v s
  | .veuFill w => Sys2Proof.Machine.execVeuFill w s
  | .veuFillDone p => Sys2Proof.Machine.execVeuFillDone p s
  | .memInval v => Sys2Proof.Machine.execMemInval v s
  | .memInvalDone => Sys2Proof.Machine.execMemInvalDone s
  | .memZero v => Sys2Proof.Machine.execMemZero v s
  | .memZeroDone => Sys2Proof.Machine.execMemZeroDone s
  | .trnModeWrite v => Sys2Proof.Machine.execTrnModeWrite v s
  | .dlFence => Sys2Proof.Machine.execDlFence s
  | .dlEnable => Sys2Proof.Machine.execDlEnable s
  | .wdogKick v => Sys2Proof.Machine.execWdogKick v s
  | .wdogCfgWrite v => Sys2Proof.Machine.execWdogCfgWrite v s
  | .prpLockWrite v => Sys2Proof.Machine.execPrpLockWrite v s
  | .brdSlotWrite agent slot entry => Sys2Proof.Machine.execBrdSlotWrite agent slot entry s
  | .clkDvfsWrite v => Sys2Proof.Machine.execClkDvfsWrite v s
  | .registerWrite agent addr v => Sys2Proof.Machine.execRegisterWrite agent addr v s
  | .reservedAddressRead agent addr => Sys2Proof.Machine.execReservedAddressRead agent addr s
  | .frameDispatch p => Sys2Proof.Machine.execFrameDispatch p s
  | .loadTile p m => Sys2Proof.Machine.execLoadTile p m s
  | .loadGather p m => Sys2Proof.Machine.execLoadGather p m s
  | .loadLinear p m => Sys2Proof.Machine.execLoadLinear p m s
  | .storeTile p => Sys2Proof.Machine.execStoreTile p s
  | .storeScatter p m => Sys2Proof.Machine.execStoreScatter p m s
  | .storeScatterAdd p m => Sys2Proof.Machine.execStoreScatterAdd p m s
  | .storeLinear p => Sys2Proof.Machine.execStoreLinear p s
  | .copy p m => Sys2Proof.Machine.execCopy p m s
  | .linkCopy p m => Sys2Proof.Machine.execLinkCopy p m s
  | .mma p e => Sys2Proof.Machine.execMma p e s
  | .fin p e => Sys2Proof.Machine.execFin p e s
  | .chain p => Sys2Proof.Machine.execChain p s
  | .frameComplete p e => Sys2Proof.Machine.execFrameComplete p e s
  | .waitTimeout p e => Sys2Proof.Machine.execWaitTimeout p e s
  | .stepCoresDone ctx => Sys2Proof.Machine.execStepCoresDone ctx s
  | .cfgMismatch addr => Sys2Proof.Machine.execCfgMismatch addr s
  | .cfgLost addr => Sys2Proof.Machine.execCfgLost addr s
  | .wpWriteHeld w ctx addr data => Sys2Proof.Machine.execWpWriteHeld w ctx addr data s
  | .capFirstTouchCopyDone ctx addr o => Sys2Proof.Machine.execCapFirstTouchCopyDone ctx addr o s
  | .capGranuleCopyDone o => Sys2Proof.Machine.execCapGranuleCopyDone o s
  | .scrubRead lp n m raced => Sys2Proof.Machine.execScrubRead lp n m raced s
  | .patrolRead extent o => Sys2Proof.Machine.execPatrolRead extent o s
  | .relocationDone extent => Sys2Proof.Machine.execRelocationDone extent s
  | .shareWindowEnd => Sys2Proof.Machine.execShareWindowEnd s
  | .buildWorkList mask => Sys2Proof.Machine.execBuildWorkList mask s
  | .stepStart ctx => Sys2Proof.Machine.execStepStart ctx s
  | .sampleRow sampler slot row => Sys2Proof.Machine.execSampleRow sampler slot row s
  | .stepCommit ctx => Sys2Proof.Machine.execStepCommit ctx s
  | .stepBoundary ctx => Sys2Proof.Machine.execStepBoundary ctx s
  | .consumerPoll slot => Sys2Proof.Machine.execConsumerPoll slot s
  | .stepStartMessage epoch stamp ctx order => Sys2Proof.Machine.execStepStartMessage epoch stamp ctx order s
  | .stepEnd pos epoch stamp r => Sys2Proof.Machine.execStepEnd pos epoch stamp r s
  | .clipFactor ctx gSumsq => Sys2Proof.Machine.execClipFactor ctx gSumsq s
  | .staged pos epoch ctx step r => Sys2Proof.Machine.execStaged pos epoch ctx step r s
  | .replay epoch ctx micro run => Sys2Proof.Machine.execReplay epoch ctx micro run s
  | .replayResult pos epoch ctx micro run faulted fp flags => Sys2Proof.Machine.execReplayResult pos epoch ctx micro run faulted fp flags s
  | .commit epoch ctx step base => Sys2Proof.Machine.execCommit epoch ctx step base s
  | .rollback epoch ctx step base => Sys2Proof.Machine.execRollback epoch ctx step base s
  | .ack pos epoch ctx step => Sys2Proof.Machine.execAck pos epoch ctx step s
  | .generationGuardDecision ctx => Sys2Proof.Machine.execGenerationGuardDecision ctx s
  | .coreSelfTest p => Sys2Proof.Machine.execCoreSelfTest p s
  | .coreSelfTestDone p pass => Sys2Proof.Machine.execCoreSelfTestDone p pass s
  | .turnMemberReady pos => Sys2Proof.Machine.execTurnMemberReady pos s
  | .turnShardsPresent => Sys2Proof.Machine.execTurnShardsPresent s
  | .shardEnd packId shard d => Sys2Proof.Machine.execShardEnd packId shard d s
  | .hostWaitExpiry request => Sys2Proof.Machine.execHostWaitExpiry request s
  | .loadEnd packId => Sys2Proof.Machine.execLoadEnd packId s
  | .capturePoint => Sys2Proof.Machine.execCapturePoint s
  | .captureEnd pos => Sys2Proof.Machine.execCaptureEnd pos s
  | .restoreEnd pos => Sys2Proof.Machine.execRestoreEnd pos s
  | .data link packet => Sys2Proof.Machine.execData link packet s
  | .signal link packet => Sys2Proof.Machine.execSignal link packet s
  | .control link packet kind => Sys2Proof.Machine.execControl link packet kind s
  | .done link packet => Sys2Proof.Machine.execDone link packet s
  | .stale link packet => Sys2Proof.Machine.execStale link packet s
  | .hello link packet => Sys2Proof.Machine.execHello link packet s
  | .lack link packet => Sys2Proof.Machine.execLack link packet s
  | .ready pos epoch => Sys2Proof.Machine.execReady pos epoch s
  | .active epoch => Sys2Proof.Machine.execActive epoch s
  | .formWaitExpiry => Sys2Proof.Machine.execFormWaitExpiry s
  | .heartbeat pos => Sys2Proof.Machine.execHeartbeat pos s
  | .heartbeatLoss pos => Sys2Proof.Machine.execHeartbeatLoss pos s
  | .linkDown link cause => Sys2Proof.Machine.execLinkDown link cause s
  | .modResetNRelease => Sys2Proof.Machine.execModResetNRelease s
  | .pllLock => Sys2Proof.Machine.execPllLock s
  | .propolisSelfCheck pass => Sys2Proof.Machine.execPropolisSelfCheck pass s
  | .builtInSelfTest r => Sys2Proof.Machine.execBuiltInSelfTest r s
  | .lpddr5xTraining fail9600 fail8533 => Sys2Proof.Machine.execLpddr5xTraining fail9600 fail8533 s
  | .directoryRead => Sys2Proof.Machine.execDirectoryRead s
  | .firmwareEntry => Sys2Proof.Machine.execFirmwareEntry s
  | .watchdogExpiry core => Sys2Proof.Machine.execWatchdogExpiry core s
  | .keeperCoreException core => Sys2Proof.Machine.execKeeperCoreException core s
  | .keeperSramUncorrectable core => Sys2Proof.Machine.execKeeperSramUncorrectable core s
  | .keeperRestart => Sys2Proof.Machine.execKeeperRestart s
  | .keeperResume => Sys2Proof.Machine.execKeeperResume s
  | .pgdWindowEnd r => Sys2Proof.Machine.execPgdWindowEnd r s
  | .railCurrentClamp rail amps => Sys2Proof.Machine.execRailCurrentClamp rail amps s
  | .thermalStop sensor => Sys2Proof.Machine.execThermalStop sensor s
  | .railVoltageStop rail => Sys2Proof.Machine.execRailVoltageStop rail s
  | .emergencyClose => Sys2Proof.Machine.execEmergencyClose s
  | .vcoreReached mv => Sys2Proof.Machine.execVcoreReached mv s
  | .dvfsRaiseTimeout => Sys2Proof.Machine.execDvfsRaiseTimeout s
  | .selfRefreshIdle => Sys2Proof.Machine.execSelfRefreshIdle s
  | .vauxApplied => Sys2Proof.Machine.execVauxApplied s
  | .pwrGoodRise => Sys2Proof.Machine.execPwrGoodRise s
  | .railsInRegulation => Sys2Proof.Machine.execRailsInRegulation s
  | .powerLoss cause => Sys2Proof.Machine.execPowerLoss cause s
  | .modResetNAssert lowNs => Sys2Proof.Machine.execModResetNAssert lowNs s
  | .refclkLoss => Sys2Proof.Machine.execRefclkLoss s
  | .mctpControl request => Sys2Proof.Machine.execMctpControl request s
  | .pldmRequest request => Sys2Proof.Machine.execPldmRequest request s
  | .mgmtLedgerRead request => Sys2Proof.Machine.execMgmtLedgerRead request s
  | .occurrence code value unit => Sys2Proof.Machine.execOccurrence code value unit s
  | .summaryWindowEnd => Sys2Proof.Machine.execSummaryWindowEnd s
  | .operatingSecond => Sys2Proof.Machine.execOperatingSecond s
  | .operatingMinuteSave => Sys2Proof.Machine.execOperatingMinuteSave s
  | .wipeComplete => Sys2Proof.Machine.execWipeComplete s
  | .deviceLinkTrained link => Sys2Proof.Machine.execDeviceLinkTrained link s
  | .packWriteComplete packId => Sys2Proof.Machine.execPackWriteComplete packId s
  | .heartbeatSend => Sys2Proof.Machine.execHeartbeatSend s
  | .refclkReturn => Sys2Proof.Machine.execRefclkReturn s
  | .railClampRelease rail amps => Sys2Proof.Machine.execRailClampRelease rail amps s
  | .pfcPauseFrame enable quanta => Sys2Proof.Machine.execPfcPauseFrame enable quanta s
  | .arpRequest target sender senderMac => Sys2Proof.Machine.execArpRequest target sender senderMac s
  | .neighborSolicitation target sender => Sys2Proof.Machine.execNeighborSolicitation target sender s
  | .echoRequest dest source v6 payload => Sys2Proof.Machine.execEchoRequest dest source v6 payload s
  | .roceAckReceived qpn psn nak => Sys2Proof.Machine.execRoceAckReceived qpn psn nak s
  | .rdmaReadResponse qpn d => Sys2Proof.Machine.execRdmaReadResponse qpn d s
  | .jtagInstruction op => Sys2Proof.Machine.execJtagInstruction op s

end Sys2Proof.Machine
end

