-- ==== Sys2Proof/Machine/Log.lean ====
section
/-! DEFINITION. The firmware log (R554 to R558) and one timebase tick, the step of an empty queue: time advances, the counts of running
cores with it, the Ledger controller empties its intake, and the firmware may log. Everything else that time brings about is a
command of the table. -/

namespace Sys2Proof.Machine

/-! ### The firmware log (R554 to R556, R558) -/

/-- A log record (Table 14.4). -/
def logRecord (tick code kind core level ctx arg0 arg1 : Nat) : List Byte :=
  leBytes 8 tick ++ leBytes 2 (code % 4096 + 4096 * kind) ++ leBytes 1 (core % 4) ++ leBytes 1 (level % 3) ++
    leBytes 4 (ctx % 512 + 2 ^ 31 * (ctx / 512 % 2)) ++ leBytes 8 arg0 ++ leBytes 8 arg1

/-- A record whose fields beside TICK, CODE and KIND the firmware chooses: free values (assumption 17). -/
def State.freeRecord (s : State) (code kind : Nat) : List Byte :=
  logRecord s.now code kind (Config.freeValue (s.free + 2)) (Config.freeValue (s.free + 3)) (Config.freeValue (s.free + 4))
    (Config.freeValue (s.free + 5)) (Config.freeValue (s.free + 6))

/-- Records that the 64 KiB staging buffer holds (R556). -/
def stagingRecords : Nat := 2048

/-- A record waits in the staging buffer, or is dropped and counted where that is full (R556). -/
def State.stageLog (s : State) (r : List Byte) : State :=
  let k := s.keeper
  { s with keeper :=
      if k.logStaging.length < stagingRecords then { k with logStaging := k.logStaging ++ [r] }
      else { k with logLost := k.logLost + 1, lostSince := k.lostSince + 1, fault := setBit32 k.fault 1 } }

/-- The oldest staged record goes to the ring (R554), and a KIND 2 record takes the room where records were lost (R556). -/
def State.flushLog (s : State) : State :=
  match s.keeper.logStaging with
  | [] => s
  | r :: rest =>
    let t := (s.write (s.keeper.logBase.toNat + s.keeper.logCount % logBytes) r).touchRegion
    let u : State := { t with keeper := { t.keeper with logStaging := rest, logCount := t.keeper.logCount + r.length } }
    if u.keeper.lostSince = 0 then u
    else State.stageLog { u with keeper := { u.keeper with lostSince := 0 } }
      (logRecord u.now (Config.freeValue (u.free + 8)) 2 (Config.freeValue (u.free + 9)) (Config.freeValue (u.free + 10))
        (Config.freeValue (u.free + 11)) (Config.freeValue (u.free + 12)) u.keeper.lostSince)

/-- Whether trace point `p` writes a record: it is enabled and below the image's POINTS (R558). -/
def State.traces (s : State) (p : Nat) : Bool :=
  bitAt (tgetD s.keeper.trace (p / 64) 0).toNat (p % 64) && s.keeper.active.any fun i => decide (p < i.points)

/-- The firmware's choice `n` at code `code`: 1 writes a message, 2 passes a trace point, anything else neither. -/
def State.logChoice (s : State) (n code : Nat) : State :=
  if n = 1 then s.stageLog (s.freeRecord code 0)
  else if n = 2 ∧ s.traces code = true then s.stageLog (s.freeRecord code 1)
  else s

/-- Flush a record or not. -/
def State.flushChoice (s : State) (n : Nat) : State := if n = 1 then s.flushLog else s

/-- What the running firmware may do with its log in one tick, by free choice (assumption 17): write a message, pass a trace point, flush
a record. -/
def State.firmwareLogs (s : State) : State :=
  let t := (s.logChoice (Config.freeValue s.free % 3) (Config.freeValue (s.free + 1) % 4096)).flushChoice (Config.freeValue (s.free + 7) % 2)
  { t with free := s.free + 13 }

/-! ### One tick -/

/-- One tick: CLK_TIMEBASE advances, busy counts and charges with it, a share window that ends there rolls (R38), the Ledger controller takes
what its intake holds (R603), and running firmware may log. -/
def tick (s : State) : State :=
  let s0 : State := { s with ledger := s.ledger.drain }
  if s.clocked then
    let s1 := State.rollShare { s0 with
      cores := s.countBusy
      ctxRegs := s.chargeUsage
      power := { s0.power with timebase := s0.power.timebase + 1 } }
    if s.keeper.mode = .running then s1.firmwareLogs else s1
  else s0

end Sys2Proof.Machine
end

