-- ==== Sys2Proof/Safety.lean ====
section
/-! DEFINITION. The words that statements about the machine are said in: the invariant of memory, a mailbox command that is taken, the
state it is carried out on, and its end. -/

namespace Sys2Proof.Machine

/-- The invariant of every step: memory holds its one canonical form. -/
def State.Inv (s : State) : Prop := memWf s.mem = true

/-- The message `m` at the head of mailbox `mb` is a command of code `code` that passes every common check of Table 12.7. -/
def State.takes (s : State) (mb code : Nat) (m : List Byte) : Prop :=
  ∃ r, s.headCommand mb code = some (m, r) ∧ s.commonCheck mb m r = none

/-- The state once a mailbox command ends in `u` with one COMMAND record: the record posted, then the messages behind it that no command
names settled. -/
def State.ended (u : State) (mb : Nat) (m : List Byte) (status v0 v1 : Nat) : State :=
  (u.finish (ticketOf mb m) status v0 v1).settle mb

/-- A whole packet has come on connection `q`, which exists and is not in ERROR. -/
def State.arrives (s : State) (h : Roce) (q : Qp) : Prop := h.intact = true ∧ s.qp h.qpn = some q ∧ q.error = false

/-- The head of engine queue `e` of core `p` is a frame of opcode `op` that can start. -/
def State.headStarts (s : State) (p e op : Nat) (q : QFrame) : Prop := s.head p e = some q ∧ frOp q.bytes = op

/-- The state once frame `q`, starting on `u`, has moved its data in `t`: its accesses at reserved addresses are counted, and it has left its
queue, its units taken, for the started frames. -/
def State.begun (u t : State) (p e : Nat) (q : QFrame) (x : Started) : State :=
  let v := t.countReserved (u.reservedAt p q)
  v.setCore p (((v.core p).popHead e q.bytes v.now).addStarted e x)

/-- A whole packet of type `ty`, the next in order on link `k`, has come to this module under the group's epoch. -/
def State.takesPacket (s : State) (k : Nat) (b : List Byte) (ty : Nat) : Prop :=
  (s.link k).up = true ∧ (s.link k).matched = true ∧ pkWhole b = true ∧ pkSeq b = (s.link k).expectSeq ∧ pkType b = ty ∧
    s.cascade.state ≠ .none ∧ pkDst b = s.position ∧ (ty ≤ 3 → pkEpoch b = s.cascade.epoch.toNat)

/-- The state once such a packet has been acknowledged; its credit stays held back where it finds the hold area full (R436). -/
def State.acknowledged (s : State) (k : Nat) (b : List Byte) (ty : Nat) : State :=
  (s.setLink k { s.link k with expectSeq := ((s.link k).expectSeq + 1) % 65536 }).sendLack k
    (if decide (ty ≤ 2) && s.holdsBack b then none else some (pkBuffer b, pkCredit b)) false

/-- Every mailbox command of Table 12.10 with its code. -/
def mailboxCommands : List ((Nat → Instr) × Nat) :=
  [(.identify, 0x0001), (.netConfig, 0x0002), (.qpCreate, 0x0003), (.qpDestroy, 0x0004), (.mboxBind, 0x0005), (.memRegister, 0x0006),
    (.memDeregister, 0x0007), (.lock, 0x0008), (.ctxCreate, 0x0010), (.ctxRelease, 0x0011), (.ctxSet, 0x0012), (.shareMode, 0x0013)] ++
  [(.packageLoad, 0x0014), (.packageUnload, 0x0015), (.groupForm, 0x0020), (.queenMove, 0x0021), (.groupDissolve, 0x0022),
    (.packWrite, 0x0030), (.packDelete, 0x0031), (.packQuery, 0x0032), (.load, 0x0040), (.turnLearn, 0x0041), (.turnGen, 0x0042)] ++
  [(.switchMode, 0x0043), (.versionRetire, 0x0044), (.versionGrant, 0x0045), (.versionRevoke, 0x0046), (.adapterRelease, 0x0047),
    (.shardSupply, 0x0048), (.learnStep, 0x0050), (.cancel, 0x0051), (.guardSet, 0x0052), (.capTake, 0x0053), (.capRestore, 0x0054)] ++
  [(.fwLoad, 0x0060), (.fwActivate, 0x0061), (.powerSet, 0x0062), (.logRead, 0x0063), (.traceSet, 0x0064), (.ledgerRead, 0x0065),
    (.debugUnlock, 0x0066), (.admission, 0x0101), (.handleRegister, 0x0102), (.handleRelease, 0x0103), (.setReward, 0x0104)] ++
  [(.superRelease, 0x0105), (.slotQuery, 0x0106)]

/-- Registers with the reset values of their register tables; of a register that stands many times, the first and the last. -/
def resetRegisters : List (Nat × Nat) :=
  -- CORE_ (Table 4.14)
  [(0x800000008, 0x0), (0x800000010, 0x0), (0x800000018, 0x0), (0x800000020, 0x0), (0x800000028, 0x0), (0x800000030, 0x989680),
    (0x800000048, 0x0), (0x8000000b8, 0x0), (0x800000100, 0x0), (0x80000017c, 0x0), (0x800000200, 0x0), (0x800000208, 0x0),
    (0x800000210, 0x0), (0x800000218, 0x0), (0x800000280, 0x0), (0x800000288, 0x0), (0x8000002c0, 0x0), (0x800000300, 0x0),
    (0x800000308, 0x0), (0x800000310, 0x0)] ++
  -- COMB_ (Table 5.6)
  [(0x802001000, 0x0), (0x8020011f8, 0x0)] ++
  -- VEU_ (Table 5.10)
  [(0x800008000, 0x0), (0x800008008, 0x0), (0x800008010, 0x0), (0x800008018, 0x0), (0x800008020, 0x0), (0x800008028, 0x0),
    (0x800008030, 0x0), (0x800008038, 0x0), (0x800008040, 0x0), (0x800008080, 0x0), (0x8000080c0, 0x0), (0x800008084, 0x0),
    (0x8000080a4, 0x0), (0x800008088, 0x0), (0x8000080a8, 0x0), (0x800008090, 0x0), (0x8000080b0, 0x0), (0x800008098, 0x0),
    (0x8000080b8, 0x0), (0x800008100, 0x0), (0x800008400, 0x0), (0x800008bc0, 0x0), (0x800008408, 0x0), (0x800008448, 0x0),
    (0x800008410, 0x0), (0x800008450, 0x0), (0x800008418, 0x0), (0x800008458, 0x0), (0x800008420, 0x0), (0x800008460, 0x0),
    (0x800008428, 0x0), (0x800008468, 0x0), (0x800008430, 0x0), (0x800008470, 0x0), (0x800008438, 0x0), (0x800008478, 0x0)] ++
  -- MEM_ (Table 6.10)
  [(0x812000000, 0x0), (0x812000008, 0x0), (0x812000010, 0x4000), (0x812000018, 0x0), (0x812000020, 0x1e0003c), (0x812000028, 0x0),
    (0x812000030, 0x0), (0x812000038, 0x0), (0x812000040, 0x0), (0x812000050, 0x0), (0x812000058, 0x0)] ++
  -- WST_ (Table 6.11)
  [(0x813000000, 0x0), (0x813000008, 0x9600420), (0x813000010, 0x0), (0x813000028, 0xa8)] ++
  -- BRD_ (Tables 7.9 and 8.11)
  [(0x810000000, 0x0), (0x810000008, 0x0), (0x810000010, 0x0), (0x810000018, 0x0), (0x810000020, 0x0), (0x810001000, 0x1),
    (0x810004fe0, 0x1), (0x810001008, 0xffffffff), (0x810001028, 0xffffffff), (0x810001010, 0x0), (0x810001030, 0x0),
    (0x810001018, 0x0), (0x810001038, 0x0), (0x810200000, 0x0), (0x8103fff80, 0x0), (0x8107f0000, 0x0), (0x8107f0008, 0x0),
    (0x810800000, 0x0), (0x810807fc0, 0x0), (0x810800008, 0x0), (0x810800048, 0x0), (0x810800010, 0x0), (0x810800050, 0x0),
    (0x810800018, 0x0), (0x810800058, 0x0), (0x810800020, 0x0), (0x810800060, 0x0), (0x810800028, 0x0), (0x810800068, 0x0),
    (0x810800030, 0x0), (0x810800070, 0x0), (0x810800038, 0x0), (0x810800078, 0x0)] ++
  -- NEC_ and SUP_ (Table 7.10)
  [(0x811000000, 0x3e8), (0x811000008, 0x0), (0x811001000, 0x0), (0x811004fe0, 0x0), (0x811001008, 0x0), (0x811001028, 0x0),
    (0x811001010, 0x0), (0x811001030, 0x0), (0x811001018, 0x0), (0x811001038, 0x0)] ++
  -- TRN_ (Table 10.12)
  [(0x814000000, 0x0), (0x814000008, 0x0), (0x814000010, 0x0), (0x814000018, 0x0), (0x814000020, 0x0), (0x814000028, 0x0),
    (0x814000030, 0x0), (0x814000038, 0x0), (0x814000040, 0x5f5e100), (0x814000048, 0x0)] ++
  -- DL_ (Table 11.9)
  [(0x815000000, 0x0), (0x815000008, 0x0), (0x815000010, 0x0), (0x815000018, 0x0), (0x815000020, 0x0), (0x815000028, 0xa03e8),
    (0x815000030, 0x5f5e100), (0x815000038, 0x0), (0x815000040, 0x0), (0x815000100, 0x0), (0x8150001c0, 0x0), (0x815000108, 0x0),
    (0x815000148, 0x0), (0x815000110, 0x0), (0x815000150, 0x0), (0x815000118, 0x0), (0x815000158, 0x0)] ++
  -- ETH_ (Table 12.17)
  [(0x816000000, 0x1), (0x816000008, 0x0), (0x816000018, 0x7c38), (0x816000020, 0x6308), (0x816000028, 0x63232),
    (0x816000030, 0x5f5e100), (0x816000038, 0x0), (0x816000040, 0x0), (0x816000048, 0x0), (0x816000050, 0x0)] ++
  -- GRD_ and CAP_ (Table 13.10)
  [(0x81b000000, 0x0), (0x81b000008, 0x0), (0x81b000010, 0x0), (0x81b000018, 0x0), (0x81b000020, 0x0), (0x81b000028, 0x0),
    (0x81b000100, 0x0), (0x81b000140, 0x0), (0x81b001000, 0x0), (0x81b001ff8, 0x0), (0x81b008000, 0x0), (0x81b008008, 0x0),
    (0x81b008010, 0x0), (0x81b008018, 0x0), (0x81b008020, 0x0)] ++
  -- KPR_ (Table 14.9)
  [(0x817000000, 0x0), (0x817000008, 0x0), (0x817000010, 0x0), (0x817000018, 0x989680), (0x817000020, 0x0), (0x817000028, 0x0),
    (0x817000030, 0x0), (0x817000038, 0x0), (0x817000040, 0x0), (0x817000048, 0x0), (0x817000050, 0x0), (0x817000100, 0x0),
    (0x8170002f8, 0x0)] ++
  -- PGD_ and CLK_ (Table 14.10)
  [(0x818000000, 0x0), (0x818000008, 0x0), (0x818000010, 0x0), (0x818000018, 0x8987364), (0x818000050, 0x0), (0x818008000, 0x0),
    (0x818008008, 0x0), (0x818008010, 0x0), (0x818008018, 0x0)] ++
  -- PRP_ (Table 15.12)
  [(0x819000008, 0x0), (0x819000040, 0x0), (0x819000080, 0x0), (0x819000088, 0x0)] ++
  -- LDG_ (Table 16.5)
  [(0x81a000000, 0x0), (0x81a000020, 0x0), (0x81a000028, 0x0)]

end Sys2Proof.Machine
end

