-- ==== Sys2Proof/Certificates/Slice0/Obligations.lean ====
section
/-! DEFINITION. The statements for the provers, each a `def Obligations.<Name> : Prop`. Statements about a command give its next state under
conditions on the state and its operands alone; what they name of the state is unchanged wherever the next state does not say otherwise. -/

open Sys2Proof Sys2Proof.Machine

/-! ### The machine as a whole -/

/-- A step takes the command at the front of the queue and is its effect on the state with the queue's rest. -/
def Obligations.StepRunsTheFrontCommand : Prop :=
  ∀ (c : Instr) (rest : List Instr) (s : State), s.pending = c :: rest → step s = exec c { s with pending := rest }

/-- On an empty queue a step is one timebase tick (assumption 7): a clocked module's timebase advances by one and its busy cores count; every
block stays but cores, context charges, the share window, the clock and the Ledger's intake, and, while firmware runs, memory, the Keeper and
the free values; firmware may log (assumption 17), and changes no byte outside the log ring. A record that finds the staging buffer full is
dropped and counted. -/
def Obligations.AnEmptyQueueIsOneTick : Prop :=
  (∀ s : State, s.pending = [] → ∃ t, step s = .next t ∧
    t.power.timebase = (if s.clocked = true then s.power.timebase + 1 else s.power.timebase) ∧
    (∀ p c, tget s.cores p = some c → ∃ d, tget t.cores p = some d ∧
      d.busy = (if s.clocked = true ∧ c.busyNow = true then c.busy + 1 else c.busy)) ∧
    (s.keeper.mode ≠ .running → t.mem = s.mem ∧ t.keeper = s.keeper ∧ t.free = s.free) ∧
    ((∀ r ∈ s.keeper.logStaging, r.length = 32) → 32 ∣ s.keeper.logCount → ∀ a,
      (a < s.keeper.logBase.toNat ∨ s.keeper.logBase.toNat + logBytes ≤ a) → memGet t.mem a = memGet s.mem a) ∧
    t.keeper.mode = s.keeper.mode ∧ t.keeper.powerState = s.keeper.powerState ∧ t.keeper.journal = s.keeper.journal ∧
    t = { s with
      cores := t.cores, ctxRegs := t.ctxRegs, shareWindow := t.shareWindow, ledger := s.ledger.drain
      power := { s.power with timebase := t.power.timebase }
      mem := t.mem, keeper := t.keeper, free := t.free }) ∧
  (∀ (s : State) (r : List Byte),
    (s.keeper.logStaging.length < 2048 → (s.stageLog r).keeper.logStaging = s.keeper.logStaging ++ [r] ∧
      (s.stageLog r).keeper.logLost = s.keeper.logLost) ∧
    (2048 ≤ s.keeper.logStaging.length → (s.stageLog r).keeper.logStaging = s.keeper.logStaging ∧
      (s.stageLog r).keeper.logLost = s.keeper.logLost + 1 ∧ bitAt (s.stageLog r).keeper.fault.toNat 1 = true))

/-- Every command answers a next state from every state, but for a low level of MOD_RESET_N between 1 µs and 10 µs on a powered module out
of reset, which R629 forbids and gives no effect. -/
def Obligations.OnlyAForbiddenResetPulseStops : Prop :=
  ∀ (c : Instr) (s : State),
    (∃ t, exec c s = .next t) ∨
    (∃ n, c = .modResetNAssert n ∧ 1000 ≤ n ∧ n < 10000 ∧ s.pins.vaux = true ∧ s.pins.modReset = false ∧
      exec c s = .fault .undefinedResetPulse)

/-- Every step keeps memory in its canonical form. -/
def Obligations.StepsKeepMemoryCanonical : Prop :=
  ∀ s t : State, s.Inv → step s = .next t → t.Inv

/-- After reset memory is canonical, the queue is empty, and every register of the list `resetRegisters`, drawn from the register tables of the
spec with their reset values, reads its value; of a register that stands many times the list has the first and the last. -/
def Obligations.ResetLeavesTheTabledValues : Prop :=
  State.reset.Inv ∧ State.reset.pending = [] ∧ ∀ e ∈ resetRegisters, State.reset.regRead e.1 = some e.2

/-- A mailbox command whose message stands at its mailbox's head, is granted, and fails a check of Table 12.7 is consumed and ended with that
check's status, and nothing else happens. A mailbox command whose message does not stand there, or is not granted, does nothing (assumption
6), and so does a FW_LOAD while another is in progress. -/
def Obligations.MailboxCommandsPassTheirChecksFirst : Prop :=
  (∀ e ∈ mailboxCommands, ∀ (s : State) (mb status : Nat) (m : List Byte) (r : CommandRow),
      s.headCommand mb e.2 = some (m, r) → s.commonCheck mb m r = some status → (e.2 = 0x0060 → s.keeper.loadTicket = none) →
      exec (e.1 mb) s = .next (((s.consume mb m).reject mb m status).settle mb)) ∧
  (∀ e ∈ mailboxCommands, ∀ (s : State) (mb : Nat), s.headCommand mb e.2 = none → exec (e.1 mb) s = .next s) ∧
  (∀ (s : State) (mb : Nat), s.keeper.loadTicket.isSome = true → exec (.fwLoad mb) s = .next s)

/-- A posted completion joins the mailbox's pending records, from whose front the carrier then takes some in order: none is lost, WRITTEN
counts those taken, a UDP owner's are kept until acknowledged, and no other mailbox changes. -/
def Obligations.PostedCompletionsAreKeptInOrder : Prop :=
  ∀ (s : State) (mb : Nat) (c : Completion), ∃ k : Nat,
    k ≤ (s.mailbox mb).pend.length + 1 ∧
    ((s.post mb c).mailbox mb).pend = ((s.mailbox mb).pend ++ [c]).drop k ∧
    ((s.post mb c).mailbox mb).written = (s.mailbox mb).written + BitVec.ofNat 32 k ∧
    ((s.mailbox mb).binding = none → ((s.post mb c).mailbox mb).records.length = (s.mailbox mb).records.length + k) ∧
    (∀ j, j ≠ mb → (s.post mb c).mailbox j = s.mailbox j) ∧
    (s.post mb c).mem = s.mem ∧ (s.post mb c).slots = s.slots ∧ (s.post mb c).ctxs = s.ctxs ∧ (s.post mb c).cores = s.cores

/-- A number handed out from a number space larger than the numbers in use is in the space and not in use. -/
def Obligations.NumbersHandedOutAreUnused : Prop :=
  ∀ (s : State) (n : Nat) (used : List Nat), used.length < n → (s.pickNumber n used).1 < n ∧ (s.pickNumber n used).1 ∉ used

/-! ### Mailbox commands: port, bindings, settings -/

/-- NET_CONFIG sets or clears an address slot after its completion is posted; QP_CREATE makes a connection with a QPN and an R_Key and
returns them; QP_DESTROY removes a connection that nothing names. -/
def Obligations.PortCommandsTakeEffect : Prop :=
  ∀ (s : State) (mb : Nat) (m : List Byte),
    (s.takes mb 0x0002 m →
      let v := (s.consume mb m).finish (ticketOf mb m) stDone 0 0
      let k := field m 32 1
      let nets := if field m 33 1 = 0 then terase v.port.nets k
        else tset v.port.nets k ⟨field m 33 1, BitVec.ofNat 16 (field m 34 2), field128 m 40⟩
      exec (.netConfig mb) s = .next (({ v with port := { v.port with nets := nets } } : State).settle mb)) ∧
    (s.takes mb 0x0003 m → (s.consume mb m).port.qps.length < 4096 →
      let u := s.consume mb m
      let a := u.pickNumber (2 ^ 24) (u.port.qps.map Prod.fst)
      let rkey := Config.freeValue (u.free + 1) % 2 ^ 32
      exec (.qpCreate mb) s =
        .next ((({ u with free := u.free + 2 } : State).setQp a.1 (qpOf m rkey u.now)).ended mb m stDone a.1 rkey)) ∧
    (s.takes mb 0x0004 m → ((s.consume mb m).qp (field m 32 4)).isSome = true →
      (s.consume mb m).qpNamed (field m 32 4) = false →
      let u := s.consume mb m
      exec (.qpDestroy mb) s = .next (({ u with port := { u.port with qps := terase u.port.qps (field m 32 4) } } : State).ended mb m
        stDone 0 0))

/-- MBOX_BIND binds a mailbox to a usable connection of its own, with counts 0 and every undelivered record pending again; MEM_REGISTER
enters a registration under a number not in use; MEM_DEREGISTER removes one that nothing names. -/
def Obligations.BindingCommandsTakeEffect : Prop :=
  ∀ (s : State) (mb : Nat) (m : List Byte),
    (s.takes mb 0x0005 m →
      let u := s.consume mb m
      let target := field m 32 2
      ∀ q, u.qp (field m 36 4) = some q → q.mb = target → q.error = false →
        ((u.mailbox target).stopped = true ∨ (u.mailbox target).announced = 0) →
        exec (.mboxBind mb) s =
          .next (((u.setMailbox target ((u.mailbox target).rebind (bindingOf m))).flush target).ended mb m stDone 0 0)) ∧
    (s.takes mb 0x0006 m →
      let u := s.consume mb m
      let dom := domainOf mb
      let mine := tgetD u.regs dom []
      ∀ q, u.qp (field m 32 4) = some q → domainOf q.mb = dom → mine.length < 4096 →
        let n := (u.pickNumber 4096 (mine.map Prod.fst)).1
        let r : Registration := ⟨field m 32 4, bitAt (field m 36 1) 0, bitAt (field m 36 1) 1, field m 40 8, field m 48 4, field m 56 8⟩
        exec (.memRegister mb) s =
          .next (({ u with free := u.free + 1, regs := tset u.regs dom (tset mine n r) } : State).ended mb m stDone n 0)) ∧
    (s.takes mb 0x0007 m →
      let u := s.consume mb m
      let dom := domainOf mb
      (u.registration dom (field m 32 4)).isSome = true → u.regNamed dom (field m 32 4) = false →
        exec (.memDeregister mb) s =
          .next (({ u with regs := tset u.regs dom (terase (tgetD u.regs dom []) (field m 32 4)) } : State).ended mb m stDone 0 0))

/-- LOCK sets lock bits and clears none; CTX_SET changes WEIGHT and LC_ALLOWED where its flags ask and no other bit of BRD_CTXn_CFG;
SHARE_MODE writes BRD_CTRL.SHARE; GUARD_SET writes the context's FRACTION; TRACE_SET writes one trace-enable bit. -/
def Obligations.SettingCommandsTakeEffect : Prop :=
  ∀ (s : State) (mb : Nat) (m : List Byte),
    (s.takes mb 0x0008 m →
      let u := s.consume mb m
      let lock := u.propolis.lock ||| BitVec.ofNat 3 (field m 32 1)
      exec (.lock mb) s = .next (({ u with propolis := { u.propolis with
        lock := lock
        partitioned := u.propolis.partitioned ||
          (bitAt lock.toNat 1 && !bitAt u.propolis.lock.toNat 1 && disjointMasks u.enabledMasks) } } : State).ended mb m stDone 0 0)) ∧
    (s.takes mb 0x0012 m →
      let u := s.consume mb m
      let r := u.creg (msgContext m)
      let f := field m 34 2
      let w := if bitAt f 1 = true then setBits r.cfg.toNat 15 0 (field m 32 2) else r.cfg.toNat
      let v := if bitAt f 2 = true then setBits w 17 17 (b2n (bitAt f 0)) else w
      exec (.ctxSet mb) s = .next ((u.setCreg (msgContext m) { r with cfg := BitVec.ofNat 32 v }).ended mb m stDone 0 0)) ∧
    (s.takes mb 0x0013 m →
      let u := s.consume mb m
      exec (.shareMode mb) s =
        .next (({ u with brdCtrl := BitVec.ofNat 32 (setBits u.brdCtrl.toNat 1 1 (field m 32 1)) } : State).ended mb m stDone 0 0)) ∧
    (s.takes mb 0x0052 m →
      let u := s.consume mb m
      exec (.guardSet mb) s = .next ((u.setCreg (msgContext m)
        { u.creg (msgContext m) with guardCfg := BitVec.ofNat 32 (field m 32 1 % 4) }).ended mb m stDone 0 0)) ∧
    (s.takes mb 0x0064 m →
      let u := s.consume mb m
      let p := field m 32 2
      let v := (tgetD u.keeper.trace (p / 64) 0).toNat
      exec (.traceSet mb) s = .next (({ u with keeper := { u.keeper with
        trace := tset u.keeper.trace (p / 64) (BitVec.ofNat 64 (setBits v (p % 64) (p % 64) (field m 34 1))) } } : State).ended mb m
        stDone 0 0))

/-- POWER_SET sets HOST_CEIL and the power state where R560 lets it change; SWITCH_MODE, with no turn and no load under way, keeps the mode
for the next boundary, tells the members, and applies it at once where nothing runs. Entering P2 stops scrubbing, puts the stacks in
self-refresh and takes every device link down; leaving it ends both. -/
def Obligations.ModeCommandsTakeEffect : Prop :=
  (∀ (s : State) (mb : Nat) (m : List Byte),
      (s.takes mb 0x0062 m →
        let u := s.consume mb m
        let n := bits (field m 32 1) 1 0
        (n = 0 ∨ n = u.keeper.powerState ∨
          (u.powerBusy = false ∧ (n = 2 → u.cascade.state = .active → u.groupSize ≤ 1))) →
        exec (.powerSet mb) s = .next ((State.enterPower
          { u with power := ({ u.power with hostCeil := bits (field m 32 1) 3 2 } : Power).retarget u.now } n).ended mb m stDone 0 0)) ∧
      (s.takes mb 0x0043 m →
        let u := s.consume mb m
        u.turns.turn = none → u.loadingNow = false →
        exec (.switchMode mb) s = .next ((((({ u with turns := { u.turns with
          modeWait := some (field m 32 1 == 1, ticketOf mb m) } } : State).tellAll kmOrder m).settleIdle).settle mb)))) ∧
  (∀ (s : State) (n : Nat), n ≠ s.keeper.powerState →
      (s.enterPower n).keeper.powerState = n ∧ (s.enterPower n).keeper.selfRefresh = (n == 2) ∧
      (s.enterPower n).memCtl.scrubPaused = (n == 2) ∧
      (n = 2 → ∀ k l, tget (s.enterPower n).cascade.links k = some l → l.up = false) ∧
      (n ≠ 2 → (s.enterPower n).cascade = s.cascade) ∧ (s.enterPower n).mem = s.mem)

/-! ### Mailbox commands: contexts, packages, packs, groups -/

/-- CTX_CREATE, its fields, regions and mask in order, its context absent and granules free, enters the context; CTX_RELEASE begins the
release of a context. A created context exists with the contents of its message and its granules, and with the message's configuration, comb
mask, super region and page-pool base in its registers; no other context, slot or mailbox changes. -/
def Obligations.ContextCommandsTakeEffect : Prop :=
  (∀ (s : State) (mb : Nat) (m : List Byte),
      (s.takes mb 0x0010 m →
        let u := s.consume mb m
        let c := msgContext m
        c < 512 → createFieldsOk m = true → createRegionsOk m = true → u.maskAccepted c (field32 m 48) = true → u.ctx c = none →
        ∀ gs mc, MemCtl.takeLp MemCtl.freeLp (field m 56 8 / 0x200000) u.memCtl = some (gs, mc) →
          exec (.ctxCreate mb) s = .next ((u.createCtx c m gs mc).ended mb m stDone 0 0)) ∧
      (s.takes mb 0x0011 m →
        exec (.ctxRelease mb) s =
          .next (((s.consume mb m).beginRelease (msgContext m) (ticketOf mb m)).settle mb))) ∧
  (∀ (u : State) (c : Nat) (m : List Byte) (gs : List Nat) (mc : MemCtl),
      (u.createCtx c m gs mc).ctx c = some (Machine.createCtx m gs) ∧
      ((u.createCtx c m gs mc).creg c).cfg = (createRegs m).cfg ∧ ((u.createCtx c m gs mc).creg c).combs = field32 m 48 ∧
      ((u.createCtx c m gs mc).creg c).supBase = (createRegs m).supBase ∧ ((u.createCtx c m gs mc).creg c).kvBase = (createRegs m).kvBase ∧
      (∀ d, d ≠ c → (u.createCtx c m gs mc).ctx d = u.ctx d ∧ (u.createCtx c m gs mc).creg d = u.creg d) ∧
      (u.createCtx c m gs mc).slots = u.slots ∧ (u.createCtx c m gs mc).mailboxes = u.mailboxes)

/-- PACKAGE_LOAD reads its window: by one RDMA READ posted on its registration's connection, its mailbox busy and its message kept until the
response; a window whose registration or connection is gone ends the message FAILED_LINK_DOWN. The package read, where it passes its checks
and its granules are free, is mapped and enters its slot. PACKAGE_UNLOAD of a package that nothing names waits for the boundary of a running
step, else removes the package. A CANCEL ends the target it finds with VALUE0 1, or ends with 0. -/
def Obligations.PackageCommandsTakeEffect : Prop :=
  (∀ (s : State) (mb : Nat) (m : List Byte),
      (s.takes mb 0x0014 m →
        exec (.packageLoad mb) s = .next (((s.consume mb m).readWindow (ticketOf mb m) m (windowAt m 32)).settle mb)) ∧
      (s.takes mb 0x0015 m →
        let u := s.consume mb m
        let c := msgContext m
        let k := field m 32 1
        ∀ x l, u.ctx c = some x → tget x.packages k = some l → l.unloading = none →
          ((u.ctxSlots c).all fun i => (u.slot i).package != k) = true → u.packageBusy c k = false → u.packageGranted c k = false →
          u.turns.learning ≠ some (c, k) →
          exec (.packageUnload mb) s = .next ((if u.stepRunning c = true
            then u.setCtx c { x with packages := tset x.packages k { l with unloading := some (ticketOf mb m) } }
            else u.removePackage c k (ticketOf mb m)).settle mb)) ∧
      (s.takes mb 0x0051 m → mb < 16 ∨ field m 32 1 = 1 →
        let u := s.consume mb m
        exec (.cancel mb) s = .next (match u.cancelTarget (msgContext m) (field m 32 1) (field m 40 8) with
          | some v => ((v.settleIdle.finish (ticketOf mb m) stDone 1 0).settleReleases).settle mb
          | none => u.ended mb m stDone 0 0))) ∧
  (∀ (u : State) (t : Ticket) (m : List Byte) (w : Window),
      (u.windowLive (domainOf t.mb) w = false → u.readWindow t m w = u.finish t stLinkDown 0 0) ∧
      (∀ r, u.registration (domainOf t.mb) w.reg = some r → u.qpUsable r.qpn = true →
        let v := u.setMailbox t.mb { u.mailbox t.mb with busy := true }
        u.readWindow t m w = State.postOp { v with readings := u.readings ++ [⟨t.mb, m⟩] } r.qpn
          (.read (r.addr + w.offset) r.rkey w.length (.window t.mb)))) ∧
  (∀ (u v : State) (t : Ticket) (m : List Byte) (p : Package) (gs : List (Nat × Nat)) (x y : Ctx),
      let c := msgContext m
      let k := field m 56 1
      u.ctx c = some x → tget x.packages k = none → contractOk p.contract = true → kindCode p.kind = field m 57 1 →
      packageSound p = true → (u.creg c).geomFits p = true → u.regionOk c x p = true →
      u.takeGranules c (fun _ => false) (learnRegion p) = some (gs, v) → (v.mapGrans c (fun _ => false) gs).ctx c = some y →
      u.packageWindow t m (.package p) =
        ((v.mapGrans c (fun _ => false) gs).setCtx c { y with packages := tset y.packages k ⟨p, none⟩ }).finish t stDone 0 0)

/-- PACK_WRITE reads its window; PACK_DELETE of a present pack waits on its loads, and with none removes it; PACK_QUERY returns the pack's
DATA_LENGTH and its presence, 0 where it is absent. A removed pack is gone, every other pack stays, and memory with it. -/
def Obligations.PackCommandsTakeEffect : Prop :=
  (∀ (s : State) (mb : Nat) (m : List Byte),
      (s.takes mb 0x0030 m →
        exec (.packWrite mb) s = .next (((s.consume mb m).readWindow (ticketOf mb m) m (windowAt m 32)).settle mb)) ∧
      (s.takes mb 0x0031 m →
        let u := s.consume mb m
        let id := field m 32 8
        ∀ p, tget u.store.packs id = some p →
          let v : State := { u with store := { u.store with
            packs := tset u.store.packs id { p with deleting := p.deleting ++ [ticketOf mb m] } } }
          exec (.packDelete mb) s = .next ((if u.packRead id = true then v else v.removePack id).settle mb)) ∧
      (s.takes mb 0x0032 m →
        let u := s.consume mb m
        exec (.packQuery mb) s = .next (match tget u.store.packs (field m 32 8) with
          | some p => u.ended mb m stDone (mfData p.manifest) (1 + 2 * b2n (mfMirrored p.manifest))
          | none => u.ended mb m stDone 0 0))) ∧
  (∀ (u : State) (id : Nat), twf u.store.packs = true →
      tget (u.removePack id).store.packs id = none ∧ (∀ k, k ≠ id → tget (u.removePack id).store.packs k = tget u.store.packs k) ∧
      (u.removePack id).mem = u.mem ∧ (u.removePack id).store.writing = u.store.writing)

/-- GROUP_FORM on a module with no group and no contexts enters FORMING with the message's epoch; QUEEN_MOVE with a higher epoch and a quiet
group sets epoch, queen and successor; GROUP_DISSOLVE of a quiet group leaves it. -/
def Obligations.GroupCommandsTakeEffect : Prop :=
  ∀ (s : State) (mb : Nat) (m : List Byte),
    (s.takes mb 0x0020 m →
      let u := s.consume mb m
      u.cascade.state = .none → u.ctxs = [] → u.formOk m = true →
      exec (.groupForm mb) s = .next (((State.groupEvent { u with cascade := { u.cascade with
        enable := true, state := .forming, group := groupWord m, epoch := field32 m 36, formTicket := some (ticketOf mb m)
        formTick := u.now, readyFrom := [] } } 0xFF).settleReady).settle mb)) ∧
    (s.takes mb 0x0021 m →
      let u := s.consume mb m
      let q := field m 36 1
      let n := field m 37 1
      (u.cascade.state = .active ∨ u.cascade.state = .fenced) → u.cascade.epoch.toNat < field m 32 4 → q < u.groupSize →
      n < u.groupSize → (q = n → u.groupSize ≤ 1) → u.groupBusy = false →
      exec (.queenMove mb) s = .next ((State.groupEvent { u with cascade := { u.cascade with
        epoch := field32 m 32
        group := BitVec.ofNat 64 (setBits (setBits u.cascade.group.toNat 43 38 q) 49 44 n)
        formTick := u.now, beats := [] } } 0xFF).ended mb m stDone 0 0)) ∧
    (s.takes mb 0x0022 m →
      let u := s.consume mb m
      u.cascade.state = .active → u.groupBusy = false →
      exec (.groupDissolve mb) s =
        .next ((((u.leaveGroup.groupEvent 0xFF).finish (ticketOf mb m) stDone 0 0).settleIdle.settleReleases).settle mb))

/-! ### Mailbox commands: weights, turns, learning, captures -/

/-- A LOAD that passes its checks is accepted; a SHARD_SUPPLY of an outstanding request of a load under way declines it, or reads its window
at the requested length where the window is long enough and its connection live; TURN_LEARN and TURN_GEN, permitted, put their turn in
place, tell the members, and begin it where nothing runs. -/
def Obligations.LoadAndTurnCommandsTakeEffect : Prop :=
  ∀ (s : State) (mb : Nat) (m : List Byte),
    (s.takes mb 0x0040 m →
      let u := s.consume mb m
      let c := msgContext m
      let id := field m 32 8
      ∀ x mf k kind, u.ctx c = some x → u.packWriting id = false → u.packDeleting id = false → u.loadManifest id = some mf →
        x.manifestOk mf u.groupSize = true →
        x.inData (field m 40 8) (16 * mfShards mf) = true → x.loadKind mf = some (k, kind) → u.loadFieldsOk c k kind m mf = true →
        u.loadPermitted c k kind (if kind = .adapter then u.loadIndex c m else none) = true →
        exec (.load mb) s = .next ((u.acceptLoad (ticketOf mb m) m mf c k kind).settle mb)) ∧
    (s.takes mb 0x0048 m →
      let u := s.consume mb m
      ∀ r l, u.request m = some r → r.ended = false → u.openLoad r.packId = some l →
        (field m 36 4 = 1 → exec (.shardSupply mb) s =
          .next ((((u.endRequests r.packId (some r.shard)).loadShard l r.shard (.absent 3) none).finishTransfer (ticketOf mb m) r
            stDone).settle mb)) ∧
        (field m 36 4 ≠ 1 → u.requestLength r ≤ (windowAt m 40).length → u.windowLive (domainOf mb) (windowAt m 40) = true →
          exec (.shardSupply mb) s =
            .next ((u.readWindow (ticketOf mb m) m { windowAt m 40 with length := u.requestLength r }).settle mb))) ∧
    (s.takes mb 0x0041 m →
      let u := s.consume mb m
      ∀ p, u.packageAt (msgContext m) (field m 32 1) = some p → p.kind = .learning → u.generating = true → u.turns.turn = none →
        u.halted = false → u.capturing = false →
        exec (.turnLearn mb) s = .next (((((u.wake.setTurn (.accepted .learn (ticketOf mb m) (msgLc m) (field m 32 1) 0 0)).tellAll kmOrder
          m).settleIdle).settle mb))) ∧
    (s.takes mb 0x0042 m →
      let u := s.consume mb m
      u.generating = false → u.turns.turn = none → u.halted = false → u.capturing = false →
      (field m 32 1 = 2 → exec (.turnGen mb) s = .next (((((u.wake.setTurn (.accepted .restore (ticketOf mb m) (msgLc m) (field m 33 1) 0
          (field m 48 8))).tellAll kmOrder m).settleIdle).settle mb))) ∧
      (field m 32 1 ≠ 2 →
        let turn := Turn.accepted (if field m 32 1 = 0 then .full else .adapter) (ticketOf mb m) (msgLc m) (field m 33 1) (field m 34 2)
          (field m 48 8)
        ∀ x b, u.ctx (msgContext m) = some x → u.turnMapOk (msgContext m) x m = some b →
          u.turnBusy (msgContext m) (field m 33 1) turn.kin = false →
          exec (.turnGen mb) s = .next (((u.acceptTurn turn m b).settleIdle).settle mb)))

/-- VERSION_RETIRE of a RETAINED version, a base version only where nothing reads it, removes it where no step of its context runs and nothing
reads it, and ends DONE; VERSION_REVOKE of a granted version removes it from the grantee, or makes it RETAINED while a step of the grantee
runs; ADAPTER_RELEASE frees an unnamed adapter index with its versions; VERSION_GRANT gives the grantee a version that names its owner; each
of the last two waits for the boundary where a step of its contexts runs. -/
def Obligations.VersionCommandsTakeEffect : Prop :=
  ∀ (s : State) (mb : Nat) (m : List Byte),
    (s.takes mb 0x0044 m →
      let u := s.consume mb m
      let c := msgContext m
      let k : Kin := if field m 36 2 = 0xFFFF then .base else .adapter (field m 36 2)
      let tag := field m 34 2
      ∀ v, u.version c k tag = some v → (k = .base → v.package = field m 32 1) → v.state = .retained →
        (k = .base → u.readers c k tag = 0) →
        let w := (u.goneSlots c k tag).tellAll kmOrder m
        exec (.versionRetire mb) s =
          .next ((if w.stepRunning c = true ∨ w.readers c k tag ≠ 0 then w else w.removeVersion c k tag).ended mb m stDone 0 0)) ∧
    (s.takes mb 0x0045 m →
      let u := s.consume mb m
      let c := msgContext m
      let d := field m 36 2
      ∀ x y v l k, u.ctx c = some x → u.ctx d = some y → u.version c .base (field m 34 2) = some v →
        tget x.packages (field m 32 1) = some l → y.packageSlot l.package.packageId = some k → v.state = .current →
        v.package = field m 32 1 → v.askedShared = true → v.shelved = false → d ≠ c → u.currentOf d .base k = none →
        y.versions.length < 16 →
        ((u.stepRunning c = true ∨ u.stepRunning d = true) →
          exec (.versionGrant mb) s = .next ((u.awaitBoundary (ticketOf mb m) m).settle mb)) ∧
        (u.stepRunning c = false → u.stepRunning d = false → ∃ t : State,
          exec (.versionGrant mb) s = .next ((t.ended mb m stDone (u.giveTag d .base).1 0)) ∧
          ((t.versions d .base).any fun w => w.owner == some (c, v.tag)) = true)) ∧
    (s.takes mb 0x0046 m →
      let u := s.consume mb m
      let d := field m 36 2
      let tag := field m 34 2
      ∀ v o, u.version d .base tag = some v → v.owner = some o → o.1 = msgContext m →
        let w := (u.goneSlots d .base tag).tellAll kmOrder m
        exec (.versionRevoke mb) s = .next ((if w.stepRunning d = true then w.putVersion d .base { v with state := .retained }
          else w.removeVersion d .base tag).ended mb m stDone 0 0)) ∧
    (s.takes mb 0x0047 m →
      let u := s.consume mb m
      let c := msgContext m
      let a := field m 32 2
      ∀ x, tget u.adapters a = some x → x.ctx = c → u.adapterNamed c a = false →
        (u.stepRunning c = true → exec (.adapterRelease mb) s = .next ((u.awaitBoundary (ticketOf mb m) m).settle mb)) ∧
        (u.stepRunning c = false →
          let w := x.versions.foldl (fun t v => t.removeVersion c (.adapter a) v.tag) u
          exec (.adapterRelease mb) s =
            .next ((State.tellAll { w with adapters := terase w.adapters a } kmOrder m).ended mb m stDone 0 0)))

/-- CAP_TAKE of a context with nothing moving and CAP_RESTORE of one that holds nothing, with no capture or restore under way and the group
not halted, put their operation in place and tell the members; a restore then has its peer return the image, or reads this module's part of
it over its registration, and ends FAILED_LINK_DOWN where that is gone. LEARN_STEP accepts a plan that passes the checks, and ends with one
LEARN record of the failing check's status where one fails. -/
def Obligations.LearningAndCaptureCommandsTakeEffect : Prop :=
  (∀ (s : State) (mb : Nat) (m : List Byte),
      (s.takes mb 0x0053 m →
        let u := s.consume mb m
        u.peerOk m = true → u.halted = false → u.capturing = false → u.moving (msgContext m) = false →
        exec (.capTake mb) s =
          .next (((u.wake.setCap (some (.fresh .capturing (msgContext m) (ticketOf mb m) m))).tellAll kmOrder m).settle mb)) ∧
      (s.takes mb 0x0054 m →
        let u := s.consume mb m
        let k := Capping.fresh .restoring (msgContext m) (ticketOf mb m) m
        let w := (u.setCap (some k)).tellAll kmOrder m
        u.peerOk m = true → u.halted = false → u.capturing = false → u.holdsNothing (msgContext m) = true →
        (k.toPeer = true → exec (.capRestore mb) s = .next (w.returnImage.settle mb)) ∧
        (k.toPeer = false → ∀ r, w.registration 0 k.reg = some r →
          (w.qpUsable r.qpn = true →
            let part := k.length / u.groupSize
            exec (.capRestore mb) s =
              .next ((w.postOp r.qpn (.read (r.addr + k.offset + u.position * part) r.rkey part .image)).settle mb)) ∧
          (w.qpUsable r.qpn = false → exec (.capRestore mb) s =
            .next ((((w.setCap none).tellEnd (ticketOf mb m) stLinkDown).finish (ticketOf mb m) stLinkDown 0 0).settle mb))))) ∧
  (∀ (s : State) (mb : Nat) (m : List Byte), s.takes mb 0x0050 m →
      let u := s.consume mb m
      let t := ticketOf mb m
      ∀ x, u.ctx t.ctx = some x →
        (∀ p lp, u.checkPlan t.ctx x (field m 32 8) = .ok p → u.learnPackage t.ctx p.package = some lp →
          exec (.learnStep mb) s = .next ((u.wake.acceptLearn t x p lp m).settle mb)) ∧
        (∀ st, u.checkPlan t.ctx x (field m 32 8) = .error st →
          let b := (u.planBytes t.ctx x (field m 32 8)).getD []
          exec (.learnStep mb) s = .next ((u.answer t ⟨2, field b 8 4, field b 16 4, 0, st, false, true, 0, 0⟩).settle mb)))

/-! ### Mailbox commands: firmware, reports, sequences -/

/-- FW_LOAD under firmware, with no activation deferred, reads its window; under the boot ROM it is held for the start's step, or opens its
read; FW_ACTIVATE of a PENDING image starts the restart, or waits for EMERGENCY to close; DEBUG_UNLOCK reads its window. IDENTIFY writes the
identity report to its window, sends it to the mailbox's source under the boot ROM, or reads the nonce that an attestation needs; LOG_READ
and LEDGER_READ write log bytes and Ledger records with their counts; SLOT_QUERY writes a slot's entry and returns its number. -/
def Obligations.FirmwareAndReportCommandsTakeEffect : Prop :=
  ∀ (s : State) (mb : Nat) (m : List Byte),
    (s.takes mb 0x0060 m → s.keeper.loadTicket = none →
      let u := s.consume mb m
      (u.bootRom = false → u.keeper.deferred = [] → u.windowLive (domainOf mb) (windowAt m 32) = true →
        let w := u.readWindow (ticketOf mb m) m (windowAt m 32)
        exec (.fwLoad mb) s = .next (({ w with keeper := { w.keeper with loadTicket := some (ticketOf mb m) } } : State).settle mb)) ∧
      (u.bootRom = true →
        let w := u.holdReading mb m
        let v : State := { w with keeper := { w.keeper with loadTicket := some (ticketOf mb m), loadWaits := decide (u.keeper.startStep < 5) } }
        exec (.fwLoad mb) s = .next ((if u.keeper.startStep < 5 then v else v.openBootRead mb m).settle mb))) ∧
    (s.takes mb 0x0061 m →
      let u := s.consume mb m
      u.keeper.pendingImage.isSome = true →
      exec (.fwActivate mb) s = .next ((if u.power.emergency = true
        then { u with keeper := { u.keeper with deferred := u.keeper.deferred ++ [ticketOf mb m] } }
        else u.activateNow [ticketOf mb m]).settle mb)) ∧
    (s.takes mb 0x0066 m →
      exec (.debugUnlock mb) s = .next (((s.consume mb m).readWindow (ticketOf mb m) m (windowAt m 32)).settle mb)) ∧
    (s.takes mb 0x0001 m →
      let u := s.consume mb m
      (u.bootRom = false → u.attests mb m = false → u.windowLive (domainOf mb) (windowAt m 32) = true →
        exec (.identify mb) s = .next ((u.writeWindow (domainOf mb) (windowAt m 32) u.identityReport).ended mb m stDone 0 0)) ∧
      (u.bootRom = true → ∀ src, (u.mailbox mb).udp = some src →
        exec (.identify mb) s = .next ((u.transmit (.udp src u.identityReport)).ended mb m stDone 0 0)) ∧
      (u.bootRom = false → u.attests mb m = true → u.propolis.lifecycle ≠ 0 → exec (.identify mb) s =
        .next ((u.readWindow (ticketOf mb m) m { windowAt m 32 with offset := (windowAt m 32).offset + 256, length := 32 }).settle mb))) ∧
    (s.takes mb 0x0063 m →
      let u := s.consume mb m
      let r := logPart (field m 56 8) u.keeper.logCount (windowAt m 32).length
      u.windowLive (domainOf mb) (windowAt m 32) = true →
      exec (.logRead mb) s =
        .next ((u.writeWindow (domainOf mb) (windowAt m 32) (u.logSlice r.1 r.2)).ended mb m stDone u.keeper.logCount 0)) ∧
    (s.takes mb 0x0065 m →
      let u := s.consume mb m
      u.windowLive (domainOf mb) (windowAt m 32) = true →
      exec (.ledgerRead mb) s = .next ((u.writeWindow (domainOf mb) (windowAt m 32)
        (u.ledgerBytes (field m 56 8) (windowAt m 32).length)).ended mb m stDone u.ledger.written 0)) ∧
    (s.takes mb 0x0106 m →
      let u := s.consume mb m
      ∀ i, u.findSlot (msgContext m) (BitVec.ofNat 64 (field m 32 8)) = some i → u.windowLive (domainOf mb) (windowAt m 40) = true →
      exec (.slotQuery mb) s = .next ((u.writeWindow (domainOf mb) (windowAt m 40)
        (u.slot i).bytes).ended mb m stDone i 0))

/-- HANDLE_REGISTER of a uniform prefix with a handle and a list free registers it, at the boundary of a running step; HANDLE_RELEASE
releases a handle; SET_REWARD writes an unset reward of a READY entry; SUPER_RELEASE releases a READY entry. -/
def Obligations.SequenceCommandsTakeEffect : Prop :=
  ∀ (s : State) (mb : Nat) (m : List Byte),
    (s.takes mb 0x0102 m →
      let u := s.consume mb m
      let c := msgContext m
      let n := field m 40 4
      let q := BitVec.ofNat 64 (field m 32 8)
      ∀ i l, u.findSlot c q = some i → 0 < n → n ≤ (u.slot i).kvlen → (u.slot i).state ≠ .closing → (u.slot i).list = some l →
        ((u.pool c).uniform l (pagesOf n)).isSome = true →
        (lowestFree (u.creg c).handleCount ((u.pool c).handles.map Prod.fst)).isSome = true → (u.freeList c).isSome = true →
        exec (.handleRegister mb) s = .next ((if u.stepRunning c = true
          then u.setPool c { u.pool c with waiting := (u.pool c).waiting ++ [⟨ticketOf mb m, q, n⟩] }
          else u.applyHandle c ⟨ticketOf mb m, q, n⟩).settle mb)) ∧
    (s.takes mb 0x0103 m →
      let u := s.consume mb m
      let c := msgContext m
      let h := field m 32 8
      handleCtx h = c → ((u.pool c).handle h).isSome = true →
      exec (.handleRelease mb) s = .next ((u.releaseHandle c (bits h 13 0)).ended mb m stDone 0 0)) ∧
    (s.takes mb 0x0104 m →
      let u := s.consume mb m
      let c := msgContext m
      ∀ e, u.super c (BitVec.ofNat 64 (field m 32 8)) = some e → e.ready = true → e.rewardState = 0 →
      exec (.setReward mb) s = .next ((u.setSuper c { e with reward := field32 m 40, rewardState := 1 }).ended mb m stDone 0 0)) ∧
    (s.takes mb 0x0105 m →
      let u := s.consume mb m
      let c := msgContext m
      ∀ e, u.super c (BitVec.ofNat 64 (field m 32 8)) = some e → e.ready = true →
      exec (.superRelease mb) s = .next (((u.setSuper c { e with released := true }).moveTail c).ended mb m stDone 0 0))

/-- ADMIT is rejected at its first failing check with that check's status; an inline admission that passes, or one without tokens, is
accepted; one with a registered prompt posts the prompt's read. An accepted admission takes the lowest-numbered free slot: it holds the
message's SEQ_ID, context, MAX_NEW, TEMP and TAG and the prompt's length, in state PREFILL, no other slot changing; P1 is left for P0,
and in the generation phase the slot is bound. -/
def Obligations.AdmitTakesEffect : Prop :=
  (∀ (s : State) (mb : Nat) (m : List Byte), s.takes mb 0x0101 m →
      let u := s.consume mb m
      let c := msgContext m
      (∀ st, u.adCheck c m = some st → exec (.admission mb) s = .next ((u.reject mb m st).settle mb)) ∧
      (u.adCheck c m = none → field m 136 4 = inlinePrompt →
        exec (.admission mb) s = .next ((u.acceptAdmit c m (ticketOf mb m) (tokensAt m 152 (adTokens m))).settle mb)) ∧
      (u.adCheck c m = none → field m 136 4 ≠ inlinePrompt → adTokens m = 0 →
        exec (.admission mb) s = .next ((u.acceptAdmit c m (ticketOf mb m) []).settle mb)) ∧
      (u.adCheck c m = none → field m 136 4 ≠ inlinePrompt → adTokens m ≠ 0 →
        exec (.admission mb) s = .next ((u.readPrompt mb m).settle mb))) ∧
  (∀ (u : State) (c : Nat) (m : List Byte) (t : Ticket) (given : List Nat), u.adCheck c m = none →
      ∃ (i : Nat) (w : State), i < 16384 ∧ i ∉ u.usedSlots ∧ (∀ j, j < i → j ∈ u.usedSlots) ∧
        u.acceptAdmit c m t given = (if w.generating = true then w.wake.bindSlot i else w.wake) ∧
        (w.slot i).seqId = adSeq m ∧ (w.slot i).ctx = c ∧ (w.slot i).state = .prefill ∧ (w.slot i).maxNew = adMaxNew m ∧
        (w.slot i).promptLen = (u.adPrompt c m given).length ∧ (w.slot i).temp = field32 m 56 ∧ (w.slot i).tag = t.tag ∧
        ∀ j, j ≠ i → w.slot j = u.slot j)

/-! ### The Ethernet port -/

/-- A doorbell on the connection of its mailbox is acknowledged; during a Keeper restart it is kept; one whose check fails or that names another
mailbox stops the mailbox; one with counts in range advances the counts of a mailbox that is not stopped, which goes on; a doorbell on
another connection changes nothing. A UDP_SUBMIT of the mailbox's own source takes its slots, acknowledges records and is answered; a
UDP_POLL acknowledges records and is answered; either with a bad checksum is dropped and counted, and so is one of another source. -/
def Obligations.SubmissionsReachTheirMailbox : Prop :=
  (∀ (s : State) (h : Roce) (body : List Byte) (q : Qp), s.arrives h q →
      ((s.mailbox q.mb).binding.any fun b => b.qpn == h.qpn) = true →
      let v := s.touchRegion.transmit (.roceAck h.qpn)
      let b := s.mailbox q.mb
      let prod := BitVec.ofNat 32 (field body 4 4)
      let cons := BitVec.ofNat 32 (field body 8 4)
      (s.keeper.mode = .restarting → exec (.doorbell h body) s =
        .next { v with keeper := { v.keeper with keptDoorbells := v.keeper.keptDoorbells ++ [(q.mb, body)] } }) ∧
      (s.keeper.mode ≠ .restarting → crcOkAt body 12 = true → field body 0 2 = q.mb → b.stopped = false →
        (b.prod - b.cons).toNat ≤ (prod - b.cons).toNat → (prod - b.cons).toNat ≤ 256 →
        (cons - b.cqCons).toNat ≤ (b.written - b.cqCons).toNat →
        exec (.doorbell h body) s =
          .next (((v.setMailbox q.mb (Mailbox.announce { b with cqCons := cons } prod s.now)).flush q.mb).settle q.mb)) ∧
      (s.keeper.mode ≠ .restarting → crcOkAt body 12 = false ∨ field body 0 2 ≠ q.mb →
        exec (.doorbell h body) s = .next (v.stopMailbox q.mb))) ∧
  (∀ (s : State) (h : Roce) (body : List Byte) (q : Qp), s.arrives h q →
      ((s.mailbox q.mb).binding.any fun b => b.qpn == h.qpn) = false →
      exec (.doorbell h body) s = .next (s.touchRegion.transmit (.roceAck h.qpn))) ∧
  (∀ (s : State) (src : UdpSource) (d : List Byte),
      let mb := field d 2 2
      let v := s.touchRegion
      let b := (s.mailbox mb).ackRecords (BitVec.ofNat 32 (field d 12 4))
      (carrierOk d 0 = true → (s.mailbox mb).binding = none → (s.mailbox mb).udp = some src →
        let w := ((v.setMailbox mb (b.takeSlots s.now d 0 (field d 8 2))).settle mb).flush mb
        exec (.udpSubmit src true d) s = .next (w.transmit (.udp src ((w.mailbox mb).answerBytes mb)))) ∧
      (carrierOk d 2 = true → (s.mailbox mb).binding = none → (s.mailbox mb).udp = some src →
        let w := (v.setMailbox mb b).flush mb
        exec (.udpPoll src true d) s = .next (w.transmit (.udp src ((w.mailbox mb).answerBytes mb)))) ∧
      (exec (.udpSubmit src false d) s = .next s.dropBad ∧
        exec (.udpPoll src false d) s = .next s.dropBad) ∧
      (∀ other, other ≠ src → (s.mailbox mb).binding = none → (s.mailbox mb).udp = some other →
        (carrierOk d 0 = true → exec (.udpSubmit src true d) s = .next v.dropUnmatched) ∧
        (carrierOk d 2 = true → exec (.udpPoll src true d) s = .next v.dropUnmatched)))

/-- An inbound RDMA WRITE fills the mailbox's submission window, or context memory that its connection reaches and that resolves, and is
acknowledged; a write to a range that capping protects waits. An RDMA READ answers the bytes of context memory where the read meets no
uncorrectable error, and free bytes where it does, its errors counted. A write outside window and LPDDR5X, a read outside LPDDR5X, and an
access to no context of the connection are answered with a remote access NAK. -/
def Obligations.InboundRdmaReachesItsMemory : Prop :=
  ∀ (s : State) (h : Roce) (addr rkey len : Nat) (data : List Byte) (q : Qp), s.arrives h q →
    (inWindow q.mb addr data.length = true → exec (.rdmaWriteInbound h addr rkey data) s = .next ((s.touchRegion.setMailbox q.mb
      ((s.mailbox q.mb).putBytes (addr - windowBase q.mb) data)).transmit (.roceAck h.qpn))) ∧
    (inWindow q.mb addr data.length = false → s.keeper.powerState ≠ 2 → inLp addr = true → inLp (addr + data.length - 1) = true →
      ∀ c t, s.rdmaContext q rkey = some c → s.writeRange (.ctx c) addr data = some t →
        exec (.rdmaWriteInbound h addr rkey data) s = .next (if s.rangeHeld (.ctx c) addr data.length = true
          then { s with guard := { s.guard with heldWrites := s.guard.heldWrites ++ [⟨c, addr, data, none, some h.qpn⟩] } }
          else t.transmit (.roceAck h.qpn))) ∧
    (s.keeper.powerState ≠ 2 → inLp addr = true → inLp (addr + len - 1) = true →
      ∀ c ps m u b, s.rdmaContext q rkey = some c → s.resolveRange (.ctx c) addr len false = some ps → s.readErrors ps none m = (u, b) →
        let d := ps.flatMap fun p => s.read p.1 p.2
        exec (.rdmaReadInbound ⟨h, m⟩ addr rkey len) s = .next (if b = true then u.transmit (.readResponse h.qpn d)
          else ({ u with free := u.free + 1 } : State).transmit (.readResponse h.qpn (slice (Config.freeBytes s.free d) 0 len)))) ∧
    (s.keeper.powerState ≠ 2 →
      ((inWindow q.mb addr data.length = false → (inLp addr = false ∨ s.rdmaContext q rkey = none) →
        exec (.rdmaWriteInbound h addr rkey data) s = .next (s.transmit (.remoteAccessNak h.qpn))) ∧
      ((inLp addr = false ∨ s.rdmaContext q rkey = none) → ∀ m,
        exec (.rdmaReadInbound ⟨h, m⟩ addr rkey len) s = .next (s.transmit (.remoteAccessNak h.qpn)))))

/-- R455: a CE-marked packet is answered with one congestion-notification packet, at most once per CNP_GAP µs per connection; each
notification received halves the send rate, to no less than line rate / 2^FLOOR; each RECOVER µs without one raises it by 1/16 of line
rate, up to line rate. -/
def Obligations.CongestionFollowsR455 : Prop :=
  ∀ (s : State) (h : Roce) (q : Qp), s.arrives h q →
    (exec (.ceMarkedPacket h) s = .next (
      if (∀ t, q.lastCnp = some t → t + bits s.port.cc.toNat 7 0 * 100 ≤ s.now)
      then (s.setQp h.qpn { q with lastCnp := some s.now }).transmit (.cnp h.qpn) else s)) ∧
    (exec (.cnpReceived h) s = .next (s.setQp h.qpn
      { q with rate := max (q.rate / 2) (65536 / 2 ^ bits s.port.cc.toNat 19 16), calm := s.now })) ∧
    (exec (.rateRecoverExpiry h.qpn) s = .next (
      if q.calm + bits s.port.cc.toNat 15 8 * 100 ≤ s.now
      then s.setQp h.qpn { q with rate := min 65536 (q.rate + 65536 / 16), calm := s.now } else s))

/-- An ACK retires the operations it covers and lets the connection send on; a NAK retires those before it and sends the rest again; a
timeout with retries left sends everything outstanding again; the conditions of ERROR take the connection into it. -/
def Obligations.ReliableConnectionsRetry : Prop :=
  ∀ (s : State) (n psn : Nat) (q : Qp), s.qp n = some q → q.error = false →
    (exec (.roceAckReceived n psn false) s = .next ((s.setQp n
      { q with unacked := q.unacked.drop (q.acked psn q.unacked), tries := 0 }).pump n)) ∧
    (∀ r, r = { q with unacked := q.unacked.drop (q.acked ((psn + 2 ^ 24 - 1) % 2 ^ 24) q.unacked) } →
      exec (.roceAckReceived n psn true) s = .next ((s.resend n r).pump n)) ∧
    (∀ u rest, q.unacked = u :: rest → 10 * u.sentAt + 4096 * 2 ^ q.ackT ≤ 10 * s.now →
      (q.tries < q.retry → exec (.roceAckTimeout n) s = .next (s.resend n { q with tries := q.tries + 1 })) ∧
      (q.retry ≤ q.tries → exec (.qpError n .retriesExhausted) s = .next (s.qpFails n q))) ∧
    (q.unacked ≠ [] → exec (.qpError n .remoteAccess) s = .next (s.qpFails n q))

/-- The response to a connection's oldest read, of a kind that the read can have, goes to what asked for it: a polling slot's consumer word,
an admission's prompt, the window or the firmware image of a waiting message, a restore's image; a read whose asker is gone is dropped. A
prompt's read may also complete as such. A HELD slot's poll, when due and over a registration, reads its consumer word. -/
def Obligations.ReadResponsesGoToWhatAsked : Prop :=
  (∀ (s t : State) (n : Nat) (d : ReadData) (why : ReadPurpose), s.takeRead n = some (why, t) → s.answers d why = true →
    exec (.rdmaReadResponse n d) s = .next (match why with
      | .consumer i => t.consumerDone i d
      | .prompt mb => t.takePrompt mb (dataBytes d)
      | .window mb => t.windowDone mb d
      | .firmware mb => t.bootImageDone n mb d
      | .image => t.takeImage d
      | .abandoned => t)) ∧
  (∀ (s t : State) (n mb : Nat) (d : Option (List Byte)), s.takeRead n = some (.prompt mb, t) →
    exec (.promptReadComplete n d) s = .next (t.takePrompt mb d)) ∧
  (∀ (s : State) (i : Nat) (r : Registration), (s.slot i).state = .held → (s.slot i).polling = false →
    (s.slot i).pollAt + s.necPoll.toNat ≤ s.now → s.registration ((s.slot i).ctx + 1) (s.slot i).mirrorReg = some r →
    exec (.consumerPoll i) s = .next ((s.setSlot i { s.slot i with pollAt := s.now, polling := true }).postOp r.qpn
      (.read (r.addr + (s.slot i).consOffset) r.rkey 4 (.consumer i))))

/-- The port's link: a training port comes up with its lanes; one that fails to train at SPEED 0 in its wait falls back; a link that is up
goes down with LINK_DOWN set and its held frames lost; a write of ETH_CTRL takes a legal value and trains anew. A pause frame pauses and
resumes exactly the lossless priorities it enables and sends what no pause holds; ARP, Neighbor Discovery and echo requests for an address
of the port are answered, others not. -/
def Obligations.TheEthernetPortFollowsItsEvents : Prop :=
  ∀ s : State,
    (∀ lanes, s.port.training = true → exec (.ethLinkUp lanes) s =
      .next { s with port := { s.port with up := true, training := false, lanes := lanes } }) ∧
    (s.port.training = true → s.port.up = false → s.port.speed = 0 → s.port.slow = false → s.port.trainAt + s.port.linkWait.toNat ≤ s.now →
      exec .ethLinkWaitExpiry s = .next { s with port := { s.port with
        fault := setBit32 s.port.fault 3, slow := true, trainAt := s.now } }) ∧
    (s.port.up = true → ∃ t, exec .ethLinkDown s = .next t ∧ t.port = { s.port with
        up := false, lanes := 0, paused := 0, waiting := [], fault := setBit32 s.port.fault 1
        training := bitAt s.port.ctrl.toNat 0, trainAt := s.now } ∧ t.mem = s.mem ∧ t.mailboxes = s.mailboxes) ∧
    (∀ v : Word, bits v.toNat 2 1 ≠ 3 → ∃ t, exec (.ethCtrlWrite v) s = .next t ∧ t.port.ctrl = v &&& 7 ∧
      t.port.training = bitAt v.toNat 0 ∧ t.port.slow = (bits v.toNat 2 1 == 2) ∧ (s.port.up = true → t.port.up = false) ∧
      t.port.qps = s.port.qps) ∧
    (∀ v : Word, bits v.toNat 2 1 = 3 → exec (.ethCtrlWrite v) s = .next (s.ignored 0x816000000 none)) ∧
    (∀ (enable : BitVec 8) (quanta : List Nat), ∃ t, exec (.pfcPauseFrame enable quanta) s = .next t ∧
      (∀ k, k < 8 → bitAt t.port.paused.toNat k = (bitAt s.port.pfc.toNat k &&
        if bitAt enable.toNat k = true then (quanta[k]?).getD 0 != 0 else bitAt s.port.paused.toNat k)) ∧
      (∀ w ∈ t.port.waiting, t.port.pauses w.frame = true) ∧
      t.port.sent = s.port.sent ++ (s.port.waiting.filter fun w => !t.port.pauses w.frame).map WaitingFrame.frame ∧
      t.port.qps = s.port.qps) ∧
    (∀ (a b : BitVec 32) (mac : BitVec 48), exec (.arpRequest a b mac) s =
      .next (if s.port.owns false (a.setWidth 128) = true then s.transmit (.arpReply a b mac) else s)) ∧
    (∀ a b : BitVec 128, exec (.neighborSolicitation a b) s =
      .next (if s.port.owns true a = true then s.transmit (.neighborAdvert a b) else s)) ∧
    (∀ (a b : BitVec 128) (v6 : Bool) (d : List Byte), exec (.echoRequest a b v6 d) s =
      .next (if s.port.owns v6 a = true then s.transmit (.echoReply a b v6 d) else s.dropUnmatched))

/-! ### Cores -/

/-- A CORE_START in IDLE or DONE of a core whose table, context and vector-engine slots pass their checks starts its step with every token
counter and loop index at 0 and every queue empty. A CORE_ABORT of a core that is not RETIRED ends dispatch, empties the queues, and leaves
the core IDLE, or ABORTING while started frames run. A token written in IDLE or DONE takes the low 16 bits of its value. -/
def Obligations.CoresStartAndAbort : Prop :=
  ∀ (s : State) (w : CoreWin),
    let p := s.windowCore w
    let c := s.core p
    ((c.mode = .idle ∨ c.mode = .done) → (c.fresh (s.combScalarsOf (combOf p)) s.now).tableOk = true →
      c.contextOk = true → (c.fresh (s.combScalarsOf (combOf p)) s.now).veuOk = true →
      ∃ t, exec (.coreStart w) s = .next t ∧ t = s.setCore p (c.fresh (s.combScalarsOf (combOf p)) s.now) ∧
        (t.core p).mode = .running ∧ (∀ k, (t.core p).token k = 0) ∧ (t.core p).queues = [] ∧ (t.core p).idx = [0, 0, 0, 0] ∧
        (∀ j, j ≠ p → t.core j = s.core j)) ∧
    (∃ t, exec (.coreAbort w) s = .next t ∧ t = s.setCore p c.abort ∧
      (c.mode ≠ .retired → (t.core p).queues = [] ∧ (t.core p).dispatching = false ∧
        (t.core p).mode = (if c.quiet = true then .idle else .aborting))) ∧
    ((c.mode = .idle ∨ c.mode = .done) → ∀ (n : Nat) (v : Word), ∃ t, exec (.coreTokenWrite w n v) s = .next t ∧
      t = s.setCore p { c with tokens := tset c.tokens n (BitVec.ofNat 16 v.toNat) } ∧ (t.core p).token n = v.toNat % 2 ^ 16)

/-- R168, R169, R171 and R212: a START outside IDLE and DONE, a FILL while RUNNING or FILL_BUSY, a token write outside IDLE and DONE, a
fill of no slots or beyond slot 4,095, a vector-engine fill outside IDLE and DONE, of no units or beyond unit 415 have no effect but their
Ledger event; so no fill changes a slot while its core runs. -/
def Obligations.WritesOutOfPlaceAreOnlyCounted : Prop :=
  ∀ (s : State) (w : CoreWin),
    let p := s.windowCore w
    let c := s.core p
    let counted (c : Instr) : Prop := ∃ a u, exec c s = .next { s with ledger := s.ledger.report 0x0005 a u }
    (c.mode ≠ .idle → c.mode ≠ .done → counted (.coreStart w)) ∧
    ((c.mode = .running ∨ c.fillBusy = true) → ∀ m, counted (.frameStoreFill ⟨w, m⟩)) ∧
    (c.mode ≠ .idle → c.mode ≠ .done → ∀ m, counted (.veuFill ⟨w, m⟩)) ∧
    (∀ n v, c.mode ≠ .idle → c.mode ≠ .done → counted (.coreTokenWrite w n v)) ∧
    ((bits c.fsLen.toNat 12 0 = 0 ∨ 4095 < bits c.fsDst.toNat 11 0 + bits c.fsLen.toNat 12 0 - 1) →
      ∀ m, counted (.frameStoreFill ⟨w, m⟩)) ∧
    ((bits c.veuFillLen.toNat 8 0 = 0 ∨ 415 < bits c.veuFillDst.toNat 8 0 + bits c.veuFillLen.toNat 8 0 - 1) →
      ∀ m, counted (.veuFill ⟨w, m⟩)) ∧
    (c.mode = .running → ∀ m, ∃ t, exec (.frameStoreFill ⟨w, m⟩) s = .next t ∧ t.cores = s.cores)

/-- A permitted fill copies its units from device memory into the frame store or the vector engine's store, leaves the other units as they
were, and reads busy; its end clears that. A unit read whole from memory holds the memory's bytes, one at reserved addresses zeros. -/
def Obligations.FillsCopyTheirUnits : Prop :=
  ∀ (s : State) (w : CoreWin),
    let p := s.windowCore w
    let c := s.core p
    (let n := bits c.fsLen.toNat 12 0
      let k := bits c.fsDst.toNat 11 0
      c.mode ≠ .running → c.fillBusy = false → 0 < n → k + n ≤ 4096 →
        (∀ m, exec (.frameStoreFill ⟨w, m⟩) s = .next ((s.setCore p { c with
          fillBusy := true, slotCtx := c.markSlots k n
          frameStore := s.fillUnits (bits c.fsSrc.toNat 47 0) k n c.frameStore }).fillRead (bits c.fsSrc.toNat 47 0) n m)) ∧
        (s.damagedIn [(bits c.fsSrc.toNat 47 0, 64 * n)] = none →
          ∃ t, exec (.frameStoreFill ⟨w, .ok⟩) s = .next t ∧ (t.core p).fillBusy = true ∧ t.mem = s.mem ∧
            (∀ i, i < n → tget (t.core p).frameStore (k + i) = some (s.fillUnit (bits c.fsSrc.toNat 47 0 + 64 * i))) ∧
            (∀ i, (i < k ∨ k + n ≤ i) → tget (t.core p).frameStore i = tget c.frameStore i))) ∧
    (let n := bits c.veuFillLen.toNat 8 0
      let k := bits c.veuFillDst.toNat 8 0
      (c.mode = .idle ∨ c.mode = .done) → 0 < n → k + n ≤ 416 →
        (∀ m, exec (.veuFill ⟨w, m⟩) s = .next ((s.setCore p { c with
          veuFillBusy := true, veuCtx := c.ctx
          veuStore := s.fillUnits (bits c.veuFillSrc.toNat 47 0) k n c.veuStore }).fillRead (bits c.veuFillSrc.toNat 47 0) n m)) ∧
        (s.damagedIn [(bits c.veuFillSrc.toNat 47 0, 64 * n)] = none →
          ∃ t, exec (.veuFill ⟨w, .ok⟩) s = .next t ∧ (t.core p).veuFillBusy = true ∧ t.mem = s.mem ∧
            (∀ i, i < n → tget (t.core p).veuStore (k + i) = some (s.fillUnit (bits c.veuFillSrc.toNat 47 0 + 64 * i))) ∧
            (∀ i, (i < k ∨ k + n ≤ i) → tget (t.core p).veuStore i = tget c.veuStore i))) ∧
    (∀ src, s.damagedIn [(src, 64)] = none → s.fillUnit src = if isMemory src = true then s.read src 64 else zeros 64) ∧
    (∀ j, exec (.frameStoreFillDone j) s = .next (s.setCore j { s.core j with fillBusy := false }) ∧
      exec (.veuFillDone j) s = .next (s.setCore j { s.core j with veuFillBusy := false }))

/-- FRAME_DISPATCH of a sound frame for an engine puts it, with the loop indices, at the tail of that engine's queue, and leaves a full
queue alone; a bad or misplaced frame raises FRAME_BAD; an END whose waits are met, without signals, ends dispatch. -/
def Obligations.DispatchQueuesSoundFrames : Prop :=
  ∀ (s : State) (p : Nat),
    let c := s.core p
    let f := c.slotBytes c.pc
    s.coresClocked = true → c.active = true → c.dispatching = true →
    ((c.misplaced f = true ∨ frameBad c.owned f = true) →
      exec (.frameDispatch p) s = .next (s.raiseFault p false faultFrameBad (faultAtWord c.pc (frEngine f) (frTag f)))) ∧
    (c.misplaced f = false → frameBad c.owned f = false → frEngine f ≠ 6 →
      ((c.queue (frEngine f)).length < 64 → ∃ t, exec (.frameDispatch p) s = .next t ∧
        (t.core p).queue (frEngine f) = c.queue (frEngine f) ++ [⟨c.pc, f, c.idx⟩] ∧ (t.core p).pc = c.pc + 1 ∧
        (∀ e, e ≠ frEngine f → (t.core p).queue e = c.queue e) ∧ (∀ j, j ≠ p → t.core j = s.core j) ∧ t.mem = s.mem) ∧
      (64 ≤ (c.queue (frEngine f)).length → exec (.frameDispatch p) s = .next s)) ∧
    (c.misplaced f = false → frameBad c.owned f = false → frEngine f = 6 → c.waitsMet f = true → frOp f = 3 →
      bitAt (frSignal f) 7 = false → bitAt (frSignal f) 15 = false →
      ∃ t, exec (.frameDispatch p) s = .next t ∧ (t.core p).dispatching = false ∧ (t.core p).pc = c.pc + 1)

/-- R146: a LOAD frame with TRANSPOSE set and FORMAT FP4 raises FRAME_BAD when the sequencer reaches it. -/
def Obligations.LoadNeverTransposesFp4 : Prop :=
  ∀ (s : State) (p : Nat),
    let c := s.core p
    let f := c.slotBytes c.pc
    s.coresClocked = true → c.active = true → c.dispatching = true → frEngine f = 0 → (frOp f = 1 ∨ frOp f = 2) → field f 25 1 = 6 → bitAt (field f 26 1) 0 = true →
    exec (.frameDispatch p) s = .next (s.raiseFault p false faultFrameBad (faultAtWord c.pc (frEngine f) (frTag f)))

/-- R128: a LOOP at a level already open, an ENDLOOP that does not match the innermost open LOOP, and a table whose last frame is not END
raise FRAME_BAD when the sequencer reaches the offending frame. -/
def Obligations.LoopsNestAndTablesEnd : Prop :=
  ∀ (s : State) (p : Nat),
    let c := s.core p
    let f := c.slotBytes c.pc
    let bad := exec (.frameDispatch p) s = .next (s.raiseFault p false faultFrameBad (faultAtWord c.pc (frEngine f) (frTag f)))
    s.coresClocked = true → c.active = true → c.dispatching = true →
    (frEngine f = 6 → frOp f = 1 → (∃ l ∈ c.loops, l.level = field f 16 1) → bad) ∧
    (frEngine f = 6 → frOp f = 2 → (∀ l, c.loops.head? = some l → l.level ≠ field f 16 1) → bad) ∧
    (c.pc = c.header + c.frames → (frEngine f ≠ 6 ∨ frOp f ≠ 3) → bad)

/-- A LOAD frame whose reads meet no uncorrectable error and whose addresses resolve fills its buffer and is started: TILE with the elements
of its tile, transposed where asked; GATHER with the rows that its indices name, transposed where asked; LINEAR with its bytes unchanged. A
TILE whose address does not resolve, or one of whose spill entries does not, raises ADDR_FAULT. -/
def Obligations.LoadFramesFillTheirBuffer : Prop :=
  ∀ (s u : State) (p : Nat) (m : MemOutcome) (q : QFrame), s.readOutcome p 0 q m = (u, true) →
    let f := q.bytes
    let fmt := field f 25 1
    let rows := field f 28 1 + 1
    let cols := field f 29 1 + 1
    let sp := ((u.core p).address q 16).1
    let fill := fun els => u.begun (u.setCore p ((u.core p).putBuf (field f 24 1) fmt els)).bumpFree p 0 q (startedOf q)
    (s.headStarts p 0 1 q → ∀ ps, u.frameRange p q 16 0 (tileBytes fmt) 128 false = .ok ps →
      let g := fun r c => u.tileElem sp ps fmt (frScale f 27) r c
      (field f 26 1 ≠ 1 → u.spillsLost sp ps fmt (List.range rows) = false →
        exec (.loadTile p m) s = .next (fill (elemRows g cols rows))) ∧
      (field f 26 1 = 1 → u.spillsLost sp ps fmt (List.range cols) = false →
        exec (.loadTile p m) s = .next (fill (elemRows (fun r c => g c r) cols rows))) ∧
      (u.spillsLost sp ps fmt (List.range (if field f 26 1 = 1 then cols else rows)) = true →
        exec (.loadTile p m) s = .next (u.faultHead p 0 q false faultAddr))) ∧
    (s.headStarts p 0 2 q → ∀ ixs got,
      (field f 26 1 ≠ 1 → u.frameRange p q 48 0 (4 * rows) 4 false = .ok ixs → u.gatherRows p q ixs cols 0 rows = .ok got →
        exec (.loadGather p m) s = .next (fill got)) ∧
      (field f 26 1 = 1 → u.frameRange p q 48 0 (4 * cols) 4 false = .ok ixs → u.gatherRows p q ixs rows 0 cols = .ok got →
        exec (.loadGather p m) s = .next (fill (elemRows (fun r c => rowElem got fmt c r) cols rows)))) ∧
    (s.headStarts p 0 3 q → ∀ ps, u.frameRange p q 16 0 (64 * cols) 64 false = .ok ps →
      exec (.loadLinear p m) s = .next (u.begun (u.setCore p ((u.core p).putBytes (field f 24 1) u.free
        (u.pieceRead ps 0 (64 * cols)))).bumpFree p 0 q (startedOf q))) ∧
    (s.headStarts p 0 1 q → u.frameRange p q 16 0 (tileBytes fmt) 128 false = .error faultAddr →
      exec (.loadTile p m) s = .next (u.faultHead p 0 q false faultAddr))

/-- A STORE frame that no capping holds and whose reads meet no uncorrectable error moves its data by its operation: where that succeeds, its
fingerprint terms are entered and it is started; where it stops on a fault, what it had written stays and the fault is raised; where
capping holds its spill area, it waits. STORE LINEAR writes its buffer's bytes unchanged. A STORE whose tiles capping holds waits. -/
def Obligations.StoreFramesWriteTheirRows : Prop :=
  ∀ (s u : State) (p : Nat) (m : MemOutcome) (q : QFrame),
    (s.storeHeld p q = false → s.readOutcome p 1 q m = (u, true) →
      let moves := fun (op : Nat) (i : Instr) (r : Except StoreStop (State × Started)) => s.headStarts p 1 op q →
        (∀ t x, r = .ok (t, x) → let w := t.fingerprintFrame p q
          exec i s = .next ((w.begun w p 1 q x).bumpFree)) ∧
        (∀ t bit, r = .error (t, bit) → bit ≠ heldWrite → exec i s = .next ((t.faultHead p 1 q false bit).bumpFree))
      moves 1 (.storeTile ⟨p, m⟩) (u.storeTile p q) ∧ moves 2 (.storeScatter p m) (u.storeScatter p q) ∧
        moves 3 (.storeScatterAdd p m) (u.storeScatterAdd p q) ∧
        (s.headStarts p 1 1 q → ∀ t, u.storeTile p q = .error (t, heldWrite) → exec (.storeTile ⟨p, m⟩) s = .next s) ∧
        (s.headStarts p 1 2 q → ∀ t, u.storeScatter p q = .error (t, heldWrite) → exec (.storeScatter p m) s = .next s)) ∧
    (s.storeHeld p q = false → s.headStarts p 1 4 q →
      let n := 64 * (field q.bytes 29 1 + 1)
      (∀ ps, s.frameRange p q 16 0 n 64 true = .ok ps →
        let w := (s.writePieces ps (((s.core p).buf (field q.bytes 24 1)).byteList s.free n)).fingerprintFrame p q
        exec (.storeLinear p) s = .next ((w.begun w p 1 q (startedOf q)).bumpFree)) ∧
      (s.frameRange p q 16 0 n 64 true = .error faultAddr →
        exec (.storeLinear p) s = .next ((s.faultHead p 1 q false faultAddr).bumpFree))) ∧
    (s.storeHeld p q = true → s.head p 1 = some q →
      exec (.storeTile ⟨p, m⟩) s = .next s ∧ exec (.storeScatter p m) s = .next s ∧ exec (.storeScatterAdd p m) s = .next s ∧
        exec (.storeLinear p) s = .next s)

/-- A STORE TILE of a sound frame writes no byte of memory outside the device pieces of its tile and, with RETRY set, outside those of the
count and the SPILL_CAP entries of its spill area; it changes no core. -/
def Obligations.StoreTileWritesItsTileOnly : Prop :=
  ∀ (s t : State) (p : Nat) (q : QFrame) (x : Started) (ps : List (Nat × Nat)),
    s.frameRange p q 16 0 (tileBytes (field q.bytes 25 1)) 128 true = .ok ps →
    1 ≤ field q.bytes 25 1 → field q.bytes 25 1 ≤ 7 → field q.bytes 28 1 ≤ 127 → s.storeTile p q = .ok (t, x) →
    let outside := fun (a : Nat) (ds : List (Nat × Nat)) => (ds.all fun d => decide (a < d.1) || decide (d.1 + d.2 ≤ a)) = true
    t.cores = s.cores ∧ ∀ a, outside a ps →
      (bitAt (field q.bytes 26 1) 0 = true → ∀ off n ds, off + n ≤ 256 * (field q.bytes 40 4 + 1) →
        s.frameRange p q 32 off n 8 true = .ok ds → outside a ds) →
      memGet t.mem a = memGet s.mem a

/-- XFER COPY, its reads without an uncorrectable error, writes its source's bytes to its destination, to which the spill areas named at its
source then belong, and is started; one that capping holds waits. LINK_COPY, its link up and matched, starts and waits for its DONE packet,
and faults with LINK_DOWN where the link is down or unmatched. -/
def Obligations.XferFramesCopy : Prop :=
  ∀ (s u : State) (p : Nat) (m : MemOutcome) (q : QFrame), s.readOutcome p 2 q m = (u, true) →
    (s.headStarts p 2 1 q → s.frameHeld p q 24 0 (field q.bytes 32 4) = false →
      ∀ src dst, u.frameRange p q 16 0 (field q.bytes 32 4) 64 false = .ok src →
        u.frameRange p q 24 0 (field q.bytes 32 4) 64 true = .ok dst →
        exec (.copy p m) s = .next (u.begun ((u.writePieces dst (src.flatMap fun d => u.read d.1 d.2)).moveSpills src dst
          (field q.bytes 32 4)) p 2 q (startedOf q))) ∧
    (s.headStarts p 2 1 q → s.frameHeld p q 24 0 (field q.bytes 32 4) = true → exec (.copy p m) s = .next s) ∧
    (s.headStarts p 2 2 q → ∀ src, u.frameRange p q 16 0 (field q.bytes 32 4) 64 false = .ok src →
      let l := u.link (bits (field q.bytes 36 1) 1 0)
      (l.up = true → l.matched = true → ∃ (t v : State) (x : Started), exec (.linkCopy p m) s = .next t ∧ t = u.begun v p 2 q x ∧
        x.awaits = some u.cascade.nextTag ∧ (v.cascade.transfers.any fun y => y.tag == u.cascade.nextTag && y.core == p) = true) ∧
      ((l.up = false ∨ l.matched = false) → exec (.linkCopy p m) s = .next (u.faultHead p 2 q false faultLink)))

/-- MMA with the expected KSEQ leaves its accumulator with its products added, FIN leaves it finished, CHAIN leaves what its stages make of
it; each frame is started. A wrong KSEQ raises KSEQ, a chain that fails its checks the fault of the check. -/
def Obligations.MatrixAndVectorFramesCompute : Prop :=
  ∀ (s : State) (p : Nat) (e : Engine) (q : QFrame), matrixOk e = true →
    let f := q.bytes
    let c := s.core p
    let a := c.acc (field f 18 1)
    (s.headStarts p (engineCode e) 1 q → a.kseqOk f = true →
      let b := a.mma f (c.buf (field f 16 1)) (c.buf (field f 17 1)) s.free
      exec (.mma p e) s = .next ((s.begun (s.setCore p (c.setAcc (field f 18 1) b)) p (engineCode e) q (startedOf q)).bumpFree)) ∧
    (s.headStarts p (engineCode e) 1 q → a.kseqOk f = false →
      exec (.mma p e) s = .next ((s.faultHead p (engineCode e) q false faultKseq).bumpFree)) ∧
    (s.headStarts p (engineCode e) 2 q →
      exec (.fin p e) s = .next (s.begun (s.setCore p (c.setAcc (field f 18 1) a.fin)) p (engineCode e) q (startedOf q))) ∧
    (s.head p 5 = some q →
      let d := c.chainBytes (field f 16 1)
      (chainOk c f d = true → field d 2 2 = bits c.context.toNat 8 0 → (chainReads f d).all c.veuReadable = true →
        let r := (ChainRun.mk c f d (s.drawKey c) s.free).result
        exec (.chain p) s = .next (((s.begun (s.setCore p { c with bufs := tset c.bufs (field f 20 1) r.1 }) p 5 q
          { startedOf q with flags := r.2 }).bumpFree).bumpFree)) ∧
      (∀ bit, s.chainFrame p q = .error bit → exec (.chain p) s = .next (s.faultHead p 5 q true bit)))

/-- The oldest started frame of an engine that awaits no packet completes: its lane flags are ORed in, its watch counts entered, its remote
signal sent, then its own signals applied unless that was refused; one without them changes nothing else but its core's mode. A wait unmet
for CORE_WAIT_LIMIT ticks raises WAIT_TIMEOUT, and not before. -/
def Obligations.FramesCompleteAndWaitsExpire : Prop :=
  ∀ (s : State) (p : Nat) (e : Engine),
    let c := s.core p
    let k := engineCode e
    (∀ x rest, s.coresClocked = true → c.running k = x :: rest → x.awaits = none →
      let c1 := { c with
        started := tset c.started k rest
        veuFlags := c.veuFlags ||| BitVec.setWidth 32 x.flags, veuFlagsStep := c.veuFlagsStep ||| BitVec.setWidth 32 x.flags }
      let r := ((s.setCore p c1).enterWatch p x).remotePart p x
      exec (.frameComplete p e) s = .next ((r.1.ownSignals p x r.2).setCore p ((r.1.ownSignals p x r.2).core p).settle)) ∧
    (∀ x rest, s.coresClocked = true → c.running k = x :: rest → x.awaits = none → x.watch = none → bitAt (frSignal x.frame.bytes) 7 = false →
      bitAt (frSignal x.frame.bytes) 15 = false → frEngine x.frame.bytes ≠ 2 →
      ∃ t, exec (.frameComplete p e) s = .next t ∧ (t.core p).running k = rest ∧
        (t.core p).veuFlags = c.veuFlags ||| BitVec.setWidth 32 x.flags ∧
        (t.core p).veuFlagsStep = c.veuFlagsStep ||| BitVec.setWidth 32 x.flags ∧ t.mem = s.mem ∧ (∀ j, j ≠ p → t.core j = s.core j)) ∧
    (∀ f, c.taker k = some f → c.active = true → c.waitsMet f = false → c.waitLimit ≠ 0 →
      (tgetD c.headSince k 0 + c.waitLimit.toNat ≤ s.now → ∃ at', exec (.waitTimeout p e) s =
        .next (s.raiseFault p false faultWait at')) ∧
      (s.now < tgetD c.headSince k 0 + c.waitLimit.toNat → exec (.waitTimeout p e) s = .next s))

/-- A fault of a core or of its vector engine sets its bit, stops dispatch, keeps the first fault's place, and leaves the core FAULTED: at
once where no started frame is left, else once the last of them has completed. It changes no other core and no memory. -/
def Obligations.FaultsStopTheCore : Prop :=
  ∀ (s : State) (p bit : Nat) (veu : Bool) (at' : Word), bit < 32 →
    let c := s.core p
    let d := (s.raiseFault p veu bit at').core p
    bitAt (if veu = true then d.veuFault else d.fault).toNat bit = true ∧ d.dispatching = false ∧ d.active = false ∧
      d.faultAt = (if c.faulting = true then c.faultAt else at') ∧
      (c.mode ≠ .retired → c.quiet = true → d.mode = .faulted) ∧
      ((c.mode = .running ∨ c.mode = .aborting) → ∀ st, ({ d with started := st } : Core).quiet = true →
        ({ d with started := st } : Core).settle.mode = .faulted) ∧
      (∀ j, j ≠ p → (s.raiseFault p veu bit at').core j = s.core j) ∧ (s.raiseFault p veu bit at').mem = s.mem

/-! ### Memory, flash and registers -/

/-- MEM_INVAL stores its fields and MEM_INVAL_DONE clears START; a permitted MEM_ZERO leaves its range reading 0, every other byte as it
was, and START set until MEM_ZERO_DONE; one that R223 does not permit is ignored and counted. -/
def Obligations.MemoryCommandsTakeEffect : Prop :=
  ∀ s : State,
    (∀ v : Word, exec (.memInval v) s = .next { s with memCtl := { s.memCtl with
      inval := (v &&& 0x800003FF) ||| (s.memCtl.inval &&& 0x80000000) } }) ∧
    (∃ t, exec .memInvalDone s = .next t ∧ bitAt t.memCtl.inval.toNat 31 = false ∧
      bits t.memCtl.inval.toNat 9 0 = bits s.memCtl.inval.toNat 9 0 ∧ t = { s with memCtl := { s.memCtl with inval := t.memCtl.inval } }) ∧
    (∃ t, exec .memZeroDone s = .next t ∧ bitAt t.memCtl.zeroCtrl.toNat 31 = false ∧
      bits t.memCtl.zeroCtrl.toNat 17 0 = bits s.memCtl.zeroCtrl.toNat 17 0 ∧
      t = { s with memCtl := { s.memCtl with zeroCtrl := t.memCtl.zeroCtrl } }) ∧
    (∀ v : Word,
      let n := bits v.toNat 17 0
      let a := bits s.memCtl.zeroAddr.toNat 47 0
      let last := if inSram a = true then sramEnd else lpEnd
      (bitAt v.toNat 31 = false → bitAt s.memCtl.zeroCtrl.toNat 31 = false →
        exec (.memZero v) s = .next { s with memCtl := { s.memCtl with zeroCtrl := v &&& 0x3FFFF } }) ∧
      (bitAt v.toNat 31 = true → zeroUnit a = none → exec (.memZero v) s = .next (s.ignored regMemZeroCtrl none)) ∧
      (∀ u, bitAt v.toNat 31 = true → zeroUnit a = some u →
        ((bitAt s.memCtl.zeroCtrl.toNat 31 = true ∨ n = 0 ∨ last < a + n * u) →
          exec (.memZero v) s = .next (s.ignored regMemZeroCtrl none)) ∧
        (bitAt s.memCtl.zeroCtrl.toNat 31 = false → 0 < n → a + n * u ≤ last → s.guard.cap = none →
          ∃ t, exec (.memZero v) s = .next t ∧ bitAt t.memCtl.zeroCtrl.toNat 31 = true ∧
            (∀ b, a ≤ b → b < a + n * u → memGet t.mem b = 0) ∧
            (∀ b, (b < a ∨ a + n * u ≤ b) → s.Inv → memGet t.mem b = memGet s.mem b) ∧
            t = { s with mem := t.mem, memCtl := t.memCtl })))

/-- A scrub read, due and not paused, reads its unit's next word: a clean one changes nothing but the unit's place; a corrected one is counted
and entered, and one corrected again has its granule marked; an uncorrectable one is reported, and MEM_ERR_ADDR captures its address where
none is captured yet. A patrol read that is due counts its extent's read and its errors by codeword, and an extent that needs soft decoding
or has been read 100,000 times is relocated where its channel has room. A finished relocation and a finished PACK_WRITE bring the new extents
into use. -/
def Obligations.BackgroundReadsTakeEffect : Prop :=
  ∀ s : State,
    (∀ lp n, let u := scrubUnit lp n
      u < 640 → s.memCtl.scrubPaused = false → s.scrubDue u = true →
      let d := scrubAddr u (tgetD s.memCtl.scrubAt u 0)
      let v := s.scrubAdvance u
      let cleared := v.memCtl.soft.filter fun w => w != d
      (s.damagedIn [(d, scrubStep u)] = none →
        (∀ raced, exec (.scrubRead lp n .ok raced) s = .next { v with memCtl := { v.memCtl with soft := cleared } }) ∧
        ((s.memCtl.soft.contains d) = false → (s.memCtl.soft.contains (codeWord d)) = false → ∃ t,
          exec (.scrubRead lp n .corrected false) s = .next t ∧
          t.memCtl.ceCount = (if inSram d = true then addLow s.memCtl.ceCount 1 else addHigh s.memCtl.ceCount 1) ∧
          t.ledger = s.ledger.report (if inSram d = true then 0x0100 else 0x0110) 1 (s.errorUnit d) ∧ d ∈ t.memCtl.soft ∧
          t.memCtl.scrubAt = v.memCtl.scrubAt ∧ t = { s with memCtl := t.memCtl, ledger := t.ledger }) ∧
        ((s.memCtl.soft.contains d) = true → (s.memCtl.soft.contains (codeWord d)) = true → ∃ w : State,
          w = { v.memCorrected d with memCtl := w.memCtl } ∧
          ∀ raced, exec (.scrubRead lp n .corrected raced) s = .next ((w.markGranule d).retireDue))) ∧
      (∀ m raced, (m = .uncorrectable ∨ (s.damagedIn [(d, scrubStep u)]).isSome = true) → ∃ t,
        exec (.scrubRead lp n m raced) s = .next t ∧ t = v.memUncorrectable d true none ∧
        t.memCtl.errAddr = (if bitAt s.memCtl.errInfo.toNat 0 = true then s.memCtl.errAddr else BitVec.ofNat 64 d))) ∧
    (∀ lp n m raced, (s.memCtl.scrubPaused = true ∨ s.scrubDue (scrubUnit lp n) = false) → exec (.scrubRead lp n m raced) s = .next s) ∧
    (∀ e o, s.store.ready = true → e < extentCount →
      let n := tgetD s.store.reads e 0 + 1
      (s.patrolDue e = false → exec (.patrolRead e o) s = .next s) ∧
      (s.patrolDue e = true → ∃ t, exec (.patrolRead e o) s = .next t ∧ t.store.reads = tset s.store.reads e n ∧
        t.store.patrolled = tset s.store.patrolled e s.ledger.seconds ∧ t.store.packs = s.store.packs ∧ t.mem = s.mem ∧
        t.store.errCount = addHigh (addLow s.store.errCount o.soft) o.bad ∧
        (o.soft = 0 → n < 100000 → t.store.relocating = s.store.relocating) ∧
        ((0 < o.soft ∨ 100000 ≤ n) → s.store.holds e = true → (s.store.relocating.any fun r => r.1 == e) = false →
          ∀ x, gapOnChannel s.store.usedExtents (channelOf e) (s.store.usedExtents.length + 1) = some x →
          t.store.relocating = s.store.relocating ++ [(e, x)]))) ∧
    (∀ e x, s.store.relocating.find? (fun r => r.1 == e) = some (e, x) → ∃ t, exec (.relocationDone e) s = .next t ∧
      t.store.packs = s.store.packs.map (fun p => (p.1, p.2.moveExtent e x)) ∧
      t.store.relocating = s.store.relocating.filter (fun y => y.1 != e) ∧
      t = { s with store := t.store, ledger := s.ledger.report 0x0122 1 (channelOf e) }) ∧
    (∀ id w, s.store.writing.find? (fun x => x.packId == id) = some w → ∃ u : State, exec (.packWriteComplete id) s =
        .next (u.finish w.ticket stDone 0 0) ∧ tget u.store.packs id = some w.pack ∧
      (∀ k, k ≠ id → tget u.store.packs k = tget s.store.packs k) ∧ u = { s with store := u.store })

/-- The control-register commands: a mode write applies its mode where no turn and no load runs and is ignored elsewhere; DL_CTRL's bits
enable the links or fence them; a kick in time marks its cores; a watchdog period below the least is ignored; a lock write sets bits and
clears none; a DVFS write stores its fields; a slot entry is taken at D2 with the builder disabled only, and from no comb. -/
def Obligations.ControlWritesTakeEffect : Prop :=
  ∀ (s : State) (v : Word),
    (exec (.trnModeWrite v) s = .next (if s.turns.turn.isSome = true ∨ s.loadingNow = true then s.ignored regTrnCtrl none
      else s.applyMode (bitAt v.toNat 0))) ∧
    exec .dlEnable s = .next { s with cascade := { s.cascade with enable := true } } ∧
    exec .dlFence s = .next ((((s.fenceLink 0 3).fenceLink 1 3).fenceLink 2 3).fenceLink 3 3) ∧
    (∀ a, s.keeper.wdogArmed = some a → s.now < a + s.keeper.wdogCfg.toNat → exec (.wdogKick v) s =
      .next { s with keeper := { s.keeper with kicks := s.keeper.kicks ||| BitVec.ofNat 4 v.toNat } }) ∧
    (exec (.wdogCfgWrite v) s = .next (if v.toNat < 100000 then s.ignored regWdogCfg none
      else { s with keeper := { s.keeper with wdogCfg := v } })) ∧
    (∃ t, exec (.prpLockWrite v) s = .next t ∧ (∀ k, k < 3 →
        bitAt t.propolis.lock.toNat k = (bitAt s.propolis.lock.toNat k || bitAt v.toNat k)) ∧
      t = { s with propolis := { s.propolis with lock := t.propolis.lock, partitioned := t.propolis.partitioned } }) ∧
    (∃ t, exec (.clkDvfsWrite v) s = .next t ∧ t.power.request = bits v.toNat 1 0 ∧ t.power.hostCeil = bits v.toNat 3 2 ∧
      t = { s with power := t.power }) ∧
    (∀ (agent : Agent) (i : Nat) (entry : List Byte), exec (.brdSlotWrite agent i entry) s = .next (
      if agent ≠ .comb ∧ s.propolis.level = 2 ∧ bitAt s.brdCtrl.toNat 0 = false
      then s.setSlot i ((s.slot i).ofBytes (s.creg (bits (field entry 8 2) 8 0)) entry) else s.ignored (regBrdSlot i) none))

/-- A register write from an agent that reaches its address is taken by the register that lies there, or is ignored and counted where none
lies; a read where none lies is counted; other agents do nothing, but that their write of a Brood entry is counted. NEC_POLL written by the
Keeper reads back the low 32 bits. The test port takes nothing while the module is unclocked; IDCODE reads IDCODE; below D2 a debug read
gives 0 and a debug write does nothing; at D2, in P0 and P1, they read and write device memory. -/
def Obligations.RegisterAccessesTakeEffect : Prop :=
  ∀ (s : State) (agent : Agent) (addr : Nat) (v : Long),
    (s.reaches agent addr = true → ∀ t, s.regWrite agent addr v = some t → exec (.registerWrite agent addr v) s = .next t) ∧
    (s.reaches agent addr = true → s.regWrite agent addr v = none →
      exec (.registerWrite agent addr v) s = .next (s.ignored addr (s.accessUnit addr))) ∧
    (s.reaches agent addr = true → s.regRead addr = none →
      exec (.reservedAddressRead agent addr) s = .next (s.ignored addr (s.accessUnit addr))) ∧
    (s.reaches agent addr = false → exec (.reservedAddressRead agent addr) s = .next s ∧
      exec (.registerWrite agent addr v) s = .next (if regBrdSlot 0 ≤ addr ∧ addr < regBrdSlot 16384 then s.ignored addr none else s)) ∧
    (∃ t, exec (.registerWrite .keeper 0x811000000 v) s = .next t ∧ t.regRead 0x811000000 = some (v.toNat % 2 ^ 32) ∧
      t = { s with necPoll := t.necPoll }) ∧
    (s.clocked = false → ∀ op, exec (.jtagInstruction op) s = .next s) ∧
    (s.clocked = true →
      exec (.jtagInstruction .idcode) s = .next { s with pins := { s.pins with
        jtag := .idcode, jtagOut := some (Config.idcode.setWidth 64) } } ∧
      (s.propolis.level ≠ 2 → exec (.jtagInstruction (.read addr)) s = .next { s with pins := { s.pins with
          jtag := .bypass, jtagOut := some 0 } } ∧
        exec (.jtagInstruction (.write addr v)) s = .next { s with pins := { s.pins with jtag := .bypass, jtagOut := none } }) ∧
      (s.propolis.level = 2 → isMemory addr = true → s.keeper.powerState ≠ 2 →
        exec (.jtagInstruction (.read addr)) s = .next { s with pins := { s.pins with
          jtag := .read addr, jtagOut := some (BitVec.ofNat 64 (leNat ((List.range 8).map fun k => s.debugByte (addr + k)))) } } ∧
        ∃ t, exec (.jtagInstruction (.write addr v)) s = .next t ∧ t.mem = memWrite s.mem addr (leBytes 8 v.toNat)))

/-! ### Guard and capping -/

/-- A mismatch in a hardened register is counted and enters its block's CFG_MISMATCH; a lost copy ends running work with MEM_ERROR, fences
the links and is posted. A suspect core whose comb rests is tested, or retired at its fourth suspicion; a pass clears it, a failure retires
it: its comb's free spare takes its position, its slice being copied, or without one the module enters DEGRADED. -/
def Obligations.HardenedRegistersAndSelfTests : Prop :=
  ∀ s : State,
    (∀ a b, s.hardened a = some b → ∃ t, exec (.cfgMismatch a) s = .next t ∧ t.guard.cfgFixes = s.guard.cfgFixes + 1 ∧ t.mem = s.mem ∧
      t.ledger = (s.markCfg b).ledger.report 0x0402 a noUnit) ∧
    (∀ a, s.hardened a = none → exec (.cfgMismatch a) s = .next s ∧ exec (.cfgLost a) s = .next s) ∧
    (∀ a, (s.hardened a).isSome = true →
      let w : State := { s.report 0x0403 a noUnit with guard := { s.guard with cfgLost := true, fault := setBit32 s.guard.fault 1 } }
      let f := ((List.range 4).foldl (fun (t : State) k => t.fenceLink k 3) (w.abortAll.endRunning stMem)).fresh
      exec (.cfgLost a) s = .next (f.2.eventAdmin 0x0001 a (f.1 % 2))) ∧
    (∀ p, p ∈ s.guard.suspects → p ∉ s.guard.testing → s.combRests (combOf p) = true → s.keeper.mode = .running →
      (tgetD s.guard.suspicions p 0 < 4 → ∀ lost, exec (.coreSelfTest ⟨p, lost⟩) s =
        .next { s with guard := { s.guard with testing := ninsert s.guard.testing p } }) ∧
      (4 ≤ tgetD s.guard.suspicions p 0 → ∀ lost, exec (.coreSelfTest ⟨p, lost⟩) s = .next (s.failCore p lost))) ∧
    (∀ p lost, p ∈ s.guard.testing →
      exec (.coreSelfTestDone ⟨p, lost⟩ false) s = .next (s.failCore p lost) ∧
      ∃ t, exec (.coreSelfTestDone ⟨p, lost⟩ true) s = .next t ∧ p ∉ t.guard.suspects ∧ p ∉ t.guard.testing ∧
        t = { s with guard := { s.guard with suspects := t.guard.suspects, testing := t.guard.testing } }) ∧
    (∀ p c lost, s.servedBy p = some c →
      (s.spareFree (combOf p) = true → ∃ v : State, s.failCore p lost = v.copySlice c lost ∧
        v.positionCore c = 17 * combOf p + 16 ∧ v.isRetired p = true ∧ (v.core p).mode = .retired ∧ v.mem = s.mem ∧
        (∀ d, d ≠ c → v.positionCore d = s.positionCore d)) ∧
      (s.spareFree (combOf p) = false → ∃ v : State, s.failCore p lost = v.degrade))

/-- A capture in CAPTURING protects its context where nothing of it runs; each visible copy sends its granule, which is protected no more, and
the writes that waited for it go on; a copy that fails ends the capture with its status, one that meets an uncorrectable word after that is
reported; a write to a protected range is held once; the parts of a capture and of a restore are counted and end it. -/
def Obligations.CapturesCopyAndEnd : Prop :=
  ∀ (s : State) (c : Capping), s.guard.cap = some c →
    (c.state = .capturing → c.begun = false → s.ctxRunning c.ctx = false → s.learningStep c.ctx = false →
      exec .capturePoint s = .next (s.protectCtx c)) ∧
    (c.state = .capturing → c.begun = true → ∀ a rest, c.left = a :: rest →
      (s.copyOutcome c a .visible = .visible → exec (.capGranuleCopyDone .visible) s = .next ((s.copyGranule c a).settleHeld)) ∧
      (∀ o w, s.copyOutcome c a o = .uncorrectable w →
        exec (.capGranuleCopyDone o) s = .next ((s.memUncorrectable w false (some c.ctx)).endCapture c stMem)) ∧
      ∀ o st, (∀ w, s.copyOutcome c a o ≠ .uncorrectable w) → copyStatus (s.copyOutcome c a o) = some st →
        exec (.capGranuleCopyDone o) s = .next (s.endCapture c st)) ∧
    (c.state = .capturing → ∀ addr, addr / 0x10000 * 0x10000 ∈ c.left →
      s.copyOutcome c (addr / 0x10000 * 0x10000) .visible = .visible → exec (.capFirstTouchCopyDone c.ctx addr .visible) s =
      .next ((State.copyGranule { s with guard := { s.guard with touch := s.guard.touch + 1 } } c (addr / 0x10000 * 0x10000)).settleHeld)) ∧
    (∀ (a pos : Nat), ((s.copyGranule c a).guard.cap.any fun k => k.left == c.left.filter (fun x => x != a)) = true ∧
      (c.state = .capturing → c.begun = true → s.reportsPart c pos = true → pos = s.position → c.left = [] →
        exec (.captureEnd pos) s = .next ((s.sendPart c 0 (s.capHeader c)).partDone c pos fun t k => t.endCapture k stDone)) ∧
      (c.state = .capturing → c.begun = true → s.reportsPart c pos = true → pos ≠ s.position →
        exec (.captureEnd pos) s = .next (s.partDone c pos fun t k => t.endCapture k stDone)) ∧
      (c.state = .restoring → s.reportsPart c pos = true → (pos = s.position → c.begun = true ∧
          (s.turns.loads.any fun l => l.restore && l.ticket.ctx == c.ctx) = false) →
        exec (.restoreEnd pos) s = .next (s.partDone c pos fun t k => t.endRestore k stDone))) ∧
    (∀ n addr data, s.rangeHeld (.ctx n) addr data.length = true →
      exec (.wpWriteHeld .keeper n addr data) s = .next { s with guard := { s.guard with
        heldWrites := s.guard.heldWrites ++ [⟨n, addr, data, none, none⟩] } } ∧
      ∀ q, (∀ h ∈ s.guard.heldWrites, h.ctx = n → h.addr = addr → h.data ≠ data) →
        exec (.wpWriteHeld (.rdma q) n addr data) s = .next { s with guard := { s.guard with
          heldWrites := s.guard.heldWrites ++ [⟨n, addr, data, none, some q⟩] } })

/-! ### Generation steps -/

/-- The builder, where it may build on resting combs, makes a step for the context it chooses; a built step, or the next core step of a
learning step, starts on its cores where it may; a row of the step's items is sampled once, by the queen; ended cores hand over their flags
and faults, a member's as its report, which makes its cores suspect after a fault that no lost data explains; the queen decides the run
once every member has reported and its rows are sampled or it is bad; the commit applies its items; the boundary ends it. A share window's end moves the usage of the window before. -/
def Obligations.GenerationStepsRun : Prop :=
  (∀ (s : State) (n : Nat) (t : GenStep), s.genStep n = some t →
      (t.phase = .built → s.mayStart (s.creg n).combs = true → s.invalWaits n = false → exec (.stepStart n) s =
        .next (((s.startStamp t.stamp).tellAll kmStepStart t.message).startGenRun t).releaseHeld) ∧
      (t.phase = .running → s.runEnded (s.maskCores t.mask) = true →
        let r := s.gather (s.maskCores t.mask)
        let u := s.setStep { t with
          phase := .coresDone, flags := r.flags, faultBits := r.bits, veuFaultBits := r.veuBits, watches := r.watches
          faultAt := if t.faultAt = 0 then r.at' else t.faultAt }
        let v := if (s.endReport t r).suspect = true then (s.maskCores t.mask).foldl State.suspect u else u
        exec (.stepCoresDone n) s = .next (if s.isQueen = true then u
          else (if r.faulted = true then v.clearCores (s.maskCores t.mask) else v).tell s.queenPos kmStepEnd
            (leBytes 4 t.stamp.toNat ++ endBytes (s.endReport t r)))) ∧
      (t.phase = .coresDone → s.isQueen = true → t.ends.length + 1 = s.groupSize → (s.allSampled t = true ∨
          (s.gather (s.maskCores t.mask)).faulted = true ∨ (t.ends.any fun e => e.2.faulted) = true) →
        exec (.generationGuardDecision n) s = .next (s.decideRun t (s.gather (s.maskCores t.mask)))) ∧
      (t.phase = .decided → exec (.stepCommit n) s = .next (State.setStep
        (t.ending.foldl (fun u e => u.closeSlot e.1 e.2) (s.commitItems t 0 t.items)) { t with phase := .committed })) ∧
      ((t.phase = .committed ∨ t.phase = .failed) → exec (.stepBoundary n) s = .next (s.queenBoundary t)) ∧
      (t.phase = .coresDone → s.isQueen = false → exec (.stepBoundary n) s = .next ((s.dropStep t).afterStep n))) ∧
  (∀ (s : State) (n : Nat) (t : LearnStep) (p : Package), s.genStep n = none → s.learnStep n = some t →
      (s.mayStart (s.creg n).combs = true → s.invalWaits n = false → s.learnPackage n t.plan.package = some p → t.running = false →
        t.status = 0 → t.faulted = false → (t.redoing = true → s.guard.suspects = []) → s.combsIdle (s.creg n).combs = true →
        exec (.stepStart n) s = .next (s.startLearn t p)) ∧
      (t.running = true → s.runEnded (s.maskCores (s.creg n).combs) = true →
        exec (.stepCoresDone n) s = .next (s.learnDone t (s.gather (s.maskCores (s.creg n).combs))))) ∧
  (∀ s : State,
      (∀ (mask : Word) (c : Nat) (due : List Nat) (x : Ctx) (key : Nat × Nat) (l : Loaded), s.mayBuild = true →
        s.combsIdle mask = true → s.chooseContext mask = some (c, due) → s.ctx c = some x → s.chooseKey x due = some key →
        tget x.packages key.1 = some l → (s.buildList c l.package key due).items ≠ [] →
        exec (.buildWorkList mask) s = .next (s.makeStep c x key mask due (s.buildList c l.package key due))) ∧
      (∀ (mask : Word), s.mayBuild = true → s.combsIdle mask = true → s.chooseContext mask = none →
        exec (.buildWorkList mask) s = .next s) ∧
      (∀ (k slot row : Nat) (t : GenStep) (w : WorkItem) (p : Package),
        s.steps.find? (fun t => (t.phase == .running || t.phase == .coresDone) && t.items.any fun w => w.slot == slot) = some t →
        t.items.find? (fun w => w.slot == slot) = some w → s.stepPackage t = some p → s.isQueen = true → s.samplerServes k t = true → s.rowSampled w row = true →
        ((∀ x ∈ t.samples, x.slot = slot → x.row ≠ row) → exec (.sampleRow k slot row) s = .next (s.takeRow t p w row)) ∧
        ((∃ x ∈ t.samples, x.slot = slot ∧ x.row = row) → exec (.sampleRow k slot row) s = .next s)) ∧
      (s.shareWindow < s.now / 1000000 → ∃ t, exec .shareWindowEnd s = .next t ∧ t.shareWindow = s.now / 1000000 ∧
        (∀ n r, tget s.ctxRegs n = some r → (t.creg n).usagePrev = (if s.shareWindow + 1 = s.now / 1000000 then r.usage else 0) ∧
          (t.creg n).usage = 0 ∧ (t.creg n).cfg = r.cfg) ∧
        t = { s with shareWindow := t.shareWindow, ctxRegs := t.ctxRegs }) ∧
      (s.now / 1000000 ≤ s.shareWindow → exec .shareWindowEnd s = .next s))

/-! ### Learning steps -/

/-- Orders and reports between a queen and her members: a member that may start takes a step start message of its epoch, of a generation step
or of a learning step; a queen takes one STEP_END report from each member, one STAGED report from each position, her own once her passes
are done, and the replay results she awaits, and sends the clip factor once her last pass has ended; a member takes each replay order once. -/
def Obligations.GroupStepMessagesTakeEffect : Prop :=
  (∀ (s : State) (pos stamp : Nat) (r : StepEndReport) (t : GenStep), s.isQueen = true → pos ∈ s.others →
      s.steps.find? (fun t => t.stamp.toNat == stamp && (t.phase == .running || t.phase == .coresDone)) = some t →
      (tget t.ends pos = none → exec (.stepEnd pos s.cascade.epoch.toNat stamp r) s =
        .next (s.setStep { t with ends := tset t.ends pos r })) ∧
      ((tget t.ends pos).isSome = true → exec (.stepEnd pos s.cascade.epoch.toNat stamp r) s = .next s)) ∧
  (∀ (s : State) (n stamp : Nat) (lc : Bool), s.isQueen = false → s.cascade.state = .active → (s.ctx n).isSome = true →
      s.wake.mayStart (s.creg n).combs = true → s.invalWaits n = false →
      (∀ (run package version : Nat) (items : List WorkItem) (rows : List WorkRow) (tables : List (List Nat)) (pages : List PageOrder),
        (∀ t ∈ s.steps, t.ctx = n → t.phase ≠ .running) →
        exec (.stepStartMessage s.cascade.epoch.toNat stamp n (.generation lc run package version items rows tables pages)) s =
          .next (s.wake.memberStart n (BitVec.ofNat 32 stamp) lc run package version items rows tables pages)) ∧
      (∀ (plan : List Byte) (p : Package), s.learnPackage n (parsePlan plan).package = some p → s.learnStep n = none →
        exec (.stepStartMessage s.cascade.epoch.toNat stamp n (.learning lc plan)) s =
          .next (s.wake.memberLearn n (BitVec.ofNat 32 stamp) lc (parsePlan plan) p))) ∧
  (∀ (s : State) (n stamp epoch : Nat) (o : StepOrder), (s.isQueen = true ∨ epoch ≠ s.cascade.epoch.toNat) →
      exec (.stepStartMessage epoch stamp n o) s = .next s) ∧
  (∀ (s : State) (n : Nat) (t : LearnStep), s.learnStep n = some t →
      (∀ gs, s.isQueen = true → t.plan.clip = true → t.pass = t.passes → t.running = false → t.clipFactor = none →
        let f := BitVec.ofNat 32 (clipOf (foldSumsq (s.layerSumsq t gs)) t.plan.clipAt.toNat)
        exec (.clipFactor n gs) s =
          .next ((s.setLearn { t with clipFactor := some f }).tellAll kmClip (leBytes 2 n ++ leBytes 4 f.toNat))) ∧
      (∀ pos r, s.isQueen = true → pos < s.groupSize → tget t.staged pos = none → t.commitSent = false →
        (pos = s.position → t.passesDone = true) →
        let w := if pos = s.position then s.ownReport t else r
        let u := if w.damaged = true then s.setLearner n fun l => { l with damaged := true } else s
        exec (.staged pos s.cascade.epoch.toNat n t.plan.step r) s =
          .next ((u.writeLogp n t.plan pos w.logps).guardLearn { t with staged := tset t.staged pos w })) ∧
      (∀ g k, s.isQueen = false → exec (.replay s.cascade.epoch.toNat n g k) s = .next (if t.orders.contains (g, k) = true then s
        else s.setLearn { t with orders := t.orders ++ [(g, k)] })) ∧
      (∀ pos g k faulted fp flags, s.isQueen = true → pos = s.replayPos g k → pos ≠ s.position →
        (t.guarded.any (fun x => x.micro == g && x.runs.length + 1 == k && decide (k ≤ x.asked))) = true →
        exec (.replayResult pos s.cascade.epoch.toNat n g k faulted fp flags) s = .next (s.takeReplay t g k ⟨faulted, fp, flags, []⟩)))

/-- COMMIT and ROLLBACK of the staged step whose step and base agree are carried out by a member and acknowledged; others are refused to the
queen. A commit makes the other bank current and its step the last, and writes no memory; the queen notes each acknowledgement and finishes
the commit with the last. -/
def Obligations.CommitsAreAtomic : Prop :=
  (∀ (s : State) (n step base : Nat) (maxima : Table Word), s.isQueen = false →
      (∀ t, s.learnStep n = some t → s.acceptsCommit t step base = true →
        exec (.commit s.cascade.epoch.toNat n step ⟨base, maxima⟩) s = .next (((((s.applyCommit t maxima
          [(s.ownReport t).masterMax]).eraseLearn n).tell s.queenPos kmAck t.fields).sweepVersions n).retireDue.settleReleases) ∧
        exec (.rollback s.cascade.epoch.toNat n step base) s =
          .next (((((s.stopLearn t).eraseLearn n).tell s.queenPos kmAck t.fields).sweepVersions n).retireDue.settleReleases)) ∧
      ((∀ t, s.learnStep n = some t → s.acceptsCommit t step base = false) →
        exec (.commit s.cascade.epoch.toNat n step ⟨base, maxima⟩) s = .next (s.refuseCommit n step) ∧
        exec (.rollback s.cascade.epoch.toNat n step base) s = .next (s.refuseCommit n step))) ∧
  (∀ (s : State) (n step base epoch : Nat), (s.isQueen = true ∨ epoch ≠ s.cascade.epoch.toNat) →
      (∀ maxima, exec (.commit epoch n step ⟨base, maxima⟩) s = .next s) ∧ exec (.rollback epoch n step base) s = .next s) ∧
  (∀ (s : State) (t : LearnStep) (ws : Table Word) (ms : List (Table Word)), (s.ctx t.ctx).isSome = true →
      ((s.applyCommit t ws ms).learnerOf t.ctx).cur = !(s.learnerOf t.ctx).cur ∧
      ((s.applyCommit t ws ms).learnerOf t.ctx).lastStep = t.plan.step ∧ (s.applyCommit t ws ms).mem = s.mem) ∧
  (∀ (s : State) (n pos : Nat) (t : LearnStep), s.learnStep n = some t → s.isQueen = true → t.commitSent = true → pos ∈ s.others →
      let w := { t with acks := ninsert t.acks pos }
      exec (.ack pos s.cascade.epoch.toNat n t.plan.step) s = .next (
        if (s.others.all fun p => w.acks.contains p || s.cascade.lost.contains p) = true then (s.setLearn w).finishCommit w
        else s.setLearn w))

/-- A turn to learning notes each ready position and ends with the last; a turn to generation takes its shards' events and switches once every
shard is there. A shard of a load takes its delivery, with the reads of this module's store it rests on; an unanswered host request makes
the host source absent; a load whose shards have all ended is done, or fails with the first failed shard's status. -/
def Obligations.TurnsAndLoadsEnd : Prop :=
  (∀ (s : State) (t : Turn), s.turns.turn = some t → t.begun = true → s.isQueen = true →
      (t.kind = .learn → ∀ pos, pos < s.groupSize →
        let w := { t with ready := ninsert t.ready pos }
        exec (.turnMemberReady pos) s = .next (if w.ready.length < s.groupSize then s.setTurn w else s.doneLearn w)) ∧
      (t.kind ≠ .learn → (∀ p ∈ t.shards, p.status = some stDone) → exec .turnShardsPresent s = .next (s.switchTurn t)) ∧
      (t.kind ≠ .learn → (∃ p ∈ t.shards, p.status ≠ some stDone) → exec .turnShardsPresent s = .next s) ∧
      (t.kind ≠ .learn → ∀ shard d reads, exec (.shardEnd 0 shard ⟨d, reads⟩) s = .next (s.turnShard t shard d))) ∧
  (∀ (s : State) (id shard : Nat) (l : Loading), id ≠ 0 → s.openLoad id = some l →
      ∀ reads, (∀ d, (∀ c, deliverySource d = some c → c < 4) → d ≠ .corrupt 3 →
        exec (.shardEnd id shard ⟨d, reads⟩) s = .next (s.readShard l shard d reads)) ∧
      exec (.shardEnd id shard ⟨.corrupt 3, reads⟩) s = .next ((s.readShard l shard (.corrupt 3) reads).supplyCorrupt id shard)) ∧
  (∀ (s : State) (n : Nat) (r : ShardRequest), s.turns.requests.find? (fun r => r.request == n && !r.ended) = some r →
      (r.asked + s.turns.hostWait.toNat ≤ s.now → ∀ l, s.openLoad r.packId = some l → exec (.hostWaitExpiry n) s =
        .next ((s.endRequests r.packId (some r.shard)).loadShard l r.shard (.absent 3) none)) ∧
      (s.now < r.asked + s.turns.hostWait.toNat → exec (.hostWaitExpiry n) s = .next s)) ∧
  (∀ (s : State) (id : Nat) (l : Loading), s.isQueen = true → l.restore = false →
      s.turns.loads.find? (fun l => l.packId == id && !l.waitsSwitch && l.shards.all fun p => p.status.isSome) = some l →
      (∀ st, firstFailed l.shards = some st → exec (.loadEnd id) s = .next (s.failLoad l st)) ∧
      (firstFailed l.shards = none → exec (.loadEnd id) s =
        .next (((s.doneLoad l).tellEnd l.ticket stDone).finish l.ticket stDone l.results.1 l.results.2)))

/-! ### Device links and the group -/

/-- A whole packet in order on its link is acknowledged and has its type's effect: DATA of the running stamp lands in its context and other
DATA goes by its stamp, SIGNAL lands in its core, CONTROL acts, these three under the group's epoch; DONE ends its transfer, STALE is taken,
HELLO matches its link; a LACK that is no NAK frees what it acknowledges and sends what its credits allow. DATA, SIGNAL, CONTROL, DONE and
STALE that are not whole or not next in order are answered with a NAK; on a link that is down they do nothing. -/
def Obligations.LinkPacketsHaveTheirEffect : Prop :=
  (∀ (s : State) (k : Nat) (b : List Byte),
      let u := s.acknowledged k b
      (s.takesPacket k b 1 → pkStamp b = s.cascade.current.toNat → exec (.data k b) s = .next ((u 1).deliverData b)) ∧
      (s.takesPacket k b 2 → pkStamp b = s.cascade.current.toNat → exec (.signal k b) s = .next ((u 2).deliverSignal b)) ∧
      (s.takesPacket k b 1 → exec (.data k b) s = .next ((u 1).byStamp k b fun t => t.deliverData b)) ∧
      (∀ kind, s.takesPacket k b 3 → exec (.control k b kind) s = .next ((u 3).takeControl (pkSrc b) kind)) ∧
      (s.takesPacket k b 4 → exec (.done k b) s = .next ((u 4).endTransfer (pkTag b) (pkAddr b % 65536))) ∧
      (s.takesPacket k b 5 → exec (.stale k b) s = .next ((u 5).takeStale (pkTag b))) ∧
      ((s.link k).up = true → pkWhole b = true → pkSeq b = (s.link k).expectSeq → pkType b = 6 →
        exec (.hello k b) s = .next ((u 6).takeHello k b)) ∧
      (∀ kind, ∀ c ∈ [Instr.data k b, .signal k b, .control k b kind, .done k b, .stale k b],
        ((s.link k).up = true → (s.link k).matched = true → (pkWhole b = false ∨ pkSeq b ≠ (s.link k).expectSeq) →
          exec c s = .next (s.sendLack k none true)) ∧
        ((s.link k).up = false → exec c s = .next s))) ∧
  (∀ (s : State) (k : Nat) (b : List Byte), (s.link k).up = true → pkWhole b = true → pkType b = 7 → bitAt (pkAddr b) 48 = false →
      ∃ l : Link, exec (.lack k b) s = .next ((s.setLink k l).pumpLink k l.waiting.length) ∧
        l.unacked = (s.link k).unacked.filter (fun x => !seqDone (pkTag b) x) ∧
        l.credits = addCredits (s.link k).credits (pkAddr b) ∧ l.waiting = (s.link k).waiting ∧ l.up = true)

/-- Formation: a trained link comes up and says HELLO; the queen notes each READY and, once it has as many as the group has modules, tells
the others and goes ACTIVE; a member goes ACTIVE when told; a wait that expires leaves the group, LINK_DOWN. A running module of an ACTIVE
group sends heartbeats; one that comes is noted, as many missed as the limit lose the module; a link that goes down is fenced. -/
def Obligations.TheGroupForms : Prop :=
  ∀ s : State,
    (∀ k, s.cascade.enable = true → s.linkUsed k = true → s.linkUp k = false → s.keeper.powerState ≠ 2 →
      (s.cascade.state = .forming ∨ s.cascade.state = .active) → ∃ t, exec (.deviceLinkTrained k) s = .next t ∧
        t = (s.setLink k { (s.link k).drop with up := true }).sendOn k (s.helloPacket k) ∧ t.linkUp k = true) ∧
    (∀ pos, s.cascade.state = .forming → s.isQueen = true → pos ∈ s.others → exec (.ready pos s.cascade.epoch.toNat) s =
      .next (State.settleForming { s with cascade := { s.cascade with readyFrom := ninsert s.cascade.readyFrom pos } })) ∧
    (s.cascade.state = .forming → s.isQueen = true → s.settleForming =
      if s.groupSize ≤ s.cascade.readyFrom.length then (s.tellAll kmActive []).activate else s) ∧
    (s.cascade.state = .forming → s.isQueen = false → exec (.active s.cascade.epoch.toNat) s = .next s.activate) ∧
    (s.cascade.formTicket = none → s.activate.cascade.state = .active ∧ s.activate.mem = s.mem) ∧
    (∀ epoch, epoch ≠ s.cascade.epoch.toNat → exec (.active epoch) s = .next s ∧ ∀ pos, exec (.ready pos epoch) s = .next s) ∧
    (s.cascade.state = .forming → s.cascade.formTick + s.cascade.formWait.toNat ≤ s.now →
      (∀ t, s.cascade.formTicket = some t → exec .formWaitExpiry s = .next ((s.leaveGroup.finish t stLinkDown 0 0).groupEvent 0xFF)) ∧
      (s.cascade.formTicket = none → exec .formWaitExpiry s = .next (s.leaveGroup.groupEvent 0xFF))) ∧
    (s.now < s.cascade.formTick + s.cascade.formWait.toNat → exec .formWaitExpiry s = .next s) ∧
    (∀ pos, (s.cascade.state = .active ∨ s.cascade.state = .fenced) → s.beatsWith pos = true →
      exec (.heartbeat pos) s = .next { s with cascade := { s.cascade with beats := tset s.cascade.beats pos s.now } } ∧
      (bits s.cascade.hbCfg.toNat 23 16 ≤ s.missedBeats pos → exec (.heartbeatLoss pos) s = .next (s.takeLost pos)) ∧
      (s.missedBeats pos < bits s.cascade.hbCfg.toNat 23 16 → exec (.heartbeatLoss pos) s = .next s)) ∧
    (s.cascade.state = .active → s.keeper.mode = .running → exec .heartbeatSend s =
      .next (if s.isQueen = true then s.tellAll kmHeartbeat [] else s.tell s.queenPos kmHeartbeat [])) ∧
    (∀ k cause, exec (.linkDown k cause) s = .next (s.fenceLink k (cause % 4)) ∧
      ((s.link k).up = false → exec (.linkDown k cause) s = .next s))

/-! ### Start, restart, firmware -/

/-- The start takes its steps in order, each in its step only: the clocks lock; the self-check releases the port or fails with code 3;
built-in self-test retires the cores it finds failed, a comb short of cores failing with code 2; memory trains at its speed, or at the
lower one, or fails with code 1; the directory is read with memory at zero; firmware runs once its image is loaded. -/
def Obligations.TheStartTakesItsSteps : Prop :=
  ∀ s : State,
    (s.startingAt 0 = true → ∃ t, exec .pllLock s = .next t ∧ t.keeper.startStep = 1 ∧ t.pins.present = true ∧ t.pins.transmit = true ∧
      t.power.rootLock = true ∧ t.power.serdesLock = true ∧ t.power.lpLock = true ∧ t.mem = s.mem) ∧
    (s.startingAt 1 = true →
      (∃ t, exec (.propolisSelfCheck true) s = .next t ∧ t.keeper.startStep = 2 ∧ t.keeper.startFail = 0 ∧ t.propolis.selfOk = true ∧
        t.port.training = bitAt s.port.ctrl.toNat 0) ∧
      ∃ t, exec (.propolisSelfCheck false) s = .next t ∧ t.keeper.startFail = 3 ∧ t.propolis.selfOk = false) ∧
    (s.startingAt 2 = true → ∀ r : BistReport, ∃ t, exec (.builtInSelfTest r) s = .next t ∧ t.keeper.startStep = 3 ∧
      t.memCtl.bistDone = true ∧ (∀ p ∈ r.failedCores, t.isRetired p = true) ∧
      t.keeper.startFail = (if r.failedComb.isSome = true then 2 else 0) ∧ t.mem = s.mem) ∧
    (s.startingAt 3 = true →
      (∀ b, exec (.lpddr5xTraining none b) s = .next (s.endStep 4)) ∧
      (∀ a, ∃ t, exec (.lpddr5xTraining (some a) none) s = .next t ∧ t.memCtl.lpSlow = true ∧ t.keeper.startStep = 4 ∧
        t.keeper.startFail = 0 ∧ t.ledger = s.ledger.report 0x0113 a noUnit) ∧
      (∀ a b, ∃ t, exec (.lpddr5xTraining (some a) (some b)) s = .next t ∧ t.keeper.startFail = 1 ∧ t.keeper.failUnit = b)) ∧
    (s.startingAt 4 = true → s.keeper.loadWaits = false → ∃ t, exec .directoryRead s = .next t ∧ t.mem = [] ∧ t.store.ready = true ∧
      t.keeper.startStep = 5 ∧ t.memCtl.staging = bits s.memCtl.layout.toNat 16 0) ∧
    (s.startingAt 7 = true → ∀ k, s.keeper.loadTicket = some k → exec .firmwareEntry s =
      .next ((((s.releaseAll.runFirmware).setLocks 4).endFwLoad k stDone).settleAll)) ∧
    (∀ n, s.startingAt n = false → (n = 0 → exec .pllLock s = .next s) ∧ (n = 1 → ∀ ok, exec (.propolisSelfCheck ok) s = .next s) ∧
      (n = 2 → ∀ r, exec (.builtInSelfTest r) s = .next s) ∧ (n = 3 → ∀ a b, exec (.lpddr5xTraining a b) s = .next s) ∧
      (n = 4 → exec .directoryRead s = .next s) ∧ (n = 7 → exec .firmwareEntry s = .next s))

/-- A watchdog that is due, a Keeper core's exception and an uncorrectable error of its SRAM restart the Keeper with causes 1, 2 and 3; a
restart loads the image that still verifies, or stays in the boot ROM; the resumed firmware answers what waited. -/
def Obligations.TheKeeperRestarts : Prop :=
  ∀ (s : State) (core : Nat),
    (s.keeper.mode = .running → s.watchdogDue core = true → exec (.watchdogExpiry core) s = .next (s.beginRestart 1 core)) ∧
    (s.watchdogDue core = false → exec (.watchdogExpiry core) s = .next s) ∧
    (s.keeperRuns = true → exec (.keeperCoreException core) s = .next (s.beginRestart 2 core) ∧
      exec (.keeperSramUncorrectable core) s = .next (s.beginRestart 3 core)) ∧
    (s.keeperRuns = false → exec (.keeperCoreException core) s = .next s ∧ exec (.keeperSramUncorrectable core) s = .next s) ∧
    (s.keeper.mode = .restarting → s.keeper.startStep = 6 →
      (s.restartImage = none → exec .keeperRestart s = .next s.stayInBoot) ∧
      (∀ i a, s.restartImage = some (i, a) →
        (∀ u j, s.checkImage (s.read a i.length) = (u, .ok j) → exec .keeperRestart s = .next (u.loadImage j (s.read a i.length))) ∧
        (∀ u st, s.checkImage (s.read a i.length) = (u, .error st) → exec .keeperRestart s = .next u.stayInBoot))) ∧
    (s.keeper.mode = .restarting → s.keeper.startStep = 7 → exec .keeperResume s =
      .next (((s.runFirmware.endForRestart.postActivated.drawAlert.keptDoorbellsNow.settleAll).settleIdle).settleReleases)) ∧
    (∀ cause, s.bootRom = false → (s.noteRestart cause core).keeper.restarts = s.keeper.restarts + 1 ∧
      (s.noteRestart cause core).keeper.cause = causeWord cause core ∧ (s.noteRestart cause core).mem = s.mem) ∧
    s.runFirmware.keeper.mode = .running ∧ s.runFirmware.keeper.wdogArmed = some s.now

/-! ### Power, pins, management -/

/-- Power Guard: a window's readings set the ceiling that its rules give, no lower than the clamps' floor; a rail over its clamp forces code 3
and is clamped until it is released; the EMERGENCY closes 100 ms after the code's return to 0; a raise of VCORE ends at its minimum or is given up after 30 µs; an idle module
in P2 goes back to self-refresh. -/
def Obligations.PowerGuardFollowsItsReadings : Prop :=
  ∀ s : State,
    (s.clocked = true → ∀ r : PowerReadings,
      let u : State := { s with power := { s.power with
        temp := tempWord r.tj r.sensor, watts := BitVec.ofNat 32 (r.watts % 65536), railMv := r.railMv, railAmps := r.railAmps
        raiseHeld := false } }
      let c := u.power.afterWindow r
      ∃ t, exec (.pgdWindowEnd r) s = .next t ∧ t.power.ceiling = max u.power.floor c.1 ∧ t.power.temp = tempWord r.tj r.sensor ∧
        t.mem = s.mem) ∧
    (s.clocked = true → ∀ rail amps, rail < 6 → railClamp rail < amps → ∃ t, exec (.railCurrentClamp rail amps) s = .next t ∧
      t.power.ceiling = (if s.power.ceiling < 3 then 3 else s.power.ceiling) ∧ rail ∈ t.power.clamped ∧ t.mem = s.mem) ∧
    (s.clocked = true → ∀ rail amps, rail ∈ s.power.clamped → amps ≤ railClamp rail → ∃ t,
      exec (.railClampRelease rail amps) s = .next t ∧ rail ∉ t.power.clamped ∧ t.power.ceiling = s.power.ceiling) ∧
    (s.clocked = true → s.power.emergency = true → s.power.ceiling = 0 → s.power.zeroTick + 10000000 ≤ s.now →
      (s.keeper.mode ≠ .running ∨ s.keeper.deferred = []) → ∃ t, exec .emergencyClose s = .next t ∧ t.power.emergency = false ∧
        t.pins.alert = (s.pins.alert && s.keeper.mode == .restarting)) ∧
    (s.now < s.power.zeroTick + 10000000 → exec .emergencyClose s = .next s) ∧
    (s.clocked = true → ∀ mv n, s.power.target = some n →
      (vcoreMin n ≤ mv → n = s.power.wanted → ∃ t, exec (.vcoreReached mv) s = .next t ∧ t.power.divider = n ∧ t.power.target = none) ∧
      (mv < vcoreMin n → let u : State := { s with power := { s.power with railMv := s.power.railMv.set 0 mv } }
        ∃ t, exec (.vcoreReached mv) s = .next t ∧ t.power.ceiling = max s.power.ceiling u.power.floor ∧
          (u.power.floor ≤ s.power.ceiling → t = u))) ∧
    (s.power.target.isSome = true → s.power.raiseAt + 30 * usTicks ≤ s.now → ∃ t, exec .dvfsRaiseTimeout s = .next t ∧
      t.power.target = none ∧ t.power.raiseHeld = true ∧ t.power.divider = max s.power.divider s.power.wanted) ∧
    (s.keeper.powerState = 2 → s.keeper.lastP2Access + 100 * usTicks ≤ s.now → exec .selfRefreshIdle s =
      .next { s with keeper := { s.keeper with selfRefresh := true } })

/-- The pins: auxiliary power, PWR_GOOD and the rails bring the module up; a loss of main power, a stop, a lost reference clock and a held
MOD_RESET_N end every context and core's work and keep the packs, a loss of main power with the operating time saved; a release of
MOD_RESET_N ends the reset. -/
def Obligations.PinsPowerAndResetTheModule : Prop :=
  ∀ s : State,
    let kept (t : State) : Prop := t.store.packs.map (fun e => (e.1, e.2.manifest, e.2.data)) =
      s.store.packs.map (fun e => (e.1, e.2.manifest, e.2.data))
    exec .vauxApplied s = .next { s with pins := { s.pins with vaux := true } } ∧
    exec .refclkReturn s = .next { s with pins := { s.pins with refclk := true } } ∧
    (s.pins.vaux = true → s.pins.pwrGood = false → ∃ t, exec .pwrGoodRise s = .next t ∧ t.pins.pwrGood = true ∧ t.pins.rails = false ∧
      t.power.stopped = none ∧ t.keeper.powerState = 0 ∧ t.ledger = s.ledger.powerUp ∧ t.mem = s.mem) ∧
    (s.pins.pwrGood = true → s.power.stopped = none → exec .railsInRegulation s = .next { s with pins := { s.pins with rails := true } }) ∧
    (s.pins.pwrGood = true → ∀ cause, cause ≠ .vauxSag → ∃ t, exec (.powerLoss cause) s = .next t ∧ t.pins.pwrGood = false ∧
      t.clocked = false ∧ t.keeper.powerState = 3 ∧ t.ctxs = [] ∧ t.cores = [] ∧ t.ledger.seconds = s.ledger.seconds ∧
      t.ledger.savedSeconds = t.ledger.seconds ∧ t.ledger.ready = false ∧ kept t ∧ t.pending = s.pending) ∧
    (s.pins.vaux = true → ∃ t, exec (.powerLoss .vauxSag) s = .next t ∧ t.pins.vaux = false ∧ t.ledger.auxDown = true) ∧
    (s.pins.vaux = true → s.pins.modReset = false → ∀ n, 10000 ≤ n → ∃ t, exec (.modResetNAssert n) s = .next t ∧
      t.pins.modReset = true ∧ t.clocked = false ∧ t.ctxs = [] ∧ t.cores = [] ∧ kept t ∧ t.pending = s.pending ∧
      t.keeper = { State.reset.keeper with powerState := if s.pins.pwrGood = true ∧ s.power.stopped = none then 0 else 3 }) ∧
    (s.pins.modReset = true → ∃ t, exec .modResetNRelease s = .next t ∧ t.pins.modReset = false ∧
      t.pins.thermtrip = (s.power.stopped == some 6) ∧ t.pins.alert = (s.power.stopped == some 7) ∧
      t.propolis.starts = (if s.pins.pwrGood = true then s.propolis.starts + 1 else s.propolis.starts) ∧ t.mem = s.mem) ∧
    (s.pins.refclk = true → s.pins.pwrGood = true → s.pins.modReset = false → ∃ t, exec .refclkLoss s = .next t ∧
      t.pins.refclkHold = true ∧ t.clocked = false ∧ t.ctxs = [] ∧ t.cores = [] ∧ kept t) ∧
    (s.clocked = true → (∀ sensor, ∃ t, exec (.thermalStop sensor) s = .next t ∧ t.pins.thermtrip = true ∧ t.clocked = false ∧
        t.power.stopped = some 6 ∧ t.ctxs = [] ∧ t.cores = [] ∧ kept t) ∧
      ∀ rail, rail < 6 → ∃ t, exec (.railVoltageStop rail) s = .next t ∧ t.pins.alert = true ∧ t.clocked = false ∧
        t.power.stopped = some 7 ∧ t.ctxs = [] ∧ t.cores = [] ∧ kept t)

/-- R604: each code with occurrences has one summary, with COUNT, SUPPRESSED, first and last second, least and largest value, the unit of the
first occurrence that reached the largest, and a histogram whose bin of v is 0 for 0 and min(15, floor(log2 v) + 1) otherwise; with 512
summaries held, an occurrence of a further code is one of SUMMARY_FULL (0x0004) with the code as its value. -/
def Obligations.SummariesFollowR604 : Prop :=
  ∀ (l : Ledger) (code value unit sec : Nat),
    let held := tget l.summaries code
    let o := held.getD (.empty code)
    ((held.isSome = true ∨ l.summaries.length < 512) → o.hist.length = 16 →
      ∃ m, tget (l.add code value unit sec).summaries code = some m ∧ m.code = o.code ∧ m.count = o.count + 1 ∧
        m.suppressed = o.suppressed ∧ m.first = (if o.count = 0 then sec else o.first) ∧ m.last = sec ∧
        m.min = (if o.count = 0 then value else Nat.min o.min value) ∧ m.max = (if o.count = 0 then value else Nat.max o.max value) ∧
        m.maxUnit = (if o.count = 0 ∨ o.max < value then BitVec.ofNat 32 unit else o.maxUnit) ∧ m.hist.length = 16 ∧
        ∀ b, b < 16 → (m.hist[b]?).getD 0 = (o.hist[b]?).getD 0 +
          (if b = (if value = 0 then 0 else min 15 (Nat.log2 value + 1)) then 1 else 0)) ∧
    (held = none → 512 ≤ l.summaries.length →
      tget (l.add code value unit sec).summaries 0x0004 =
        some (((tget l.summaries 0x0004).getD (.empty 0x0004)).add code noUnit sec l.powerCycles)) ∧
    (∀ k, k ≠ code → k ≠ 0x0004 → tget (l.add code value unit sec).summaries k = tget l.summaries k)

/-- The Ledger and the management port: an occurrence and what waits before it are taken; a second counts while main power is up; a minute
saves the counts; a window that is due ends. Every management request is answered once. -/
def Obligations.LedgerAndManagementTakeEffect : Prop :=
  ∀ s : State,
    (∀ (code : Nat) (v : Long) (unit : Word), exec (.occurrence code v unit) s =
      .next { s with ledger := (s.ledger.report code v.toNat unit.toNat).drain }) ∧
    (∃ t, exec .summaryWindowEnd s = .next t ∧ t = { s with ledger := if s.ledger.windowStart + 600 ≤ s.ledger.seconds
      then s.ledger.endWindow else s.ledger }) ∧
    (s.pins.pwrGood = true → ∃ t, exec .operatingSecond s = .next t ∧ t.ledger.seconds = min (s.ledger.seconds + 1) (2 ^ 40 - 1) ∧
      t.ledger.intake = [] ∧ t = { s with ledger := t.ledger }) ∧
    (s.pins.pwrGood = true → s.ledger.seconds % 60 = 0 → ∃ t, exec .operatingMinuteSave s = .next t ∧
      t.ledger.savedSeconds = s.ledger.seconds ∧ t.ledger.savedCycles = s.ledger.powerCycles ∧ t = { s with ledger := t.ledger }) ∧
    (s.pins.pwrGood = false → exec .operatingSecond s = .next s ∧ exec .operatingMinuteSave s = .next s) ∧
    (s.pins.vaux = true → ∀ r : List Byte,
      (∃ b, exec (.mctpControl r) s = .next (s.mgmtSend b)) ∧
      ((pldmType r = 2 ∨ pldmType r = 4) → ∃ b, exec (.pldmRequest r) s = .next (s.mgmtSend b)) ∧
      (r.length = 9 → field r 0 1 = 1 → bitAt (field r 1 8) 63 = false →
        let rs := s.ledger.readRecords (field r 1 8) 4
        exec (.mgmtLedgerRead r) s = .next (s.mgmtSend (leBytes 1 0 ++ leBytes 8 s.ledger.written ++ leBytes 1 rs.length ++
          rs.flatMap id)))) ∧
    (s.pins.vaux = false → ∀ r : List Byte, exec (.mctpControl r) s = .next s ∧ exec (.pldmRequest r) s = .next s ∧
      exec (.mgmtLedgerRead r) s = .next s)

/-- A wipe completes once no context is left: memory but the firmware's image and log reads 0, the cores' frame and vector-engine stores are
empty, and the debug level or the lifecycle that asked for it is entered, with the packs gone for lifecycle 3. -/
def Obligations.WipesClearTheModule : Prop :=
  (∀ (s : State) (k : Ticket), s.propolis.wiping = some k → s.ctxs = [] →
      let u : State := { s.wipeMemory with propolis := { s.propolis with wiping := none, wipeTo := none } }
      (s.propolis.wipeTo = none → exec .wipeComplete s =
        .next { u.finish k stDone 0 0 with propolis := { u.propolis with level := 2 } }) ∧
      (∀ n, s.propolis.wipeTo = some n → n ≠ 3 → exec .wipeComplete s = .next ((u.setLifecycle n).finish k stDone 0 0)) ∧
      (s.propolis.wipeTo = some 3 → exec .wipeComplete s =
        .next ((State.setLifecycle { u with store := { u.store with packs := [] } } 3).finish k stDone 0 0))) ∧
  (∀ (s : State), s.propolis.wiping = none ∨ s.ctxs ≠ [] → exec .wipeComplete s = .next s) ∧
  (∀ (s : State) (a : Nat), (a < s.keeper.fwBase.toNat ∨ s.keeper.fwBase.toNat + 0x400000 ≤ a) →
      (a < s.keeper.logBase.toNat ∨ s.keeper.logBase.toNat + logBytes ≤ a) → memGet s.wipeMemory.mem a = 0) ∧
  (∀ (s : State) (p : Nat) (c : Core), tget s.wipeMemory.cores p = some c → c.frameStore = [] ∧ c.veuStore = [])
end

