-- ==== Sys2Proof/Laws/Tables.lean ====
section
/-! SUPPORT. Laws of the tables by key: what a read gives after a write or a removal, and that both keep the keys strictly rising. -/

namespace Sys2Proof.Laws

open Sys2Proof.Machine

variable {α : Type}

@[simp] theorem tget_nil (k : Nat) : tget ([] : Table α) k = none := rfl

@[simp] theorem tget_tset_self (t : Table α) (k : Nat) (v : α) : tget (tset t k v) k = some v := by
  induction t with
  | nil => simp [tset, tget]
  | cons e rest ih =>
    obtain ⟨j, w⟩ := e
    unfold tset
    split
    · simp [tget]
    · split
      · simp [tget]
      · simp only [tget]
        rw [if_neg (by omega)]
        exact ih

theorem tget_tset_other (t : Table α) {k j : Nat} (v : α) (h : j ≠ k) : tget (tset t k v) j = tget t j := by
  induction t with
  | nil => simp [tset, tget]; omega
  | cons e rest ih =>
    obtain ⟨i, w⟩ := e
    unfold tset
    split
    · rw [tget, if_neg (by omega)]
    · split
      · simp only [tget]
        rw [if_neg (by omega), if_neg (by omega)]
      · simp only [tget]
        rw [ih]

@[simp] theorem tgetD_tset_self (t : Table α) (k : Nat) (v d : α) : tgetD (tset t k v) k d = v := by simp [tgetD]

theorem tgetD_tset_other (t : Table α) {k j : Nat} (v d : α) (h : j ≠ k) : tgetD (tset t k v) j d = tgetD t j d := by
  simp [tgetD, tget_tset_other t v h]

theorem tget_terase_other (t : Table α) {k j : Nat} (h : j ≠ k) : tget (terase t k) j = tget t j := by
  induction t with
  | nil => rfl
  | cons e rest ih =>
    obtain ⟨i, w⟩ := e
    unfold terase
    split
    · rw [tget, if_neg (by omega)]
    · simp only [tget]
      rw [ih]

/-- Every key of a table is at least `k`. -/
def above (k : Nat) (t : Table α) : Prop := ∀ e ∈ t, k < e.1

theorem twf_cons {j : Nat} {w : α} {rest : Table α} : twf ((j, w) :: rest) = true ↔ above j rest ∧ twf rest = true := by
  induction rest generalizing j w with
  | nil => simp [twf, above]
  | cons e r ih =>
    obtain ⟨k, x⟩ := e
    simp only [twf, Bool.and_eq_true, decide_eq_true_eq]
    constructor
    · rintro ⟨hjk, hr⟩
      refine ⟨?_, hr⟩
      intro e he
      rcases List.mem_cons.1 he with rfl | he
      · exact hjk
      · exact lt_trans hjk ((ih.1 hr).1 e he)
    · rintro ⟨ha, hr⟩
      exact ⟨ha (k, x) (by simp), hr⟩

theorem above_tset {k j : Nat} {v : α} {t : Table α} (h : above j t) (hk : j < k) : above j (tset t k v) := by
  induction t with
  | nil => intro e he; simp [tset] at he; subst he; exact hk
  | cons e rest ih =>
    obtain ⟨i, w⟩ := e
    have hrest : above j rest := fun x hx => h x (by simp [hx])
    intro x hx
    unfold tset at hx
    split at hx
    · rcases List.mem_cons.1 hx with rfl | hx
      · exact hk
      · exact h x hx
    · split at hx
      · rcases List.mem_cons.1 hx with rfl | hx
        · exact hk
        · exact hrest x hx
      · rcases List.mem_cons.1 hx with rfl | hx
        · exact h _ (by simp)
        · exact ih hrest x hx

theorem twf_tset {t : Table α} (h : twf t = true) (k : Nat) (v : α) : twf (tset t k v) = true := by
  induction t with
  | nil => rfl
  | cons e rest ih =>
    obtain ⟨j, w⟩ := e
    obtain ⟨ha, hr⟩ := twf_cons.1 h
    unfold tset
    split
    · rename_i hkj
      refine twf_cons.2 ⟨?_, h⟩
      intro x hx
      rcases List.mem_cons.1 hx with rfl | hx
      · exact hkj
      · exact lt_trans hkj (ha x hx)
    · split
      · rename_i hkj
        subst hkj
        exact twf_cons.2 ⟨ha, hr⟩
      · rename_i h1 h2
        exact twf_cons.2 ⟨above_tset ha (by omega), ih hr⟩

theorem mem_terase {t : Table α} {k : Nat} {e : Nat × α} (h : e ∈ terase t k) : e ∈ t := by
  induction t with
  | nil => exact h
  | cons x rest ih =>
    obtain ⟨i, w⟩ := x
    unfold terase at h
    split at h
    · exact List.mem_cons_of_mem _ h
    · rcases List.mem_cons.1 h with rfl | h
      · simp
      · exact List.mem_cons_of_mem _ (ih h)

theorem twf_terase {t : Table α} (h : twf t = true) (k : Nat) : twf (terase t k) = true := by
  induction t with
  | nil => rfl
  | cons e rest ih =>
    obtain ⟨j, w⟩ := e
    obtain ⟨ha, hr⟩ := twf_cons.1 h
    unfold terase
    split
    · exact hr
    · exact twf_cons.2 ⟨fun x hx => ha x (mem_terase hx), ih hr⟩

theorem twf_filter {t : Table α} (h : twf t = true) (p : Nat × α → Bool) : twf (t.filter p) = true := by
  induction t with
  | nil => rfl
  | cons e rest ih =>
    obtain ⟨j, w⟩ := e
    obtain ⟨ha, hr⟩ := twf_cons.1 h
    rw [List.filter_cons]
    split
    · exact twf_cons.2 ⟨fun x hx => ha x (List.mem_filter.1 hx).1, ih hr⟩
    · exact ih hr

/-- In a table with rising keys, a removed key reads as absent. -/
theorem tget_terase_self {t : Table α} (h : twf t = true) (k : Nat) : tget (terase t k) k = none := by
  have absent : ∀ (r : Table α), above k r → tget r k = none := by
    intro r
    induction r with
    | nil => intro _; rfl
    | cons e r ih =>
      obtain ⟨i, w⟩ := e
      intro ha
      have hi : k < i := ha (i, w) (by simp)
      rw [tget, if_neg (by omega)]
      exact ih fun x hx => ha x (by simp [hx])
  induction t with
  | nil => rfl
  | cons e rest ih =>
    obtain ⟨j, w⟩ := e
    obtain ⟨ha, hr⟩ := twf_cons.1 h
    unfold terase
    split
    · rename_i hj
      subst hj
      exact absent rest ha
    · rename_i hj
      rw [tget, if_neg hj]
      exact ih hr

theorem mem_tset {t : Table α} {k : Nat} {v : α} {e : Nat × α} (h : e ∈ tset t k v) : e = (k, v) ∨ e ∈ t := by
  induction t with
  | nil => simp [tset] at h; exact Or.inl h
  | cons x rest ih =>
    obtain ⟨i, w⟩ := x
    unfold tset at h
    split at h
    · rcases List.mem_cons.1 h with rfl | h
      · exact Or.inl rfl
      · exact Or.inr h
    · split at h
      · rcases List.mem_cons.1 h with rfl | h
        · exact Or.inl rfl
        · exact Or.inr (by simp [h])
      · rcases List.mem_cons.1 h with rfl | h
        · exact Or.inr (by simp)
        · rcases ih h with h | h
          · exact Or.inl h
          · exact Or.inr (by simp [h])

end Sys2Proof.Laws
end

