-- ==== Sys2Proof/Laws/State.lean ====
section
/-! SUPPORT. Every field of the state after each of the updates that the operations share, and what an accessor reads after its update. -/

namespace Sys2Proof.Laws

open Sys2Proof.Machine

variable (s : State)

@[simp] theorem setCore_pending (p : Nat) (c : Core) : (s.setCore p c).pending = s.pending := rfl
@[simp] theorem setCore_free (p : Nat) (c : Core) : (s.setCore p c).free = s.free := rfl
@[simp] theorem setCore_mem (p : Nat) (c : Core) : (s.setCore p c).mem = s.mem := rfl
@[simp] theorem setCore_spillOf (p : Nat) (c : Core) : (s.setCore p c).spillOf = s.spillOf := rfl
@[simp] theorem setCore_memCtl (p : Nat) (c : Core) : (s.setCore p c).memCtl = s.memCtl := rfl
@[simp] theorem setCore_store (p : Nat) (c : Core) : (s.setCore p c).store = s.store := rfl
@[simp] theorem setCore_coreMap (p : Nat) (c : Core) : (s.setCore p c).coreMap = s.coreMap := rfl
@[simp] theorem setCore_cores (p : Nat) (c : Core) : (s.setCore p c).cores = tset s.cores p c := rfl
@[simp] theorem setCore_combScalars (p : Nat) (c : Core) : (s.setCore p c).combScalars = s.combScalars := rfl
@[simp] theorem setCore_brdCtrl (p : Nat) (c : Core) : (s.setCore p c).brdCtrl = s.brdCtrl := rfl
@[simp] theorem setCore_brdStamp (p : Nat) (c : Core) : (s.setCore p c).brdStamp = s.brdStamp := rfl
@[simp] theorem setCore_brdStarted (p : Nat) (c : Core) : (s.setCore p c).brdStarted = s.brdStarted := rfl
@[simp] theorem setCore_brdFault (p : Nat) (c : Core) : (s.setCore p c).brdFault = s.brdFault := rfl
@[simp] theorem setCore_shareWindow (p : Nat) (c : Core) : (s.setCore p c).shareWindow = s.shareWindow := rfl
@[simp] theorem setCore_cowCount (p : Nat) (c : Core) : (s.setCore p c).cowCount = s.cowCount := rfl
@[simp] theorem setCore_evictCount (p : Nat) (c : Core) : (s.setCore p c).evictCount = s.evictCount := rfl
@[simp] theorem setCore_necPoll (p : Nat) (c : Core) : (s.setCore p c).necPoll = s.necPoll := rfl
@[simp] theorem setCore_necRingBase (p : Nat) (c : Core) : (s.setCore p c).necRingBase = s.necRingBase := rfl
@[simp] theorem setCore_slots (p : Nat) (c : Core) : (s.setCore p c).slots = s.slots := rfl
@[simp] theorem setCore_steps (p : Nat) (c : Core) : (s.setCore p c).steps = s.steps := rfl
@[simp] theorem setCore_learnSteps (p : Nat) (c : Core) : (s.setCore p c).learnSteps = s.learnSteps := rfl
@[simp] theorem setCore_ctxRegs (p : Nat) (c : Core) : (s.setCore p c).ctxRegs = s.ctxRegs := rfl
@[simp] theorem setCore_ctxs (p : Nat) (c : Core) : (s.setCore p c).ctxs = s.ctxs := rfl
@[simp] theorem setCore_adapters (p : Nat) (c : Core) : (s.setCore p c).adapters = s.adapters := rfl
@[simp] theorem setCore_turns (p : Nat) (c : Core) : (s.setCore p c).turns = s.turns := rfl
@[simp] theorem setCore_cascade (p : Nat) (c : Core) : (s.setCore p c).cascade = s.cascade := rfl
@[simp] theorem setCore_dlSent (p : Nat) (c : Core) : (s.setCore p c).dlSent = s.dlSent := rfl
@[simp] theorem setCore_port (p : Nat) (c : Core) : (s.setCore p c).port = s.port := rfl
@[simp] theorem setCore_regs (p : Nat) (c : Core) : (s.setCore p c).regs = s.regs := rfl
@[simp] theorem setCore_mailboxes (p : Nat) (c : Core) : (s.setCore p c).mailboxes = s.mailboxes := rfl
@[simp] theorem setCore_readings (p : Nat) (c : Core) : (s.setCore p c).readings = s.readings := rfl
@[simp] theorem setCore_guard (p : Nat) (c : Core) : (s.setCore p c).guard = s.guard := rfl
@[simp] theorem setCore_keeper (p : Nat) (c : Core) : (s.setCore p c).keeper = s.keeper := rfl
@[simp] theorem setCore_power (p : Nat) (c : Core) : (s.setCore p c).power = s.power := rfl
@[simp] theorem setCore_propolis (p : Nat) (c : Core) : (s.setCore p c).propolis = s.propolis := rfl
@[simp] theorem setCore_ledger (p : Nat) (c : Core) : (s.setCore p c).ledger = s.ledger := rfl
@[simp] theorem setCore_pins (p : Nat) (c : Core) : (s.setCore p c).pins = s.pins := rfl

@[simp] theorem setCreg_pending (n : Nat) (r : CtxRegs) : (s.setCreg n r).pending = s.pending := rfl
@[simp] theorem setCreg_free (n : Nat) (r : CtxRegs) : (s.setCreg n r).free = s.free := rfl
@[simp] theorem setCreg_mem (n : Nat) (r : CtxRegs) : (s.setCreg n r).mem = s.mem := rfl
@[simp] theorem setCreg_spillOf (n : Nat) (r : CtxRegs) : (s.setCreg n r).spillOf = s.spillOf := rfl
@[simp] theorem setCreg_memCtl (n : Nat) (r : CtxRegs) : (s.setCreg n r).memCtl = s.memCtl := rfl
@[simp] theorem setCreg_store (n : Nat) (r : CtxRegs) : (s.setCreg n r).store = s.store := rfl
@[simp] theorem setCreg_coreMap (n : Nat) (r : CtxRegs) : (s.setCreg n r).coreMap = s.coreMap := rfl
@[simp] theorem setCreg_cores (n : Nat) (r : CtxRegs) : (s.setCreg n r).cores = s.cores := rfl
@[simp] theorem setCreg_combScalars (n : Nat) (r : CtxRegs) : (s.setCreg n r).combScalars = s.combScalars := rfl
@[simp] theorem setCreg_brdCtrl (n : Nat) (r : CtxRegs) : (s.setCreg n r).brdCtrl = s.brdCtrl := rfl
@[simp] theorem setCreg_brdStamp (n : Nat) (r : CtxRegs) : (s.setCreg n r).brdStamp = s.brdStamp := rfl
@[simp] theorem setCreg_brdStarted (n : Nat) (r : CtxRegs) : (s.setCreg n r).brdStarted = s.brdStarted := rfl
@[simp] theorem setCreg_brdFault (n : Nat) (r : CtxRegs) : (s.setCreg n r).brdFault = s.brdFault := rfl
@[simp] theorem setCreg_shareWindow (n : Nat) (r : CtxRegs) : (s.setCreg n r).shareWindow = s.shareWindow := rfl
@[simp] theorem setCreg_cowCount (n : Nat) (r : CtxRegs) : (s.setCreg n r).cowCount = s.cowCount := rfl
@[simp] theorem setCreg_evictCount (n : Nat) (r : CtxRegs) : (s.setCreg n r).evictCount = s.evictCount := rfl
@[simp] theorem setCreg_necPoll (n : Nat) (r : CtxRegs) : (s.setCreg n r).necPoll = s.necPoll := rfl
@[simp] theorem setCreg_necRingBase (n : Nat) (r : CtxRegs) : (s.setCreg n r).necRingBase = s.necRingBase := rfl
@[simp] theorem setCreg_slots (n : Nat) (r : CtxRegs) : (s.setCreg n r).slots = s.slots := rfl
@[simp] theorem setCreg_steps (n : Nat) (r : CtxRegs) : (s.setCreg n r).steps = s.steps := rfl
@[simp] theorem setCreg_learnSteps (n : Nat) (r : CtxRegs) : (s.setCreg n r).learnSteps = s.learnSteps := rfl
@[simp] theorem setCreg_ctxRegs (n : Nat) (r : CtxRegs) : (s.setCreg n r).ctxRegs = tset s.ctxRegs n r := rfl
@[simp] theorem setCreg_ctxs (n : Nat) (r : CtxRegs) : (s.setCreg n r).ctxs = s.ctxs := rfl
@[simp] theorem setCreg_adapters (n : Nat) (r : CtxRegs) : (s.setCreg n r).adapters = s.adapters := rfl
@[simp] theorem setCreg_turns (n : Nat) (r : CtxRegs) : (s.setCreg n r).turns = s.turns := rfl
@[simp] theorem setCreg_cascade (n : Nat) (r : CtxRegs) : (s.setCreg n r).cascade = s.cascade := rfl
@[simp] theorem setCreg_dlSent (n : Nat) (r : CtxRegs) : (s.setCreg n r).dlSent = s.dlSent := rfl
@[simp] theorem setCreg_port (n : Nat) (r : CtxRegs) : (s.setCreg n r).port = s.port := rfl
@[simp] theorem setCreg_regs (n : Nat) (r : CtxRegs) : (s.setCreg n r).regs = s.regs := rfl
@[simp] theorem setCreg_mailboxes (n : Nat) (r : CtxRegs) : (s.setCreg n r).mailboxes = s.mailboxes := rfl
@[simp] theorem setCreg_readings (n : Nat) (r : CtxRegs) : (s.setCreg n r).readings = s.readings := rfl
@[simp] theorem setCreg_guard (n : Nat) (r : CtxRegs) : (s.setCreg n r).guard = s.guard := rfl
@[simp] theorem setCreg_keeper (n : Nat) (r : CtxRegs) : (s.setCreg n r).keeper = s.keeper := rfl
@[simp] theorem setCreg_power (n : Nat) (r : CtxRegs) : (s.setCreg n r).power = s.power := rfl
@[simp] theorem setCreg_propolis (n : Nat) (r : CtxRegs) : (s.setCreg n r).propolis = s.propolis := rfl
@[simp] theorem setCreg_ledger (n : Nat) (r : CtxRegs) : (s.setCreg n r).ledger = s.ledger := rfl
@[simp] theorem setCreg_pins (n : Nat) (r : CtxRegs) : (s.setCreg n r).pins = s.pins := rfl

@[simp] theorem setCtx_pending (n : Nat) (c : Ctx) : (s.setCtx n c).pending = s.pending := rfl
@[simp] theorem setCtx_free (n : Nat) (c : Ctx) : (s.setCtx n c).free = s.free := rfl
@[simp] theorem setCtx_mem (n : Nat) (c : Ctx) : (s.setCtx n c).mem = s.mem := rfl
@[simp] theorem setCtx_spillOf (n : Nat) (c : Ctx) : (s.setCtx n c).spillOf = s.spillOf := rfl
@[simp] theorem setCtx_memCtl (n : Nat) (c : Ctx) : (s.setCtx n c).memCtl = s.memCtl := rfl
@[simp] theorem setCtx_store (n : Nat) (c : Ctx) : (s.setCtx n c).store = s.store := rfl
@[simp] theorem setCtx_coreMap (n : Nat) (c : Ctx) : (s.setCtx n c).coreMap = s.coreMap := rfl
@[simp] theorem setCtx_cores (n : Nat) (c : Ctx) : (s.setCtx n c).cores = s.cores := rfl
@[simp] theorem setCtx_combScalars (n : Nat) (c : Ctx) : (s.setCtx n c).combScalars = s.combScalars := rfl
@[simp] theorem setCtx_brdCtrl (n : Nat) (c : Ctx) : (s.setCtx n c).brdCtrl = s.brdCtrl := rfl
@[simp] theorem setCtx_brdStamp (n : Nat) (c : Ctx) : (s.setCtx n c).brdStamp = s.brdStamp := rfl
@[simp] theorem setCtx_brdStarted (n : Nat) (c : Ctx) : (s.setCtx n c).brdStarted = s.brdStarted := rfl
@[simp] theorem setCtx_brdFault (n : Nat) (c : Ctx) : (s.setCtx n c).brdFault = s.brdFault := rfl
@[simp] theorem setCtx_shareWindow (n : Nat) (c : Ctx) : (s.setCtx n c).shareWindow = s.shareWindow := rfl
@[simp] theorem setCtx_cowCount (n : Nat) (c : Ctx) : (s.setCtx n c).cowCount = s.cowCount := rfl
@[simp] theorem setCtx_evictCount (n : Nat) (c : Ctx) : (s.setCtx n c).evictCount = s.evictCount := rfl
@[simp] theorem setCtx_necPoll (n : Nat) (c : Ctx) : (s.setCtx n c).necPoll = s.necPoll := rfl
@[simp] theorem setCtx_necRingBase (n : Nat) (c : Ctx) : (s.setCtx n c).necRingBase = s.necRingBase := rfl
@[simp] theorem setCtx_slots (n : Nat) (c : Ctx) : (s.setCtx n c).slots = s.slots := rfl
@[simp] theorem setCtx_steps (n : Nat) (c : Ctx) : (s.setCtx n c).steps = s.steps := rfl
@[simp] theorem setCtx_learnSteps (n : Nat) (c : Ctx) : (s.setCtx n c).learnSteps = s.learnSteps := rfl
@[simp] theorem setCtx_ctxRegs (n : Nat) (c : Ctx) : (s.setCtx n c).ctxRegs = s.ctxRegs := rfl
@[simp] theorem setCtx_ctxs (n : Nat) (c : Ctx) : (s.setCtx n c).ctxs = tset s.ctxs n c := rfl
@[simp] theorem setCtx_adapters (n : Nat) (c : Ctx) : (s.setCtx n c).adapters = s.adapters := rfl
@[simp] theorem setCtx_turns (n : Nat) (c : Ctx) : (s.setCtx n c).turns = s.turns := rfl
@[simp] theorem setCtx_cascade (n : Nat) (c : Ctx) : (s.setCtx n c).cascade = s.cascade := rfl
@[simp] theorem setCtx_dlSent (n : Nat) (c : Ctx) : (s.setCtx n c).dlSent = s.dlSent := rfl
@[simp] theorem setCtx_port (n : Nat) (c : Ctx) : (s.setCtx n c).port = s.port := rfl
@[simp] theorem setCtx_regs (n : Nat) (c : Ctx) : (s.setCtx n c).regs = s.regs := rfl
@[simp] theorem setCtx_mailboxes (n : Nat) (c : Ctx) : (s.setCtx n c).mailboxes = s.mailboxes := rfl
@[simp] theorem setCtx_readings (n : Nat) (c : Ctx) : (s.setCtx n c).readings = s.readings := rfl
@[simp] theorem setCtx_guard (n : Nat) (c : Ctx) : (s.setCtx n c).guard = s.guard := rfl
@[simp] theorem setCtx_keeper (n : Nat) (c : Ctx) : (s.setCtx n c).keeper = s.keeper := rfl
@[simp] theorem setCtx_power (n : Nat) (c : Ctx) : (s.setCtx n c).power = s.power := rfl
@[simp] theorem setCtx_propolis (n : Nat) (c : Ctx) : (s.setCtx n c).propolis = s.propolis := rfl
@[simp] theorem setCtx_ledger (n : Nat) (c : Ctx) : (s.setCtx n c).ledger = s.ledger := rfl
@[simp] theorem setCtx_pins (n : Nat) (c : Ctx) : (s.setCtx n c).pins = s.pins := rfl

@[simp] theorem setSlot_pending (n : Nat) (e : Slot) : (s.setSlot n e).pending = s.pending := rfl
@[simp] theorem setSlot_free (n : Nat) (e : Slot) : (s.setSlot n e).free = s.free := rfl
@[simp] theorem setSlot_mem (n : Nat) (e : Slot) : (s.setSlot n e).mem = s.mem := rfl
@[simp] theorem setSlot_spillOf (n : Nat) (e : Slot) : (s.setSlot n e).spillOf = s.spillOf := rfl
@[simp] theorem setSlot_memCtl (n : Nat) (e : Slot) : (s.setSlot n e).memCtl = s.memCtl := rfl
@[simp] theorem setSlot_store (n : Nat) (e : Slot) : (s.setSlot n e).store = s.store := rfl
@[simp] theorem setSlot_coreMap (n : Nat) (e : Slot) : (s.setSlot n e).coreMap = s.coreMap := rfl
@[simp] theorem setSlot_cores (n : Nat) (e : Slot) : (s.setSlot n e).cores = s.cores := rfl
@[simp] theorem setSlot_combScalars (n : Nat) (e : Slot) : (s.setSlot n e).combScalars = s.combScalars := rfl
@[simp] theorem setSlot_brdCtrl (n : Nat) (e : Slot) : (s.setSlot n e).brdCtrl = s.brdCtrl := rfl
@[simp] theorem setSlot_brdStamp (n : Nat) (e : Slot) : (s.setSlot n e).brdStamp = s.brdStamp := rfl
@[simp] theorem setSlot_brdStarted (n : Nat) (e : Slot) : (s.setSlot n e).brdStarted = s.brdStarted := rfl
@[simp] theorem setSlot_brdFault (n : Nat) (e : Slot) : (s.setSlot n e).brdFault = s.brdFault := rfl
@[simp] theorem setSlot_shareWindow (n : Nat) (e : Slot) : (s.setSlot n e).shareWindow = s.shareWindow := rfl
@[simp] theorem setSlot_cowCount (n : Nat) (e : Slot) : (s.setSlot n e).cowCount = s.cowCount := rfl
@[simp] theorem setSlot_evictCount (n : Nat) (e : Slot) : (s.setSlot n e).evictCount = s.evictCount := rfl
@[simp] theorem setSlot_necPoll (n : Nat) (e : Slot) : (s.setSlot n e).necPoll = s.necPoll := rfl
@[simp] theorem setSlot_necRingBase (n : Nat) (e : Slot) : (s.setSlot n e).necRingBase = s.necRingBase := rfl
@[simp] theorem setSlot_slots (n : Nat) (e : Slot) : (s.setSlot n e).slots = tset s.slots n e := rfl
@[simp] theorem setSlot_steps (n : Nat) (e : Slot) : (s.setSlot n e).steps = s.steps := rfl
@[simp] theorem setSlot_learnSteps (n : Nat) (e : Slot) : (s.setSlot n e).learnSteps = s.learnSteps := rfl
@[simp] theorem setSlot_ctxRegs (n : Nat) (e : Slot) : (s.setSlot n e).ctxRegs = s.ctxRegs := rfl
@[simp] theorem setSlot_ctxs (n : Nat) (e : Slot) : (s.setSlot n e).ctxs = s.ctxs := rfl
@[simp] theorem setSlot_adapters (n : Nat) (e : Slot) : (s.setSlot n e).adapters = s.adapters := rfl
@[simp] theorem setSlot_turns (n : Nat) (e : Slot) : (s.setSlot n e).turns = s.turns := rfl
@[simp] theorem setSlot_cascade (n : Nat) (e : Slot) : (s.setSlot n e).cascade = s.cascade := rfl
@[simp] theorem setSlot_dlSent (n : Nat) (e : Slot) : (s.setSlot n e).dlSent = s.dlSent := rfl
@[simp] theorem setSlot_port (n : Nat) (e : Slot) : (s.setSlot n e).port = s.port := rfl
@[simp] theorem setSlot_regs (n : Nat) (e : Slot) : (s.setSlot n e).regs = s.regs := rfl
@[simp] theorem setSlot_mailboxes (n : Nat) (e : Slot) : (s.setSlot n e).mailboxes = s.mailboxes := rfl
@[simp] theorem setSlot_readings (n : Nat) (e : Slot) : (s.setSlot n e).readings = s.readings := rfl
@[simp] theorem setSlot_guard (n : Nat) (e : Slot) : (s.setSlot n e).guard = s.guard := rfl
@[simp] theorem setSlot_keeper (n : Nat) (e : Slot) : (s.setSlot n e).keeper = s.keeper := rfl
@[simp] theorem setSlot_power (n : Nat) (e : Slot) : (s.setSlot n e).power = s.power := rfl
@[simp] theorem setSlot_propolis (n : Nat) (e : Slot) : (s.setSlot n e).propolis = s.propolis := rfl
@[simp] theorem setSlot_ledger (n : Nat) (e : Slot) : (s.setSlot n e).ledger = s.ledger := rfl
@[simp] theorem setSlot_pins (n : Nat) (e : Slot) : (s.setSlot n e).pins = s.pins := rfl

@[simp] theorem setMailbox_pending (mb : Nat) (b : Mailbox) : (s.setMailbox mb b).pending = s.pending := rfl
@[simp] theorem setMailbox_free (mb : Nat) (b : Mailbox) : (s.setMailbox mb b).free = s.free := rfl
@[simp] theorem setMailbox_mem (mb : Nat) (b : Mailbox) : (s.setMailbox mb b).mem = s.mem := rfl
@[simp] theorem setMailbox_spillOf (mb : Nat) (b : Mailbox) : (s.setMailbox mb b).spillOf = s.spillOf := rfl
@[simp] theorem setMailbox_memCtl (mb : Nat) (b : Mailbox) : (s.setMailbox mb b).memCtl = s.memCtl := rfl
@[simp] theorem setMailbox_store (mb : Nat) (b : Mailbox) : (s.setMailbox mb b).store = s.store := rfl
@[simp] theorem setMailbox_coreMap (mb : Nat) (b : Mailbox) : (s.setMailbox mb b).coreMap = s.coreMap := rfl
@[simp] theorem setMailbox_cores (mb : Nat) (b : Mailbox) : (s.setMailbox mb b).cores = s.cores := rfl
@[simp] theorem setMailbox_combScalars (mb : Nat) (b : Mailbox) : (s.setMailbox mb b).combScalars = s.combScalars := rfl
@[simp] theorem setMailbox_brdCtrl (mb : Nat) (b : Mailbox) : (s.setMailbox mb b).brdCtrl = s.brdCtrl := rfl
@[simp] theorem setMailbox_brdStamp (mb : Nat) (b : Mailbox) : (s.setMailbox mb b).brdStamp = s.brdStamp := rfl
@[simp] theorem setMailbox_brdStarted (mb : Nat) (b : Mailbox) : (s.setMailbox mb b).brdStarted = s.brdStarted := rfl
@[simp] theorem setMailbox_brdFault (mb : Nat) (b : Mailbox) : (s.setMailbox mb b).brdFault = s.brdFault := rfl
@[simp] theorem setMailbox_shareWindow (mb : Nat) (b : Mailbox) : (s.setMailbox mb b).shareWindow = s.shareWindow := rfl
@[simp] theorem setMailbox_cowCount (mb : Nat) (b : Mailbox) : (s.setMailbox mb b).cowCount = s.cowCount := rfl
@[simp] theorem setMailbox_evictCount (mb : Nat) (b : Mailbox) : (s.setMailbox mb b).evictCount = s.evictCount := rfl
@[simp] theorem setMailbox_necPoll (mb : Nat) (b : Mailbox) : (s.setMailbox mb b).necPoll = s.necPoll := rfl
@[simp] theorem setMailbox_necRingBase (mb : Nat) (b : Mailbox) : (s.setMailbox mb b).necRingBase = s.necRingBase := rfl
@[simp] theorem setMailbox_slots (mb : Nat) (b : Mailbox) : (s.setMailbox mb b).slots = s.slots := rfl
@[simp] theorem setMailbox_steps (mb : Nat) (b : Mailbox) : (s.setMailbox mb b).steps = s.steps := rfl
@[simp] theorem setMailbox_learnSteps (mb : Nat) (b : Mailbox) : (s.setMailbox mb b).learnSteps = s.learnSteps := rfl
@[simp] theorem setMailbox_ctxRegs (mb : Nat) (b : Mailbox) : (s.setMailbox mb b).ctxRegs = s.ctxRegs := rfl
@[simp] theorem setMailbox_ctxs (mb : Nat) (b : Mailbox) : (s.setMailbox mb b).ctxs = s.ctxs := rfl
@[simp] theorem setMailbox_adapters (mb : Nat) (b : Mailbox) : (s.setMailbox mb b).adapters = s.adapters := rfl
@[simp] theorem setMailbox_turns (mb : Nat) (b : Mailbox) : (s.setMailbox mb b).turns = s.turns := rfl
@[simp] theorem setMailbox_cascade (mb : Nat) (b : Mailbox) : (s.setMailbox mb b).cascade = s.cascade := rfl
@[simp] theorem setMailbox_dlSent (mb : Nat) (b : Mailbox) : (s.setMailbox mb b).dlSent = s.dlSent := rfl
@[simp] theorem setMailbox_port (mb : Nat) (b : Mailbox) : (s.setMailbox mb b).port = s.port := rfl
@[simp] theorem setMailbox_regs (mb : Nat) (b : Mailbox) : (s.setMailbox mb b).regs = s.regs := rfl
@[simp] theorem setMailbox_mailboxes (mb : Nat) (b : Mailbox) : (s.setMailbox mb b).mailboxes = tset s.mailboxes mb b := rfl
@[simp] theorem setMailbox_readings (mb : Nat) (b : Mailbox) : (s.setMailbox mb b).readings = s.readings := rfl
@[simp] theorem setMailbox_guard (mb : Nat) (b : Mailbox) : (s.setMailbox mb b).guard = s.guard := rfl
@[simp] theorem setMailbox_keeper (mb : Nat) (b : Mailbox) : (s.setMailbox mb b).keeper = s.keeper := rfl
@[simp] theorem setMailbox_power (mb : Nat) (b : Mailbox) : (s.setMailbox mb b).power = s.power := rfl
@[simp] theorem setMailbox_propolis (mb : Nat) (b : Mailbox) : (s.setMailbox mb b).propolis = s.propolis := rfl
@[simp] theorem setMailbox_ledger (mb : Nat) (b : Mailbox) : (s.setMailbox mb b).ledger = s.ledger := rfl
@[simp] theorem setMailbox_pins (mb : Nat) (b : Mailbox) : (s.setMailbox mb b).pins = s.pins := rfl

@[simp] theorem setQp_pending (q : Nat) (v : Qp) : (s.setQp q v).pending = s.pending := rfl
@[simp] theorem setQp_free (q : Nat) (v : Qp) : (s.setQp q v).free = s.free := rfl
@[simp] theorem setQp_mem (q : Nat) (v : Qp) : (s.setQp q v).mem = s.mem := rfl
@[simp] theorem setQp_spillOf (q : Nat) (v : Qp) : (s.setQp q v).spillOf = s.spillOf := rfl
@[simp] theorem setQp_memCtl (q : Nat) (v : Qp) : (s.setQp q v).memCtl = s.memCtl := rfl
@[simp] theorem setQp_store (q : Nat) (v : Qp) : (s.setQp q v).store = s.store := rfl
@[simp] theorem setQp_coreMap (q : Nat) (v : Qp) : (s.setQp q v).coreMap = s.coreMap := rfl
@[simp] theorem setQp_cores (q : Nat) (v : Qp) : (s.setQp q v).cores = s.cores := rfl
@[simp] theorem setQp_combScalars (q : Nat) (v : Qp) : (s.setQp q v).combScalars = s.combScalars := rfl
@[simp] theorem setQp_brdCtrl (q : Nat) (v : Qp) : (s.setQp q v).brdCtrl = s.brdCtrl := rfl
@[simp] theorem setQp_brdStamp (q : Nat) (v : Qp) : (s.setQp q v).brdStamp = s.brdStamp := rfl
@[simp] theorem setQp_brdStarted (q : Nat) (v : Qp) : (s.setQp q v).brdStarted = s.brdStarted := rfl
@[simp] theorem setQp_brdFault (q : Nat) (v : Qp) : (s.setQp q v).brdFault = s.brdFault := rfl
@[simp] theorem setQp_shareWindow (q : Nat) (v : Qp) : (s.setQp q v).shareWindow = s.shareWindow := rfl
@[simp] theorem setQp_cowCount (q : Nat) (v : Qp) : (s.setQp q v).cowCount = s.cowCount := rfl
@[simp] theorem setQp_evictCount (q : Nat) (v : Qp) : (s.setQp q v).evictCount = s.evictCount := rfl
@[simp] theorem setQp_necPoll (q : Nat) (v : Qp) : (s.setQp q v).necPoll = s.necPoll := rfl
@[simp] theorem setQp_necRingBase (q : Nat) (v : Qp) : (s.setQp q v).necRingBase = s.necRingBase := rfl
@[simp] theorem setQp_slots (q : Nat) (v : Qp) : (s.setQp q v).slots = s.slots := rfl
@[simp] theorem setQp_steps (q : Nat) (v : Qp) : (s.setQp q v).steps = s.steps := rfl
@[simp] theorem setQp_learnSteps (q : Nat) (v : Qp) : (s.setQp q v).learnSteps = s.learnSteps := rfl
@[simp] theorem setQp_ctxRegs (q : Nat) (v : Qp) : (s.setQp q v).ctxRegs = s.ctxRegs := rfl
@[simp] theorem setQp_ctxs (q : Nat) (v : Qp) : (s.setQp q v).ctxs = s.ctxs := rfl
@[simp] theorem setQp_adapters (q : Nat) (v : Qp) : (s.setQp q v).adapters = s.adapters := rfl
@[simp] theorem setQp_turns (q : Nat) (v : Qp) : (s.setQp q v).turns = s.turns := rfl
@[simp] theorem setQp_cascade (q : Nat) (v : Qp) : (s.setQp q v).cascade = s.cascade := rfl
@[simp] theorem setQp_dlSent (q : Nat) (v : Qp) : (s.setQp q v).dlSent = s.dlSent := rfl
@[simp] theorem setQp_port (q : Nat) (v : Qp) : (s.setQp q v).port = { s.port with qps := tset s.port.qps q v } := rfl
@[simp] theorem setQp_regs (q : Nat) (v : Qp) : (s.setQp q v).regs = s.regs := rfl
@[simp] theorem setQp_mailboxes (q : Nat) (v : Qp) : (s.setQp q v).mailboxes = s.mailboxes := rfl
@[simp] theorem setQp_readings (q : Nat) (v : Qp) : (s.setQp q v).readings = s.readings := rfl
@[simp] theorem setQp_guard (q : Nat) (v : Qp) : (s.setQp q v).guard = s.guard := rfl
@[simp] theorem setQp_keeper (q : Nat) (v : Qp) : (s.setQp q v).keeper = s.keeper := rfl
@[simp] theorem setQp_power (q : Nat) (v : Qp) : (s.setQp q v).power = s.power := rfl
@[simp] theorem setQp_propolis (q : Nat) (v : Qp) : (s.setQp q v).propolis = s.propolis := rfl
@[simp] theorem setQp_ledger (q : Nat) (v : Qp) : (s.setQp q v).ledger = s.ledger := rfl
@[simp] theorem setQp_pins (q : Nat) (v : Qp) : (s.setQp q v).pins = s.pins := rfl

@[simp] theorem setLink_pending (k : Nat) (l : Link) : (s.setLink k l).pending = s.pending := rfl
@[simp] theorem setLink_free (k : Nat) (l : Link) : (s.setLink k l).free = s.free := rfl
@[simp] theorem setLink_mem (k : Nat) (l : Link) : (s.setLink k l).mem = s.mem := rfl
@[simp] theorem setLink_spillOf (k : Nat) (l : Link) : (s.setLink k l).spillOf = s.spillOf := rfl
@[simp] theorem setLink_memCtl (k : Nat) (l : Link) : (s.setLink k l).memCtl = s.memCtl := rfl
@[simp] theorem setLink_store (k : Nat) (l : Link) : (s.setLink k l).store = s.store := rfl
@[simp] theorem setLink_coreMap (k : Nat) (l : Link) : (s.setLink k l).coreMap = s.coreMap := rfl
@[simp] theorem setLink_cores (k : Nat) (l : Link) : (s.setLink k l).cores = s.cores := rfl
@[simp] theorem setLink_combScalars (k : Nat) (l : Link) : (s.setLink k l).combScalars = s.combScalars := rfl
@[simp] theorem setLink_brdCtrl (k : Nat) (l : Link) : (s.setLink k l).brdCtrl = s.brdCtrl := rfl
@[simp] theorem setLink_brdStamp (k : Nat) (l : Link) : (s.setLink k l).brdStamp = s.brdStamp := rfl
@[simp] theorem setLink_brdStarted (k : Nat) (l : Link) : (s.setLink k l).brdStarted = s.brdStarted := rfl
@[simp] theorem setLink_brdFault (k : Nat) (l : Link) : (s.setLink k l).brdFault = s.brdFault := rfl
@[simp] theorem setLink_shareWindow (k : Nat) (l : Link) : (s.setLink k l).shareWindow = s.shareWindow := rfl
@[simp] theorem setLink_cowCount (k : Nat) (l : Link) : (s.setLink k l).cowCount = s.cowCount := rfl
@[simp] theorem setLink_evictCount (k : Nat) (l : Link) : (s.setLink k l).evictCount = s.evictCount := rfl
@[simp] theorem setLink_necPoll (k : Nat) (l : Link) : (s.setLink k l).necPoll = s.necPoll := rfl
@[simp] theorem setLink_necRingBase (k : Nat) (l : Link) : (s.setLink k l).necRingBase = s.necRingBase := rfl
@[simp] theorem setLink_slots (k : Nat) (l : Link) : (s.setLink k l).slots = s.slots := rfl
@[simp] theorem setLink_steps (k : Nat) (l : Link) : (s.setLink k l).steps = s.steps := rfl
@[simp] theorem setLink_learnSteps (k : Nat) (l : Link) : (s.setLink k l).learnSteps = s.learnSteps := rfl
@[simp] theorem setLink_ctxRegs (k : Nat) (l : Link) : (s.setLink k l).ctxRegs = s.ctxRegs := rfl
@[simp] theorem setLink_ctxs (k : Nat) (l : Link) : (s.setLink k l).ctxs = s.ctxs := rfl
@[simp] theorem setLink_adapters (k : Nat) (l : Link) : (s.setLink k l).adapters = s.adapters := rfl
@[simp] theorem setLink_turns (k : Nat) (l : Link) : (s.setLink k l).turns = s.turns := rfl
@[simp] theorem setLink_cascade (k : Nat) (l : Link) : (s.setLink k l).cascade = { s.cascade with links := tset s.cascade.links k l } := rfl
@[simp] theorem setLink_dlSent (k : Nat) (l : Link) : (s.setLink k l).dlSent = s.dlSent := rfl
@[simp] theorem setLink_port (k : Nat) (l : Link) : (s.setLink k l).port = s.port := rfl
@[simp] theorem setLink_regs (k : Nat) (l : Link) : (s.setLink k l).regs = s.regs := rfl
@[simp] theorem setLink_mailboxes (k : Nat) (l : Link) : (s.setLink k l).mailboxes = s.mailboxes := rfl
@[simp] theorem setLink_readings (k : Nat) (l : Link) : (s.setLink k l).readings = s.readings := rfl
@[simp] theorem setLink_guard (k : Nat) (l : Link) : (s.setLink k l).guard = s.guard := rfl
@[simp] theorem setLink_keeper (k : Nat) (l : Link) : (s.setLink k l).keeper = s.keeper := rfl
@[simp] theorem setLink_power (k : Nat) (l : Link) : (s.setLink k l).power = s.power := rfl
@[simp] theorem setLink_propolis (k : Nat) (l : Link) : (s.setLink k l).propolis = s.propolis := rfl
@[simp] theorem setLink_ledger (k : Nat) (l : Link) : (s.setLink k l).ledger = s.ledger := rfl
@[simp] theorem setLink_pins (k : Nat) (l : Link) : (s.setLink k l).pins = s.pins := rfl

@[simp] theorem write_pending (a : Nat) (b : List Byte) : (s.write a b).pending = s.pending := rfl
@[simp] theorem write_free (a : Nat) (b : List Byte) : (s.write a b).free = s.free := rfl
@[simp] theorem write_mem (a : Nat) (b : List Byte) : (s.write a b).mem = memWrite s.mem a b := rfl
@[simp] theorem write_spillOf (a : Nat) (b : List Byte) : (s.write a b).spillOf = s.spillOf := rfl
@[simp] theorem write_memCtl (a : Nat) (b : List Byte) : (s.write a b).memCtl = s.memCtl := rfl
@[simp] theorem write_store (a : Nat) (b : List Byte) : (s.write a b).store = s.store := rfl
@[simp] theorem write_coreMap (a : Nat) (b : List Byte) : (s.write a b).coreMap = s.coreMap := rfl
@[simp] theorem write_cores (a : Nat) (b : List Byte) : (s.write a b).cores = s.cores := rfl
@[simp] theorem write_combScalars (a : Nat) (b : List Byte) : (s.write a b).combScalars = s.combScalars := rfl
@[simp] theorem write_brdCtrl (a : Nat) (b : List Byte) : (s.write a b).brdCtrl = s.brdCtrl := rfl
@[simp] theorem write_brdStamp (a : Nat) (b : List Byte) : (s.write a b).brdStamp = s.brdStamp := rfl
@[simp] theorem write_brdStarted (a : Nat) (b : List Byte) : (s.write a b).brdStarted = s.brdStarted := rfl
@[simp] theorem write_brdFault (a : Nat) (b : List Byte) : (s.write a b).brdFault = s.brdFault := rfl
@[simp] theorem write_shareWindow (a : Nat) (b : List Byte) : (s.write a b).shareWindow = s.shareWindow := rfl
@[simp] theorem write_cowCount (a : Nat) (b : List Byte) : (s.write a b).cowCount = s.cowCount := rfl
@[simp] theorem write_evictCount (a : Nat) (b : List Byte) : (s.write a b).evictCount = s.evictCount := rfl
@[simp] theorem write_necPoll (a : Nat) (b : List Byte) : (s.write a b).necPoll = s.necPoll := rfl
@[simp] theorem write_necRingBase (a : Nat) (b : List Byte) : (s.write a b).necRingBase = s.necRingBase := rfl
@[simp] theorem write_slots (a : Nat) (b : List Byte) : (s.write a b).slots = s.slots := rfl
@[simp] theorem write_steps (a : Nat) (b : List Byte) : (s.write a b).steps = s.steps := rfl
@[simp] theorem write_learnSteps (a : Nat) (b : List Byte) : (s.write a b).learnSteps = s.learnSteps := rfl
@[simp] theorem write_ctxRegs (a : Nat) (b : List Byte) : (s.write a b).ctxRegs = s.ctxRegs := rfl
@[simp] theorem write_ctxs (a : Nat) (b : List Byte) : (s.write a b).ctxs = s.ctxs := rfl
@[simp] theorem write_adapters (a : Nat) (b : List Byte) : (s.write a b).adapters = s.adapters := rfl
@[simp] theorem write_turns (a : Nat) (b : List Byte) : (s.write a b).turns = s.turns := rfl
@[simp] theorem write_cascade (a : Nat) (b : List Byte) : (s.write a b).cascade = s.cascade := rfl
@[simp] theorem write_dlSent (a : Nat) (b : List Byte) : (s.write a b).dlSent = s.dlSent := rfl
@[simp] theorem write_port (a : Nat) (b : List Byte) : (s.write a b).port = s.port := rfl
@[simp] theorem write_regs (a : Nat) (b : List Byte) : (s.write a b).regs = s.regs := rfl
@[simp] theorem write_mailboxes (a : Nat) (b : List Byte) : (s.write a b).mailboxes = s.mailboxes := rfl
@[simp] theorem write_readings (a : Nat) (b : List Byte) : (s.write a b).readings = s.readings := rfl
@[simp] theorem write_guard (a : Nat) (b : List Byte) : (s.write a b).guard = s.guard := rfl
@[simp] theorem write_keeper (a : Nat) (b : List Byte) : (s.write a b).keeper = s.keeper := rfl
@[simp] theorem write_power (a : Nat) (b : List Byte) : (s.write a b).power = s.power := rfl
@[simp] theorem write_propolis (a : Nat) (b : List Byte) : (s.write a b).propolis = s.propolis := rfl
@[simp] theorem write_ledger (a : Nat) (b : List Byte) : (s.write a b).ledger = s.ledger := rfl
@[simp] theorem write_pins (a : Nat) (b : List Byte) : (s.write a b).pins = s.pins := rfl

@[simp] theorem zero_pending (lo hi : Nat) : (s.zero lo hi).pending = s.pending := rfl
@[simp] theorem zero_free (lo hi : Nat) : (s.zero lo hi).free = s.free := rfl
@[simp] theorem zero_mem (lo hi : Nat) : (s.zero lo hi).mem = memZeroRange s.mem lo hi := rfl
@[simp] theorem zero_spillOf (lo hi : Nat) : (s.zero lo hi).spillOf = s.spillOf := rfl
@[simp] theorem zero_memCtl (lo hi : Nat) : (s.zero lo hi).memCtl = s.memCtl := rfl
@[simp] theorem zero_store (lo hi : Nat) : (s.zero lo hi).store = s.store := rfl
@[simp] theorem zero_coreMap (lo hi : Nat) : (s.zero lo hi).coreMap = s.coreMap := rfl
@[simp] theorem zero_cores (lo hi : Nat) : (s.zero lo hi).cores = s.cores := rfl
@[simp] theorem zero_combScalars (lo hi : Nat) : (s.zero lo hi).combScalars = s.combScalars := rfl
@[simp] theorem zero_brdCtrl (lo hi : Nat) : (s.zero lo hi).brdCtrl = s.brdCtrl := rfl
@[simp] theorem zero_brdStamp (lo hi : Nat) : (s.zero lo hi).brdStamp = s.brdStamp := rfl
@[simp] theorem zero_brdStarted (lo hi : Nat) : (s.zero lo hi).brdStarted = s.brdStarted := rfl
@[simp] theorem zero_brdFault (lo hi : Nat) : (s.zero lo hi).brdFault = s.brdFault := rfl
@[simp] theorem zero_shareWindow (lo hi : Nat) : (s.zero lo hi).shareWindow = s.shareWindow := rfl
@[simp] theorem zero_cowCount (lo hi : Nat) : (s.zero lo hi).cowCount = s.cowCount := rfl
@[simp] theorem zero_evictCount (lo hi : Nat) : (s.zero lo hi).evictCount = s.evictCount := rfl
@[simp] theorem zero_necPoll (lo hi : Nat) : (s.zero lo hi).necPoll = s.necPoll := rfl
@[simp] theorem zero_necRingBase (lo hi : Nat) : (s.zero lo hi).necRingBase = s.necRingBase := rfl
@[simp] theorem zero_slots (lo hi : Nat) : (s.zero lo hi).slots = s.slots := rfl
@[simp] theorem zero_steps (lo hi : Nat) : (s.zero lo hi).steps = s.steps := rfl
@[simp] theorem zero_learnSteps (lo hi : Nat) : (s.zero lo hi).learnSteps = s.learnSteps := rfl
@[simp] theorem zero_ctxRegs (lo hi : Nat) : (s.zero lo hi).ctxRegs = s.ctxRegs := rfl
@[simp] theorem zero_ctxs (lo hi : Nat) : (s.zero lo hi).ctxs = s.ctxs := rfl
@[simp] theorem zero_adapters (lo hi : Nat) : (s.zero lo hi).adapters = s.adapters := rfl
@[simp] theorem zero_turns (lo hi : Nat) : (s.zero lo hi).turns = s.turns := rfl
@[simp] theorem zero_cascade (lo hi : Nat) : (s.zero lo hi).cascade = s.cascade := rfl
@[simp] theorem zero_dlSent (lo hi : Nat) : (s.zero lo hi).dlSent = s.dlSent := rfl
@[simp] theorem zero_port (lo hi : Nat) : (s.zero lo hi).port = s.port := rfl
@[simp] theorem zero_regs (lo hi : Nat) : (s.zero lo hi).regs = s.regs := rfl
@[simp] theorem zero_mailboxes (lo hi : Nat) : (s.zero lo hi).mailboxes = s.mailboxes := rfl
@[simp] theorem zero_readings (lo hi : Nat) : (s.zero lo hi).readings = s.readings := rfl
@[simp] theorem zero_guard (lo hi : Nat) : (s.zero lo hi).guard = s.guard := rfl
@[simp] theorem zero_keeper (lo hi : Nat) : (s.zero lo hi).keeper = s.keeper := rfl
@[simp] theorem zero_power (lo hi : Nat) : (s.zero lo hi).power = s.power := rfl
@[simp] theorem zero_propolis (lo hi : Nat) : (s.zero lo hi).propolis = s.propolis := rfl
@[simp] theorem zero_ledger (lo hi : Nat) : (s.zero lo hi).ledger = s.ledger := rfl
@[simp] theorem zero_pins (lo hi : Nat) : (s.zero lo hi).pins = s.pins := rfl

@[simp] theorem report_pending (code value unit : Nat) : (s.report code value unit).pending = s.pending := rfl
@[simp] theorem report_free (code value unit : Nat) : (s.report code value unit).free = s.free := rfl
@[simp] theorem report_mem (code value unit : Nat) : (s.report code value unit).mem = s.mem := rfl
@[simp] theorem report_spillOf (code value unit : Nat) : (s.report code value unit).spillOf = s.spillOf := rfl
@[simp] theorem report_memCtl (code value unit : Nat) : (s.report code value unit).memCtl = s.memCtl := rfl
@[simp] theorem report_store (code value unit : Nat) : (s.report code value unit).store = s.store := rfl
@[simp] theorem report_coreMap (code value unit : Nat) : (s.report code value unit).coreMap = s.coreMap := rfl
@[simp] theorem report_cores (code value unit : Nat) : (s.report code value unit).cores = s.cores := rfl
@[simp] theorem report_combScalars (code value unit : Nat) : (s.report code value unit).combScalars = s.combScalars := rfl
@[simp] theorem report_brdCtrl (code value unit : Nat) : (s.report code value unit).brdCtrl = s.brdCtrl := rfl
@[simp] theorem report_brdStamp (code value unit : Nat) : (s.report code value unit).brdStamp = s.brdStamp := rfl
@[simp] theorem report_brdStarted (code value unit : Nat) : (s.report code value unit).brdStarted = s.brdStarted := rfl
@[simp] theorem report_brdFault (code value unit : Nat) : (s.report code value unit).brdFault = s.brdFault := rfl
@[simp] theorem report_shareWindow (code value unit : Nat) : (s.report code value unit).shareWindow = s.shareWindow := rfl
@[simp] theorem report_cowCount (code value unit : Nat) : (s.report code value unit).cowCount = s.cowCount := rfl
@[simp] theorem report_evictCount (code value unit : Nat) : (s.report code value unit).evictCount = s.evictCount := rfl
@[simp] theorem report_necPoll (code value unit : Nat) : (s.report code value unit).necPoll = s.necPoll := rfl
@[simp] theorem report_necRingBase (code value unit : Nat) : (s.report code value unit).necRingBase = s.necRingBase := rfl
@[simp] theorem report_slots (code value unit : Nat) : (s.report code value unit).slots = s.slots := rfl
@[simp] theorem report_steps (code value unit : Nat) : (s.report code value unit).steps = s.steps := rfl
@[simp] theorem report_learnSteps (code value unit : Nat) : (s.report code value unit).learnSteps = s.learnSteps := rfl
@[simp] theorem report_ctxRegs (code value unit : Nat) : (s.report code value unit).ctxRegs = s.ctxRegs := rfl
@[simp] theorem report_ctxs (code value unit : Nat) : (s.report code value unit).ctxs = s.ctxs := rfl
@[simp] theorem report_adapters (code value unit : Nat) : (s.report code value unit).adapters = s.adapters := rfl
@[simp] theorem report_turns (code value unit : Nat) : (s.report code value unit).turns = s.turns := rfl
@[simp] theorem report_cascade (code value unit : Nat) : (s.report code value unit).cascade = s.cascade := rfl
@[simp] theorem report_dlSent (code value unit : Nat) : (s.report code value unit).dlSent = s.dlSent := rfl
@[simp] theorem report_port (code value unit : Nat) : (s.report code value unit).port = s.port := rfl
@[simp] theorem report_regs (code value unit : Nat) : (s.report code value unit).regs = s.regs := rfl
@[simp] theorem report_mailboxes (code value unit : Nat) : (s.report code value unit).mailboxes = s.mailboxes := rfl
@[simp] theorem report_readings (code value unit : Nat) : (s.report code value unit).readings = s.readings := rfl
@[simp] theorem report_guard (code value unit : Nat) : (s.report code value unit).guard = s.guard := rfl
@[simp] theorem report_keeper (code value unit : Nat) : (s.report code value unit).keeper = s.keeper := rfl
@[simp] theorem report_power (code value unit : Nat) : (s.report code value unit).power = s.power := rfl
@[simp] theorem report_propolis (code value unit : Nat) : (s.report code value unit).propolis = s.propolis := rfl
@[simp] theorem report_ledger (code value unit : Nat) : (s.report code value unit).ledger = s.ledger.report code value unit := rfl
@[simp] theorem report_pins (code value unit : Nat) : (s.report code value unit).pins = s.pins := rfl

@[simp] theorem transmit_pending (f : EthFrame) : (s.transmit f).pending = s.pending := rfl
@[simp] theorem transmit_free (f : EthFrame) : (s.transmit f).free = s.free := rfl
@[simp] theorem transmit_mem (f : EthFrame) : (s.transmit f).mem = s.mem := rfl
@[simp] theorem transmit_spillOf (f : EthFrame) : (s.transmit f).spillOf = s.spillOf := rfl
@[simp] theorem transmit_memCtl (f : EthFrame) : (s.transmit f).memCtl = s.memCtl := rfl
@[simp] theorem transmit_store (f : EthFrame) : (s.transmit f).store = s.store := rfl
@[simp] theorem transmit_coreMap (f : EthFrame) : (s.transmit f).coreMap = s.coreMap := rfl
@[simp] theorem transmit_cores (f : EthFrame) : (s.transmit f).cores = s.cores := rfl
@[simp] theorem transmit_combScalars (f : EthFrame) : (s.transmit f).combScalars = s.combScalars := rfl
@[simp] theorem transmit_brdCtrl (f : EthFrame) : (s.transmit f).brdCtrl = s.brdCtrl := rfl
@[simp] theorem transmit_brdStamp (f : EthFrame) : (s.transmit f).brdStamp = s.brdStamp := rfl
@[simp] theorem transmit_brdStarted (f : EthFrame) : (s.transmit f).brdStarted = s.brdStarted := rfl
@[simp] theorem transmit_brdFault (f : EthFrame) : (s.transmit f).brdFault = s.brdFault := rfl
@[simp] theorem transmit_shareWindow (f : EthFrame) : (s.transmit f).shareWindow = s.shareWindow := rfl
@[simp] theorem transmit_cowCount (f : EthFrame) : (s.transmit f).cowCount = s.cowCount := rfl
@[simp] theorem transmit_evictCount (f : EthFrame) : (s.transmit f).evictCount = s.evictCount := rfl
@[simp] theorem transmit_necPoll (f : EthFrame) : (s.transmit f).necPoll = s.necPoll := rfl
@[simp] theorem transmit_necRingBase (f : EthFrame) : (s.transmit f).necRingBase = s.necRingBase := rfl
@[simp] theorem transmit_slots (f : EthFrame) : (s.transmit f).slots = s.slots := rfl
@[simp] theorem transmit_steps (f : EthFrame) : (s.transmit f).steps = s.steps := rfl
@[simp] theorem transmit_learnSteps (f : EthFrame) : (s.transmit f).learnSteps = s.learnSteps := rfl
@[simp] theorem transmit_ctxRegs (f : EthFrame) : (s.transmit f).ctxRegs = s.ctxRegs := rfl
@[simp] theorem transmit_ctxs (f : EthFrame) : (s.transmit f).ctxs = s.ctxs := rfl
@[simp] theorem transmit_adapters (f : EthFrame) : (s.transmit f).adapters = s.adapters := rfl
@[simp] theorem transmit_turns (f : EthFrame) : (s.transmit f).turns = s.turns := rfl
@[simp] theorem transmit_cascade (f : EthFrame) : (s.transmit f).cascade = s.cascade := rfl
@[simp] theorem transmit_dlSent (f : EthFrame) : (s.transmit f).dlSent = s.dlSent := rfl
@[simp] theorem transmit_port (f : EthFrame) : (s.transmit f).port = s.port.transmit (s.frameRequest f) := rfl
@[simp] theorem transmit_regs (f : EthFrame) : (s.transmit f).regs = s.regs := rfl
@[simp] theorem transmit_mailboxes (f : EthFrame) : (s.transmit f).mailboxes = s.mailboxes := rfl
@[simp] theorem transmit_readings (f : EthFrame) : (s.transmit f).readings = s.readings := rfl
@[simp] theorem transmit_guard (f : EthFrame) : (s.transmit f).guard = s.guard := rfl
@[simp] theorem transmit_keeper (f : EthFrame) : (s.transmit f).keeper = s.keeper := rfl
@[simp] theorem transmit_power (f : EthFrame) : (s.transmit f).power = s.power := rfl
@[simp] theorem transmit_propolis (f : EthFrame) : (s.transmit f).propolis = s.propolis := rfl
@[simp] theorem transmit_ledger (f : EthFrame) : (s.transmit f).ledger = s.ledger := rfl
@[simp] theorem transmit_pins (f : EthFrame) : (s.transmit f).pins = s.pins := rfl

@[simp] theorem setStep_pending (t : GenStep) : (s.setStep t).pending = s.pending := rfl
@[simp] theorem setStep_free (t : GenStep) : (s.setStep t).free = s.free := rfl
@[simp] theorem setStep_mem (t : GenStep) : (s.setStep t).mem = s.mem := rfl
@[simp] theorem setStep_spillOf (t : GenStep) : (s.setStep t).spillOf = s.spillOf := rfl
@[simp] theorem setStep_memCtl (t : GenStep) : (s.setStep t).memCtl = s.memCtl := rfl
@[simp] theorem setStep_store (t : GenStep) : (s.setStep t).store = s.store := rfl
@[simp] theorem setStep_coreMap (t : GenStep) : (s.setStep t).coreMap = s.coreMap := rfl
@[simp] theorem setStep_cores (t : GenStep) : (s.setStep t).cores = s.cores := rfl
@[simp] theorem setStep_combScalars (t : GenStep) : (s.setStep t).combScalars = s.combScalars := rfl
@[simp] theorem setStep_brdCtrl (t : GenStep) : (s.setStep t).brdCtrl = s.brdCtrl := rfl
@[simp] theorem setStep_brdStamp (t : GenStep) : (s.setStep t).brdStamp = s.brdStamp := rfl
@[simp] theorem setStep_brdStarted (t : GenStep) : (s.setStep t).brdStarted = s.brdStarted := rfl
@[simp] theorem setStep_brdFault (t : GenStep) : (s.setStep t).brdFault = s.brdFault := rfl
@[simp] theorem setStep_shareWindow (t : GenStep) : (s.setStep t).shareWindow = s.shareWindow := rfl
@[simp] theorem setStep_cowCount (t : GenStep) : (s.setStep t).cowCount = s.cowCount := rfl
@[simp] theorem setStep_evictCount (t : GenStep) : (s.setStep t).evictCount = s.evictCount := rfl
@[simp] theorem setStep_necPoll (t : GenStep) : (s.setStep t).necPoll = s.necPoll := rfl
@[simp] theorem setStep_necRingBase (t : GenStep) : (s.setStep t).necRingBase = s.necRingBase := rfl
@[simp] theorem setStep_slots (t : GenStep) : (s.setStep t).slots = s.slots := rfl
@[simp] theorem setStep_learnSteps (t : GenStep) : (s.setStep t).learnSteps = s.learnSteps := rfl
@[simp] theorem setStep_ctxRegs (t : GenStep) : (s.setStep t).ctxRegs = s.ctxRegs := rfl
@[simp] theorem setStep_ctxs (t : GenStep) : (s.setStep t).ctxs = s.ctxs := rfl
@[simp] theorem setStep_adapters (t : GenStep) : (s.setStep t).adapters = s.adapters := rfl
@[simp] theorem setStep_turns (t : GenStep) : (s.setStep t).turns = s.turns := rfl
@[simp] theorem setStep_cascade (t : GenStep) : (s.setStep t).cascade = s.cascade := rfl
@[simp] theorem setStep_dlSent (t : GenStep) : (s.setStep t).dlSent = s.dlSent := rfl
@[simp] theorem setStep_port (t : GenStep) : (s.setStep t).port = s.port := rfl
@[simp] theorem setStep_regs (t : GenStep) : (s.setStep t).regs = s.regs := rfl
@[simp] theorem setStep_mailboxes (t : GenStep) : (s.setStep t).mailboxes = s.mailboxes := rfl
@[simp] theorem setStep_readings (t : GenStep) : (s.setStep t).readings = s.readings := rfl
@[simp] theorem setStep_guard (t : GenStep) : (s.setStep t).guard = s.guard := rfl
@[simp] theorem setStep_keeper (t : GenStep) : (s.setStep t).keeper = s.keeper := rfl
@[simp] theorem setStep_power (t : GenStep) : (s.setStep t).power = s.power := rfl
@[simp] theorem setStep_propolis (t : GenStep) : (s.setStep t).propolis = s.propolis := rfl
@[simp] theorem setStep_ledger (t : GenStep) : (s.setStep t).ledger = s.ledger := rfl
@[simp] theorem setStep_pins (t : GenStep) : (s.setStep t).pins = s.pins := rfl

@[simp] theorem setLearn_pending (t : LearnStep) : (s.setLearn t).pending = s.pending := rfl
@[simp] theorem setLearn_free (t : LearnStep) : (s.setLearn t).free = s.free := rfl
@[simp] theorem setLearn_mem (t : LearnStep) : (s.setLearn t).mem = s.mem := rfl
@[simp] theorem setLearn_spillOf (t : LearnStep) : (s.setLearn t).spillOf = s.spillOf := rfl
@[simp] theorem setLearn_memCtl (t : LearnStep) : (s.setLearn t).memCtl = s.memCtl := rfl
@[simp] theorem setLearn_store (t : LearnStep) : (s.setLearn t).store = s.store := rfl
@[simp] theorem setLearn_coreMap (t : LearnStep) : (s.setLearn t).coreMap = s.coreMap := rfl
@[simp] theorem setLearn_cores (t : LearnStep) : (s.setLearn t).cores = s.cores := rfl
@[simp] theorem setLearn_combScalars (t : LearnStep) : (s.setLearn t).combScalars = s.combScalars := rfl
@[simp] theorem setLearn_brdCtrl (t : LearnStep) : (s.setLearn t).brdCtrl = s.brdCtrl := rfl
@[simp] theorem setLearn_brdStamp (t : LearnStep) : (s.setLearn t).brdStamp = s.brdStamp := rfl
@[simp] theorem setLearn_brdStarted (t : LearnStep) : (s.setLearn t).brdStarted = s.brdStarted := rfl
@[simp] theorem setLearn_brdFault (t : LearnStep) : (s.setLearn t).brdFault = s.brdFault := rfl
@[simp] theorem setLearn_shareWindow (t : LearnStep) : (s.setLearn t).shareWindow = s.shareWindow := rfl
@[simp] theorem setLearn_cowCount (t : LearnStep) : (s.setLearn t).cowCount = s.cowCount := rfl
@[simp] theorem setLearn_evictCount (t : LearnStep) : (s.setLearn t).evictCount = s.evictCount := rfl
@[simp] theorem setLearn_necPoll (t : LearnStep) : (s.setLearn t).necPoll = s.necPoll := rfl
@[simp] theorem setLearn_necRingBase (t : LearnStep) : (s.setLearn t).necRingBase = s.necRingBase := rfl
@[simp] theorem setLearn_slots (t : LearnStep) : (s.setLearn t).slots = s.slots := rfl
@[simp] theorem setLearn_steps (t : LearnStep) : (s.setLearn t).steps = s.steps := rfl
@[simp] theorem setLearn_ctxRegs (t : LearnStep) : (s.setLearn t).ctxRegs = s.ctxRegs := rfl
@[simp] theorem setLearn_ctxs (t : LearnStep) : (s.setLearn t).ctxs = s.ctxs := rfl
@[simp] theorem setLearn_adapters (t : LearnStep) : (s.setLearn t).adapters = s.adapters := rfl
@[simp] theorem setLearn_turns (t : LearnStep) : (s.setLearn t).turns = s.turns := rfl
@[simp] theorem setLearn_cascade (t : LearnStep) : (s.setLearn t).cascade = s.cascade := rfl
@[simp] theorem setLearn_dlSent (t : LearnStep) : (s.setLearn t).dlSent = s.dlSent := rfl
@[simp] theorem setLearn_port (t : LearnStep) : (s.setLearn t).port = s.port := rfl
@[simp] theorem setLearn_regs (t : LearnStep) : (s.setLearn t).regs = s.regs := rfl
@[simp] theorem setLearn_mailboxes (t : LearnStep) : (s.setLearn t).mailboxes = s.mailboxes := rfl
@[simp] theorem setLearn_readings (t : LearnStep) : (s.setLearn t).readings = s.readings := rfl
@[simp] theorem setLearn_guard (t : LearnStep) : (s.setLearn t).guard = s.guard := rfl
@[simp] theorem setLearn_keeper (t : LearnStep) : (s.setLearn t).keeper = s.keeper := rfl
@[simp] theorem setLearn_power (t : LearnStep) : (s.setLearn t).power = s.power := rfl
@[simp] theorem setLearn_propolis (t : LearnStep) : (s.setLearn t).propolis = s.propolis := rfl
@[simp] theorem setLearn_ledger (t : LearnStep) : (s.setLearn t).ledger = s.ledger := rfl
@[simp] theorem setLearn_pins (t : LearnStep) : (s.setLearn t).pins = s.pins := rfl

@[simp] theorem setTurn_pending (t : Turn) : (s.setTurn t).pending = s.pending := rfl
@[simp] theorem setTurn_free (t : Turn) : (s.setTurn t).free = s.free := rfl
@[simp] theorem setTurn_mem (t : Turn) : (s.setTurn t).mem = s.mem := rfl
@[simp] theorem setTurn_spillOf (t : Turn) : (s.setTurn t).spillOf = s.spillOf := rfl
@[simp] theorem setTurn_memCtl (t : Turn) : (s.setTurn t).memCtl = s.memCtl := rfl
@[simp] theorem setTurn_store (t : Turn) : (s.setTurn t).store = s.store := rfl
@[simp] theorem setTurn_coreMap (t : Turn) : (s.setTurn t).coreMap = s.coreMap := rfl
@[simp] theorem setTurn_cores (t : Turn) : (s.setTurn t).cores = s.cores := rfl
@[simp] theorem setTurn_combScalars (t : Turn) : (s.setTurn t).combScalars = s.combScalars := rfl
@[simp] theorem setTurn_brdCtrl (t : Turn) : (s.setTurn t).brdCtrl = s.brdCtrl := rfl
@[simp] theorem setTurn_brdStamp (t : Turn) : (s.setTurn t).brdStamp = s.brdStamp := rfl
@[simp] theorem setTurn_brdStarted (t : Turn) : (s.setTurn t).brdStarted = s.brdStarted := rfl
@[simp] theorem setTurn_brdFault (t : Turn) : (s.setTurn t).brdFault = s.brdFault := rfl
@[simp] theorem setTurn_shareWindow (t : Turn) : (s.setTurn t).shareWindow = s.shareWindow := rfl
@[simp] theorem setTurn_cowCount (t : Turn) : (s.setTurn t).cowCount = s.cowCount := rfl
@[simp] theorem setTurn_evictCount (t : Turn) : (s.setTurn t).evictCount = s.evictCount := rfl
@[simp] theorem setTurn_necPoll (t : Turn) : (s.setTurn t).necPoll = s.necPoll := rfl
@[simp] theorem setTurn_necRingBase (t : Turn) : (s.setTurn t).necRingBase = s.necRingBase := rfl
@[simp] theorem setTurn_slots (t : Turn) : (s.setTurn t).slots = s.slots := rfl
@[simp] theorem setTurn_steps (t : Turn) : (s.setTurn t).steps = s.steps := rfl
@[simp] theorem setTurn_learnSteps (t : Turn) : (s.setTurn t).learnSteps = s.learnSteps := rfl
@[simp] theorem setTurn_ctxRegs (t : Turn) : (s.setTurn t).ctxRegs = s.ctxRegs := rfl
@[simp] theorem setTurn_ctxs (t : Turn) : (s.setTurn t).ctxs = s.ctxs := rfl
@[simp] theorem setTurn_adapters (t : Turn) : (s.setTurn t).adapters = s.adapters := rfl
@[simp] theorem setTurn_cascade (t : Turn) : (s.setTurn t).cascade = s.cascade := rfl
@[simp] theorem setTurn_dlSent (t : Turn) : (s.setTurn t).dlSent = s.dlSent := rfl
@[simp] theorem setTurn_port (t : Turn) : (s.setTurn t).port = s.port := rfl
@[simp] theorem setTurn_regs (t : Turn) : (s.setTurn t).regs = s.regs := rfl
@[simp] theorem setTurn_mailboxes (t : Turn) : (s.setTurn t).mailboxes = s.mailboxes := rfl
@[simp] theorem setTurn_readings (t : Turn) : (s.setTurn t).readings = s.readings := rfl
@[simp] theorem setTurn_guard (t : Turn) : (s.setTurn t).guard = s.guard := rfl
@[simp] theorem setTurn_keeper (t : Turn) : (s.setTurn t).keeper = s.keeper := rfl
@[simp] theorem setTurn_power (t : Turn) : (s.setTurn t).power = s.power := rfl
@[simp] theorem setTurn_propolis (t : Turn) : (s.setTurn t).propolis = s.propolis := rfl
@[simp] theorem setTurn_ledger (t : Turn) : (s.setTurn t).ledger = s.ledger := rfl
@[simp] theorem setTurn_pins (t : Turn) : (s.setTurn t).pins = s.pins := rfl

@[simp] theorem setCap_pending (c : Option Capping) : (s.setCap c).pending = s.pending := rfl
@[simp] theorem setCap_free (c : Option Capping) : (s.setCap c).free = s.free := rfl
@[simp] theorem setCap_mem (c : Option Capping) : (s.setCap c).mem = s.mem := rfl
@[simp] theorem setCap_spillOf (c : Option Capping) : (s.setCap c).spillOf = s.spillOf := rfl
@[simp] theorem setCap_memCtl (c : Option Capping) : (s.setCap c).memCtl = s.memCtl := rfl
@[simp] theorem setCap_store (c : Option Capping) : (s.setCap c).store = s.store := rfl
@[simp] theorem setCap_coreMap (c : Option Capping) : (s.setCap c).coreMap = s.coreMap := rfl
@[simp] theorem setCap_cores (c : Option Capping) : (s.setCap c).cores = s.cores := rfl
@[simp] theorem setCap_combScalars (c : Option Capping) : (s.setCap c).combScalars = s.combScalars := rfl
@[simp] theorem setCap_brdCtrl (c : Option Capping) : (s.setCap c).brdCtrl = s.brdCtrl := rfl
@[simp] theorem setCap_brdStamp (c : Option Capping) : (s.setCap c).brdStamp = s.brdStamp := rfl
@[simp] theorem setCap_brdStarted (c : Option Capping) : (s.setCap c).brdStarted = s.brdStarted := rfl
@[simp] theorem setCap_brdFault (c : Option Capping) : (s.setCap c).brdFault = s.brdFault := rfl
@[simp] theorem setCap_shareWindow (c : Option Capping) : (s.setCap c).shareWindow = s.shareWindow := rfl
@[simp] theorem setCap_cowCount (c : Option Capping) : (s.setCap c).cowCount = s.cowCount := rfl
@[simp] theorem setCap_evictCount (c : Option Capping) : (s.setCap c).evictCount = s.evictCount := rfl
@[simp] theorem setCap_necPoll (c : Option Capping) : (s.setCap c).necPoll = s.necPoll := rfl
@[simp] theorem setCap_necRingBase (c : Option Capping) : (s.setCap c).necRingBase = s.necRingBase := rfl
@[simp] theorem setCap_slots (c : Option Capping) : (s.setCap c).slots = s.slots := rfl
@[simp] theorem setCap_steps (c : Option Capping) : (s.setCap c).steps = s.steps := rfl
@[simp] theorem setCap_learnSteps (c : Option Capping) : (s.setCap c).learnSteps = s.learnSteps := rfl
@[simp] theorem setCap_ctxRegs (c : Option Capping) : (s.setCap c).ctxRegs = s.ctxRegs := rfl
@[simp] theorem setCap_ctxs (c : Option Capping) : (s.setCap c).ctxs = s.ctxs := rfl
@[simp] theorem setCap_adapters (c : Option Capping) : (s.setCap c).adapters = s.adapters := rfl
@[simp] theorem setCap_turns (c : Option Capping) : (s.setCap c).turns = s.turns := rfl
@[simp] theorem setCap_cascade (c : Option Capping) : (s.setCap c).cascade = s.cascade := rfl
@[simp] theorem setCap_dlSent (c : Option Capping) : (s.setCap c).dlSent = s.dlSent := rfl
@[simp] theorem setCap_port (c : Option Capping) : (s.setCap c).port = s.port := rfl
@[simp] theorem setCap_regs (c : Option Capping) : (s.setCap c).regs = s.regs := rfl
@[simp] theorem setCap_mailboxes (c : Option Capping) : (s.setCap c).mailboxes = s.mailboxes := rfl
@[simp] theorem setCap_readings (c : Option Capping) : (s.setCap c).readings = s.readings := rfl
@[simp] theorem setCap_guard (c : Option Capping) : (s.setCap c).guard = { s.guard with cap := c } := rfl
@[simp] theorem setCap_keeper (c : Option Capping) : (s.setCap c).keeper = s.keeper := rfl
@[simp] theorem setCap_power (c : Option Capping) : (s.setCap c).power = s.power := rfl
@[simp] theorem setCap_propolis (c : Option Capping) : (s.setCap c).propolis = s.propolis := rfl
@[simp] theorem setCap_ledger (c : Option Capping) : (s.setCap c).ledger = s.ledger := rfl
@[simp] theorem setCap_pins (c : Option Capping) : (s.setCap c).pins = s.pins := rfl

@[simp] theorem bumpFree_pending : s.bumpFree.pending = s.pending := rfl
@[simp] theorem bumpFree_free : s.bumpFree.free = s.free + 0x10000 := rfl
@[simp] theorem bumpFree_mem : s.bumpFree.mem = s.mem := rfl
@[simp] theorem bumpFree_spillOf : s.bumpFree.spillOf = s.spillOf := rfl
@[simp] theorem bumpFree_memCtl : s.bumpFree.memCtl = s.memCtl := rfl
@[simp] theorem bumpFree_store : s.bumpFree.store = s.store := rfl
@[simp] theorem bumpFree_coreMap : s.bumpFree.coreMap = s.coreMap := rfl
@[simp] theorem bumpFree_cores : s.bumpFree.cores = s.cores := rfl
@[simp] theorem bumpFree_combScalars : s.bumpFree.combScalars = s.combScalars := rfl
@[simp] theorem bumpFree_brdCtrl : s.bumpFree.brdCtrl = s.brdCtrl := rfl
@[simp] theorem bumpFree_brdStamp : s.bumpFree.brdStamp = s.brdStamp := rfl
@[simp] theorem bumpFree_brdStarted : s.bumpFree.brdStarted = s.brdStarted := rfl
@[simp] theorem bumpFree_brdFault : s.bumpFree.brdFault = s.brdFault := rfl
@[simp] theorem bumpFree_shareWindow : s.bumpFree.shareWindow = s.shareWindow := rfl
@[simp] theorem bumpFree_cowCount : s.bumpFree.cowCount = s.cowCount := rfl
@[simp] theorem bumpFree_evictCount : s.bumpFree.evictCount = s.evictCount := rfl
@[simp] theorem bumpFree_necPoll : s.bumpFree.necPoll = s.necPoll := rfl
@[simp] theorem bumpFree_necRingBase : s.bumpFree.necRingBase = s.necRingBase := rfl
@[simp] theorem bumpFree_slots : s.bumpFree.slots = s.slots := rfl
@[simp] theorem bumpFree_steps : s.bumpFree.steps = s.steps := rfl
@[simp] theorem bumpFree_learnSteps : s.bumpFree.learnSteps = s.learnSteps := rfl
@[simp] theorem bumpFree_ctxRegs : s.bumpFree.ctxRegs = s.ctxRegs := rfl
@[simp] theorem bumpFree_ctxs : s.bumpFree.ctxs = s.ctxs := rfl
@[simp] theorem bumpFree_adapters : s.bumpFree.adapters = s.adapters := rfl
@[simp] theorem bumpFree_turns : s.bumpFree.turns = s.turns := rfl
@[simp] theorem bumpFree_cascade : s.bumpFree.cascade = s.cascade := rfl
@[simp] theorem bumpFree_dlSent : s.bumpFree.dlSent = s.dlSent := rfl
@[simp] theorem bumpFree_port : s.bumpFree.port = s.port := rfl
@[simp] theorem bumpFree_regs : s.bumpFree.regs = s.regs := rfl
@[simp] theorem bumpFree_mailboxes : s.bumpFree.mailboxes = s.mailboxes := rfl
@[simp] theorem bumpFree_readings : s.bumpFree.readings = s.readings := rfl
@[simp] theorem bumpFree_guard : s.bumpFree.guard = s.guard := rfl
@[simp] theorem bumpFree_keeper : s.bumpFree.keeper = s.keeper := rfl
@[simp] theorem bumpFree_power : s.bumpFree.power = s.power := rfl
@[simp] theorem bumpFree_propolis : s.bumpFree.propolis = s.propolis := rfl
@[simp] theorem bumpFree_ledger : s.bumpFree.ledger = s.ledger := rfl
@[simp] theorem bumpFree_pins : s.bumpFree.pins = s.pins := rfl

@[simp] theorem setCore_core_self (p : Nat) (c : Core) : (s.setCore p c).core p = c := by simp [State.core]
theorem setCore_core_other (p : Nat) (c : Core) (x : Nat) (h : x ≠ p) : (s.setCore p c).core x = s.core x := by simp [State.core, tgetD_tset_other _ _ _ h]
@[simp] theorem setCreg_creg_self (n : Nat) (r : CtxRegs) : (s.setCreg n r).creg n = r := by simp [State.creg]
theorem setCreg_creg_other (n : Nat) (r : CtxRegs) (x : Nat) (h : x ≠ n) : (s.setCreg n r).creg x = s.creg x := by simp [State.creg, tgetD_tset_other _ _ _ h]
@[simp] theorem setSlot_slot_self (n : Nat) (e : Slot) : (s.setSlot n e).slot n = e := by simp [State.slot]
theorem setSlot_slot_other (n : Nat) (e : Slot) (x : Nat) (h : x ≠ n) : (s.setSlot n e).slot x = s.slot x := by simp [State.slot, tgetD_tset_other _ _ _ h]
@[simp] theorem setMailbox_mailbox_self (mb : Nat) (b : Mailbox) : (s.setMailbox mb b).mailbox mb = b := by simp [State.mailbox]
theorem setMailbox_mailbox_other (mb : Nat) (b : Mailbox) (x : Nat) (h : x ≠ mb) :
    (s.setMailbox mb b).mailbox x = s.mailbox x := by simp [State.mailbox, tgetD_tset_other _ _ _ h]
@[simp] theorem setLink_link_self (k : Nat) (l : Link) : (s.setLink k l).link k = l := by simp [State.link]
theorem setLink_link_other (k : Nat) (l : Link) (x : Nat) (h : x ≠ k) : (s.setLink k l).link x = s.link x := by simp [State.link, tgetD_tset_other _ _ _ h]
@[simp] theorem setCtx_ctx_self (n : Nat) (c : Ctx) : (s.setCtx n c).ctx n = some c := by simp [State.ctx]
theorem setCtx_ctx_other (n : Nat) (c : Ctx) (x : Nat) (h : x ≠ n) : (s.setCtx n c).ctx x = s.ctx x := by simp [State.ctx, tget_tset_other _ _ h]
@[simp] theorem setQp_qp_self (q : Nat) (v : Qp) : (s.setQp q v).qp q = some v := by simp [State.qp]
theorem setQp_qp_other (q : Nat) (v : Qp) (x : Nat) (h : x ≠ q) : (s.setQp q v).qp x = s.qp x := by simp [State.qp, tget_tset_other _ _ h]

end Sys2Proof.Laws
end

