-- ==== Sys2Proof/Laws/Cores.lean ====
section
/-! SUPPORT. The cases of the operations that every engine frame and every link packet shares. -/

namespace Sys2Proof.Laws

open Sys2Proof.Machine

/-- The cases of a frame at the head of an engine's queue: nothing ready, another opcode, a read that ends it, or its start. -/
theorem startHead_cases (s : State) (p e op : Nat) (m : MemOutcome) (k : State → QFrame → Except Nat (State × Started)) :
    (s.head p e = none ∧ s.startHead p e op m k = s) ∨
    (∃ q, s.head p e = some q ∧
      ((frOp q.bytes ≠ op ∧ s.startHead p e op m k = s) ∨
       (frOp q.bytes = op ∧ (s.readOutcome p e q m).2 = false ∧ s.startHead p e op m k = (s.readOutcome p e q m).1) ∨
       (frOp q.bytes = op ∧ (s.readOutcome p e q m).2 = true ∧
        s.startHead p e op m k = (s.readOutcome p e q m).1.startFrame p e q (k (s.readOutcome p e q m).1 q)))) := by
  unfold State.startHead
  cases h : s.head p e with
  | none => simp
  | some q =>
    right
    refine ⟨q, rfl, ?_⟩
    by_cases hop : frOp q.bytes = op
    · right
      generalize hr : s.readOutcome p e q m = r
      obtain ⟨s1, b⟩ := r
      cases b
      · left
        simp [hop, hr]
      · right
        simp [hop, hr]
    · left
      simp [hop]

/-- A frame that starts: its operation's state, accesses at reserved addresses counted, with the frame moved from the head of its
queue among the started ones; or its fault. -/
theorem startFrame_cases (s : State) (p e : Nat) (q : QFrame) (r : Except Nat (State × Started)) :
    (∃ bit, r = .error bit ∧ s.startFrame p e q r = s.faultHead p e q false bit) ∨
    (∃ t u x, r = .ok (t, x) ∧ u = t.countReserved (s.reservedAt p q) ∧
      s.startFrame p e q r = u.setCore p (((u.core p).popHead e q.bytes u.now).addStarted e x)) := by
  cases r with
  | error bit => exact Or.inl ⟨bit, rfl, rfl⟩
  | ok y => exact Or.inr ⟨y.1, _, y.2, rfl, rfl, rfl⟩

/-- The cases of a packet on a link: ignored, answered NAK, of another type, or taken in order. -/
theorem receive_ignored (s : State) (k : Nat) (b : List Byte) (ty : Nat) (h : State → State) (hu : (s.link k).up = false) :
    s.receive k b ty h = s := by
  unfold State.receive
  simp [hu]

end Sys2Proof.Laws
end

