-- ==== Sys2Proof/Laws/Memory.lean ====
section
/-! SUPPORT. Laws of memory: a read after a write, and that every operation over memory keeps its canonical form. -/

namespace Sys2Proof.Laws

open Sys2Proof.Machine

theorem memWf_iff {m : List Host.Cell} : memWf m = true ↔ twf m = true ∧ ∀ c ∈ m, c.2 ≠ 0 := by
  simp [memWf]

@[simp] theorem memWf_nil : memWf [] = true := rfl

/-- Setting a byte keeps the canonical form. -/
theorem memWf_set {m : List Host.Cell} (h : memWf m = true) (a : Nat) (b : Byte) : memWf (memSet m a b) = true := by
  obtain ⟨ht, hz⟩ := memWf_iff.1 h
  unfold memSet
  split
  · exact memWf_iff.2 ⟨twf_terase ht a, fun c hc => hz c (mem_terase hc)⟩
  · rename_i hb
    refine memWf_iff.2 ⟨twf_tset ht a b, fun c hc => ?_⟩
    rcases mem_tset hc with rfl | hc
    · exact hb
    · exact hz c hc

/-- Writing bytes keeps the canonical form. -/
theorem memWf_write {m : List Host.Cell} (h : memWf m = true) (a : Nat) (bs : List Byte) : memWf (memWrite m a bs) = true := by
  induction bs generalizing m a with
  | nil => exact h
  | cons b rest ih => exact ih (memWf_set h a b) (a + 1)

/-- Keeping only some cells keeps the canonical form. -/
theorem memWf_filter {m : List Host.Cell} (h : memWf m = true) (p : Host.Cell → Bool) : memWf (m.filter p) = true := by
  obtain ⟨ht, hz⟩ := memWf_iff.1 h
  exact memWf_iff.2 ⟨twf_filter ht p, fun c hc => hz c (List.mem_filter.1 hc).1⟩

/-- Zeroing a range keeps the canonical form. -/
theorem memWf_zeroRange {m : List Host.Cell} (h : memWf m = true) (lo hi : Nat) : memWf (memZeroRange m lo hi) = true :=
  memWf_filter h _

/-- A byte just set reads back; memory in canonical form. -/
theorem memGet_set_self {m : List Host.Cell} (h : memWf m = true) (a : Nat) (b : Byte) : memGet (memSet m a b) a = b := by
  unfold memSet memGet
  split
  · rename_i hb
    simp [tgetD, tget_terase_self (memWf_iff.1 h).1, hb]
  · simp

/-- Setting a byte leaves every other address as it was. -/
theorem memGet_set_other (m : List Host.Cell) {a x : Nat} (b : Byte) (h : x ≠ a) : memGet (memSet m a b) x = memGet m x := by
  unfold memSet memGet
  split
  · simp [tgetD, tget_terase_other m h]
  · exact tgetD_tset_other m b 0 h

/-- Writing bytes leaves every address outside them as it was. -/
theorem memGet_write_outside (m : List Host.Cell) (a x : Nat) (bs : List Byte) (h : x < a ∨ a + bs.length ≤ x) :
    memGet (memWrite m a bs) x = memGet m x := by
  induction bs generalizing m a with
  | nil => rfl
  | cons b rest ih =>
    simp only [List.length_cons] at h
    rw [memWrite, ih (memSet m a b) (a + 1) (by omega), memGet_set_other m b (by omega)]

/-- Bytes just written read back; memory in canonical form. -/
theorem memRead_write {m : List Host.Cell} (h : memWf m = true) (a : Nat) (bs : List Byte) :
    memRead (memWrite m a bs) a bs.length = bs := by
  induction bs generalizing m a with
  | nil => rfl
  | cons b rest ih =>
    simp only [List.length_cons, memRead, memWrite]
    rw [ih (memWf_set h a b) (a + 1), memGet_write_outside _ _ _ _ (by omega), memGet_set_self h]

/-- Every memory cell written by a list of writes stays in canonical form. -/
theorem memWf_foldl_set {β : Type} (l : List β) (f : β → Nat) (g : β → Byte) {m : List Host.Cell} (h : memWf m = true) :
    memWf (l.foldl (fun u x => memSet u (f x) (g x)) m) = true := by
  induction l generalizing m with
  | nil => exact h
  | cons x rest ih => exact ih (memWf_set h (f x) (g x))

/-- The undefined contents after a reset are in canonical form. -/
theorem memWf_undefined (k : Nat) : memWf (undefinedMemory k) = true := by
  unfold undefinedMemory
  have keep : ∀ (l m : List Host.Cell), memWf m = true →
      memWf (l.foldl (fun m c => if isMemory c.1 then memSet m c.1 c.2 else m) m) = true := by
    intro l
    induction l with
    | nil => intro m h; exact h
    | cons c rest ih =>
      intro m h
      refine ih _ ?_
      dsimp only
      split
      · exact memWf_set h _ _
      · exact h
  exact keep _ _ rfl

end Sys2Proof.Laws
end

