-- ==== Sys2Proof/Laws/Log.lean ====
section
/-! SUPPORT. What the firmware log and a tick can change. -/

namespace Sys2Proof.Machine

/-- Staging a record changes the Keeper's staging buffer and its counts only. -/
theorem State.stageLog_frame (s : State) (r : List Byte) :
    ∃ k, s.stageLog r = { s with keeper := k } ∧ k.mode = s.keeper.mode ∧ k.powerState = s.keeper.powerState ∧
      k.journal = s.keeper.journal ∧ k.logBase = s.keeper.logBase ∧ k.logCount = s.keeper.logCount ∧
      (k.logStaging = s.keeper.logStaging ∨ k.logStaging = s.keeper.logStaging ++ [r]) := by
  unfold State.stageLog
  by_cases h : s.keeper.logStaging.length < stagingRecords
  · simp only [h, if_true]; exact ⟨_, rfl, rfl, rfl, rfl, rfl, rfl, .inr rfl⟩
  · simp only [h, if_false]; exact ⟨_, rfl, rfl, rfl, rfl, rfl, rfl, .inl rfl⟩

/-- Flushing writes the oldest staged record at its place in the ring and changes the Keeper's log fields. -/
theorem State.flushLog_frame (s : State) :
    ∃ m k, s.flushLog = { s with mem := m, keeper := k } ∧ k.mode = s.keeper.mode ∧ k.powerState = s.keeper.powerState ∧
      k.journal = s.keeper.journal ∧
      (m = s.mem ∨ ∃ r ∈ s.keeper.logStaging, m = memWrite s.mem (s.keeper.logBase.toNat + s.keeper.logCount % logBytes) r) := by
  unfold State.flushLog
  split
  · exact ⟨s.mem, s.keeper, rfl, rfl, rfl, rfl, .inl rfl⟩
  next r rest h =>
    by_cases hp : s.keeper.powerState = 2 <;> by_cases hl : s.keeper.lostSince = 0
    all_goals
      simp only [State.touchRegion, State.write, hp, hl, if_true, if_false]
      first
        | exact ⟨_, _, rfl, rfl, rfl, rfl, .inr ⟨r, by simp [h], rfl⟩⟩
        | (obtain ⟨k, e, a, b, c, -⟩ := State.stageLog_frame _ _
           rw [e]
           exact ⟨_, k, rfl, a, b, c, .inr ⟨r, by simp [h], rfl⟩⟩)

/-- The firmware's choice stages at most one record. -/
theorem State.logChoice_frame (s : State) (n code : Nat) :
    ∃ k, s.logChoice n code = { s with keeper := k } ∧ k.mode = s.keeper.mode ∧ k.powerState = s.keeper.powerState ∧
      k.journal = s.keeper.journal ∧ k.logBase = s.keeper.logBase ∧ k.logCount = s.keeper.logCount ∧
      ∀ r ∈ k.logStaging, r ∈ s.keeper.logStaging ∨ ∃ code kind, r = s.freeRecord code kind := by
  have h : ∀ kind, ∃ k, s.stageLog (s.freeRecord code kind) = { s with keeper := k } ∧ k.mode = s.keeper.mode ∧
      k.powerState = s.keeper.powerState ∧ k.journal = s.keeper.journal ∧ k.logBase = s.keeper.logBase ∧
      k.logCount = s.keeper.logCount ∧ ∀ r ∈ k.logStaging, r ∈ s.keeper.logStaging ∨ ∃ code kind, r = s.freeRecord code kind := by
    intro kind
    obtain ⟨k, e, a, b, c, d, f, g⟩ := s.stageLog_frame (s.freeRecord code kind)
    refine ⟨k, e, a, b, c, d, f, fun r hr => ?_⟩
    rcases g with g | g <;> rw [g] at hr
    · exact .inl hr
    · rcases List.mem_append.1 hr with hr | hr
      · exact .inl hr
      · exact .inr ⟨code, kind, by simpa using hr⟩
  unfold State.logChoice
  split
  · exact h 0
  · split
    · exact h 1
    · exact ⟨s.keeper, rfl, rfl, rfl, rfl, rfl, rfl, fun r hr => .inl hr⟩

/-- Logging firmware changes memory by one record of the ring at most, the Keeper's log fields and the counter of free values. -/
theorem State.firmwareLogs_frame (s : State) :
    ∃ m k f, s.firmwareLogs = { s with mem := m, keeper := k, free := f } ∧ k.mode = s.keeper.mode ∧
      k.powerState = s.keeper.powerState ∧ k.journal = s.keeper.journal ∧
      (m = s.mem ∨ ∃ r, (r ∈ s.keeper.logStaging ∨ ∃ code kind, r = s.freeRecord code kind) ∧
        m = memWrite s.mem (s.keeper.logBase.toNat + s.keeper.logCount % logBytes) r) := by
  obtain ⟨k, e, a, b, c, d, f, g⟩ := s.logChoice_frame (Config.freeValue s.free % 3) (Config.freeValue (s.free + 1) % 4096)
  unfold State.firmwareLogs
  dsimp only
  rw [e]
  unfold State.flushChoice
  split
  · obtain ⟨m, j, e', a', b', c', w⟩ := State.flushLog_frame { s with keeper := k }
    rw [e']
    refine ⟨m, j, _, rfl, a'.trans a, b'.trans b, c'.trans c, ?_⟩
    rcases w with w | ⟨r, hr, w⟩
    · exact .inl w
    · exact .inr ⟨r, g r hr, by rw [w]; simp only [d, f]⟩
  · exact ⟨s.mem, k, _, rfl, a, b, c, .inl rfl⟩

/-- `leBytes n v` has `n` bytes. -/
@[simp] theorem leBytes_length (n v : Nat) : (leBytes n v).length = n := by
  induction n generalizing v with
  | zero => rfl
  | succ n ih => simp [leBytes, ih]

/-- A record that the firmware writes has 32 bytes. -/
@[simp] theorem State.freeRecord_length (s : State) (code kind : Nat) : (s.freeRecord code kind).length = 32 := by
  simp [State.freeRecord, logRecord]

end Sys2Proof.Machine
end

