-- ==== Sys2Proof/Laws/Mailboxes.lean ====
section
/-! SUPPORT. What completions, events and the consuming of messages can change: the mailboxes, the port's queues and the Keeper region's
self-refresh; and the cases of a mailbox command. -/

namespace Sys2Proof.Laws

open Sys2Proof.Machine

/-- Between two states only mailboxes, the port's connections and frames, and the Keeper region's self-refresh differ. -/
def mailOnly (s t : State) : Prop :=
  t = { s with
    mailboxes := t.mailboxes
    port := { s.port with qps := t.port.qps, waiting := t.port.waiting, sent := t.port.sent }
    keeper := { s.keeper with selfRefresh := t.keeper.selfRefresh, lastP2Access := t.keeper.lastP2Access } }

theorem mailOnly.refl (s : State) : mailOnly s s := rfl

theorem mailOnly.trans {s t u : State} (h : mailOnly s t) (k : mailOnly t u) : mailOnly s u := by
  unfold mailOnly at *
  rw [h] at k
  exact k

theorem mailOnly_setMailbox (s : State) (mb : Nat) (b : Mailbox) : mailOnly s (s.setMailbox mb b) := rfl

theorem mailOnly_setQp (s : State) (n : Nat) (q : Qp) : mailOnly s (s.setQp n q) := rfl

theorem mailOnly_transmit (s : State) (f : EthFrame) : mailOnly s (s.transmit f) := by
  unfold mailOnly State.transmit Port.transmit
  split
  · rfl
  · split <;> rfl

theorem mailOnly_touchRegion (s : State) : mailOnly s s.touchRegion := by
  unfold State.touchRegion
  split <;> rfl

theorem mailOnly_foldl {β : Type} (f : State → β → State) (h : ∀ t x, mailOnly t (f t x)) (l : List β) (s : State) :
    mailOnly s (l.foldl f s) := by
  induction l generalizing s with
  | nil => exact .refl s
  | cons x rest ih => exact (h s x).trans (ih (f s x))

theorem mailOnly_pump (s : State) (n : Nat) : mailOnly s (s.pump n) := by
  unfold State.pump
  split
  · exact .refl s
  · exact (mailOnly_setQp s n _).trans (mailOnly_foldl _ mailOnly_transmit _ _)

theorem mailOnly_postOp (s : State) (n : Nat) (op : OutOp) : mailOnly s (s.postOp n op) := by
  unfold State.postOp
  split
  · exact .refl s
  · split
    · exact .refl s
    · exact (mailOnly_setQp s n _).trans (mailOnly_pump _ n)

theorem mailOnly_flushMailbox (s : State) (mb n : Nat) : mailOnly s (s.flushMailbox mb n) := by
  induction n generalizing s with
  | zero => exact .refl s
  | succ n ih =>
    unfold State.flushMailbox
    dsimp only
    split
    · split
      · split
        · exact ((mailOnly_setMailbox s mb _).trans (mailOnly_postOp _ _ _)).trans (ih _)
        · exact .refl s
      · exact .refl s
    · split
      · exact (mailOnly_setMailbox s mb _).trans (ih _)
      · exact .refl s

theorem mailOnly_flush (s : State) (mb : Nat) : mailOnly s (s.flush mb) :=
  (mailOnly_flushMailbox s mb _).trans (mailOnly_setMailbox _ mb _)

theorem mailOnly_post (s : State) (mb : Nat) (c : Completion) : mailOnly s (s.post mb c) :=
  ((mailOnly_touchRegion s).trans (mailOnly_setMailbox _ mb _)).trans (mailOnly_flush _ mb)

theorem mailOnly_answer (s : State) (t : Ticket) (a : Answer) : mailOnly s (s.answer t a) := by
  unfold State.answer
  split
  · exact .refl s
  · exact mailOnly_post s _ _

/-- Ending a message changes only mailboxes, the port's queues and the self-refresh. -/
theorem mailOnly_finish (s : State) (t : Ticket) (status v0 v1 : Nat) : mailOnly s (s.finish t status v0 v1) :=
  mailOnly_answer s t _

theorem mailOnly_reject (s : State) (mb : Nat) (m : List Byte) (status : Nat) : mailOnly s (s.reject mb m status) :=
  mailOnly_answer s _ _

theorem mailOnly_eventTo (s : State) (mb kind item v0 v1 status ctx : Nat) :
    mailOnly s (s.eventTo mb kind item v0 v1 status ctx) := by
  unfold State.eventTo
  dsimp only
  split
  · exact mailOnly_setMailbox s mb _
  · exact (mailOnly_setMailbox s mb _).trans (mailOnly_post _ _ _)

theorem mailOnly_eventAdmin (s : State) (code v0 v1 : Nat) : mailOnly s (s.eventAdmin code v0 v1) := by
  refine mailOnly_foldl _ (fun t mb => ?_) _ _
  split
  · exact mailOnly_eventTo t mb _ _ _ _ _ _
  · exact .refl t

theorem mailOnly_stopMailbox (s : State) (mb : Nat) : mailOnly s (s.stopMailbox mb) := by
  unfold State.stopMailbox
  dsimp only
  split
  · exact .refl s
  · have h := (mailOnly_setMailbox s mb { s.mailbox mb with stopped := true }).trans
      (mailOnly_eventAdmin _ 0x0007 mb (s.mailbox mb).announced)
    split
    · exact h.trans (mailOnly_eventTo _ _ _ _ _ _ _ _)
    · exact h

theorem mailOnly_consume (s : State) (mb : Nat) (m : List Byte) : mailOnly s (s.consume mb m) := by
  unfold State.consume
  dsimp only
  split
  · exact (mailOnly_setMailbox s mb _).trans (mailOnly_postOp _ _ _)
  · exact mailOnly_setMailbox s mb _

theorem mailOnly_settleN (s : State) (mb n : Nat) : mailOnly s (s.settleN mb n) := by
  induction n generalizing s with
  | zero => exact .refl s
  | succ n ih =>
    unfold State.settleN
    dsimp only
    split
    · exact .refl s
    · split
      · exact mailOnly_stopMailbox s mb
      · split
        · exact .refl s
        · split
          · exact .refl s
          · split
            · exact .refl s
            · exact ((mailOnly_consume s mb _).trans (mailOnly_reject _ mb _ _)).trans (ih _)

/-- Consuming the messages that no row names changes only mailboxes, the port's queues and the self-refresh. -/
theorem mailOnly_settle (s : State) (mb : Nat) : mailOnly s (s.settle mb) := mailOnly_settleN s mb 256

theorem mailOnly_memory {s t : State} (h : mailOnly s t) : t.mem = s.mem := by rw [h]

theorem mailOnly_pending {s t : State} (h : mailOnly s t) : t.pending = s.pending := by rw [h]

/-! ### A mailbox command -/

/-- The cases of a mailbox command: no such message at the head, a common check that ends it, or the command's own effect between the
consuming of its message and the settling of its mailbox. -/
theorem serve_cases (s : State) (mb code : Nat) (k : State → List Byte → Ticket → State) :
    (s.headCommand mb code = none ∧ s.serve mb code k = s) ∨
    (∃ m r, s.headCommand mb code = some (m, r) ∧
      ((∃ st, s.commonCheck mb m r = some st ∧ s.serve mb code k = ((s.consume mb m).reject mb m st).settle mb) ∨
       (s.commonCheck mb m r = none ∧
        s.serve mb code k = (k (s.consume mb m) m (ticketOf mb m)).settle mb))) := by
  unfold State.serve
  cases h : s.headCommand mb code with
  | none => simp
  | some x =>
    obtain ⟨m, r⟩ := x
    right
    refine ⟨m, r, rfl, ?_⟩
    cases hc : s.commonCheck mb m r with
    | none => right; simp [hc]
    | some st => left; exact ⟨st, rfl, by simp [hc]⟩

end Sys2Proof.Laws
end

