-- ==== Sys2Proof/Tests/Slice0.lean ====
section
/-! SUPPORT. The model's own tests: ill-formed commands refused, a concrete state and operands that meet the hypotheses of each
statement, and small steps whose result the spec gives. -/

namespace Sys2Proof.Tests

open Sys2Proof.Machine

set_option Elab.async false

/-! ### Well-formed commands -/

/-- Each check of a well-formed command refuses the first number past its range. -/
theorem test_wf_refuses : ([.identify 12, .identify 15, .identify 528, .coreStart (.logical 512), .coreStart (.physical 544),
    .frameDispatch 544, .coreTokenWrite (.logical 0) 32 0, .lack 4 [], .roceAckTimeout (2 ^ 24), .ready 64 0, .stepStart 512,
    .consumerPoll 16384, .sampleRow 32 0 0, .mma 0 .load, .railVoltageStop 6, .doorbell ⟨1, true⟩ [], .brdSlotWrite .keeper 0 [],
    .registerWrite .keeper 0x3FFFFFFFF 0, .registerWrite .keeper 0x8000000000 0, .cfgMismatch 0x7FFFFFFFF,
    .cfgLost 0x900000000] : List Instr).all (fun c => !c.wf) = true := by
  decide +kernel

/-- And accepts the last number in it. -/
theorem test_wf_accepts : ([.identify 11, .identify 16, .identify 527, .coreStart (.logical 511), .coreStart (.physical 543),
    .frameDispatch 543, .coreTokenWrite (.logical 0) 31 0, .lack 3 [], .roceAckTimeout (2 ^ 24 - 1), .ready 63 0, .stepStart 511,
    .consumerPoll 16383, .sampleRow 31 0 0, .mma 0 .fme, .railVoltageStop 5, .doorbell ⟨1, true⟩ (zeros 16),
    .brdSlotWrite .keeper 0 (zeros 128), .registerWrite .keeper 0x400000000 0, .reservedAddressRead .keeper 0x10000000000,
    .cfgMismatch 0x800000000] : List Instr).all Instr.wf = true := by
  decide +kernel

/-! ### Small states -/

/-- Put a field of `n` bytes at offset `o`. -/
def put (b : List Byte) (o n v : Nat) : List Byte := b.take o ++ leBytes n v ++ b.drop (o + n)

/-- The message of a command (Table 12.6) with the given fields (offset, width, value), its LENGTH and CRC. -/
def say (code ctx : Nat) (fs : List (Nat × Nat × Nat)) : List Byte :=
  let m := fs.foldl (fun m f => put m f.1 f.2.1 f.2.2) (put (put (put (put (zeros 256) 4 2 code) 8 8 77) 16 2 ctx) 18 2 0x0100)
  let n := commandLength m
  let b := put (m.take n) 0 4 n
  put b 28 4 (crc32c (zeroField b 28))

/-- A connection of a mailbox. -/
def link1 (mb : Nat) : Qp where
  mb := mb
  mtu := 1024
  ackT := 14
  retry := 3
  peerQpn := 9
  peerPsn := 0
  psn := 0
  peerIp := 0
  peerMac := 0
  vlan := 0
  dscp := 0
  rkey := 0x55
  error := false
  unacked := []
  tries := 0
  rate := 65536
  lastCnp := none
  calm := 0
  queued := []

/-- A bound mailbox. -/
def bound (n : Nat) : Mailbox := { Mailbox.reset with binding := some ⟨n, 0x5000, 7, 64, 0x4000, 7⟩ }

/-- A context with 1 GiB of data range, no package and no version. -/
def someCtx : Ctx where
  key := 0
  dataBytes := 0x40000000
  granules := []
  shelfBase := 0
  shelfBytes := 0
  watchBase := 0
  watchRecords := 0
  watchCount := 0
  normBase := 0
  normRecords := 0
  normCount := 0
  packages := []
  versions := []
  lastTag := 0
  pool := .empty
  supers := []
  learner := none
  keyRuns := []
  stepCount := 0
  releasing := none

/-- A registration of 1 MiB for reads and writes on connection `n`. -/
def window1 (n : Nat) : Registration := ⟨n, true, true, 0x100000, 7, 0x100000⟩

/-- A running module: firmware runs, admin mailbox 0 is bound to connection 1, context 3 exists with its mailbox 19 on connection 2,
and each domain has registration 0. -/
def running : State :=
  { State.reset with
    keeper := { State.reset.keeper with mode := .running, startStep := 8, coresRun := 15, wdogArmed := some 0 }
    pins := { State.reset.pins with modReset := false }
    store := { State.reset.store with ready := true }
    port := { State.reset.port with up := true, qps := [(1, link1 0), (2, link1 19)] }
    regs := [(0, [(0, window1 1)]), (4, [(0, window1 2)])]
    memCtl := { State.reset.memCtl with ptBase := 0x9000000000 }
    ctxs := [(3, someCtx)]
    mailboxes := [(0, bound 1), (19, bound 2)] }

/-- A mailbox with one message announced. -/
def told (s : State) (mb : Nat) (m : List Byte) : State := s.setMailbox mb { s.mailbox mb with ring := [(0, m)], prod := 1 }

/-- Whether a mailbox command is taken, as a truth value. -/
def takesB (s : State) (mb code : Nat) (m : List Byte) : Bool :=
  match s.headCommand mb code with
  | some (h, r) => h == m && (s.commonCheck mb m r).isNone
  | none => false

/-- A taken command is taken. -/
theorem takes_of {s : State} {mb code : Nat} {m : List Byte} (h : takesB s mb code m = true) : s.takes mb code m := by
  unfold takesB at h
  cases e : s.headCommand mb code with
  | none => simp [e] at h
  | some x =>
    obtain ⟨y, r⟩ := x
    simp only [e, Bool.and_eq_true, beq_iff_eq, Option.isNone_iff_eq_none] at h
    exact ⟨r, by rw [e, h.1], h.2⟩

/-- Whether mailbox `mb` of `s`, given a command, takes it, and the state in which it is carried out has a property. -/
def asks (s : State) (mb code ctx : Nat) (fs : List (Nat × Nat × Nat)) (p : State → List Byte → Bool) : Bool :=
  let m := say code ctx fs
  takesB (told s mb m) mb code m && p ((told s mb m).consume mb m) m

/-- Context `c` changed. -/
def withCtx (s : State) (c : Nat) (f : Ctx → Ctx) : State := s.setCtx c (f ((s.ctx c).getD someCtx))

/-- An empty package of a kind. -/
def somePackage (id : Nat) (kind : PkgKind) : Package where
  packageId := id
  contract := 0x0100
  kind := kind
  tables := []
  chains := []
  userFuncs := []
  units := []
  geom := none
  maxSeqs := 64
  maxTokens := 64
  chunk := 16
  ctxLimit := 4096
  draftDepth := 0
  vocab := 16
  logitsFormat := 1
  logitsBase := 0
  logitsStride := 0
  draftBase := 0
  rewardBase := 0
  rowLimit := 64
  tokenLimit := 64
  stash := []
  stashLayers := 0
  bCombs := 0
  plausibility := none
  tensors := []
  kvTensors := []
  learnOnly := []
  regions := []
  buckets := []
  extended := false
  stateBytes := 0
  adapter := none

/-- A version of package slot 0. -/
def someVersion (tag : Nat) (state : VersionState) : Version where
  tag := tag
  record := 0
  state := state
  shelved := false
  shared := false
  damaged := false
  fromPack := true
  package := 0
  source := 5
  scales := []
  grans := []
  dispSram := 0
  dispLp := 0
  switchStamp := 0
  shards := []
  owner := none
  askedShared := false

/-- A sequence of context 3. -/
def someSlot : Slot := { Slot.reset with seqId := 9, ctx := 3, state := .decode, promptLen := 4, prefilled := 4, length := 5, maxNew := 8 }

/-! ### Hypotheses met: the machine as a whole -/

theorem witness_StepRunsTheFrontCommand : ({ running with pending := [.dlEnable] } : State).pending = .dlEnable :: [] := rfl

theorem witness_AnEmptyQueueIsOneTick : ({ running with cores := [(0, .reset)] } : State).pending = [] ∧
    tget ({ running with cores := [(0, .reset)] } : State).cores 0 = some .reset ∧ running.keeper.logStaging = [] ∧
    32 ∣ running.keeper.logCount ∧ lpBase ≥ running.keeper.logBase.toNat + logBytes ∧ State.reset.keeper.mode ≠ .running ∧
    2048 ≤ ({ running.keeper with logStaging := List.replicate 2048 [] } : Keeper).logStaging.length := by
  refine ⟨rfl, rfl, rfl, ?_, ?_, ?_, ?_⟩ <;> decide +kernel

theorem witness_OnlyAForbiddenResetPulseStops : exec (.modResetNAssert 1000) running = .fault .undefinedResetPulse ∧
    exec (.modResetNAssert 999) running = .next running := ⟨rfl, rfl⟩

theorem witness_StepsKeepMemoryCanonical : running.Inv ∧ ∃ t, step running = .next t := ⟨rfl, _, rfl⟩

/-- Whether the message at the head of a mailbox is a command that a common check rejects with a status. -/
def rejectsB (s : State) (mb code : Nat) (m : List Byte) (st : Nat) : Bool :=
  match (told s mb m).headCommand mb code with
  | some (h, r) => (told s mb m).commonCheck mb h r == some st
  | none => false

theorem witness_MailboxCommandsPassTheirChecksFirst :
    rejectsB running 0 0x0008 (say 0x0008 0 [(32, 1, 9)]) stBad = true ∧
    rejectsB running 0 0x0060 (say 0x0060 0 [(20, 1, 1)]) stBad = true ∧ running.keeper.loadTicket = none ∧
    running.headCommand 0 0x0008 = none := by decide +kernel

theorem witness_PostedCompletionsAreKeptInOrder : (running.mailbox 5).binding = none := rfl

theorem witness_NumbersHandedOutAreUnused : [0, 1, 2].length < 4 := by decide

/-! ### Hypotheses met: mailbox commands -/

theorem witness_PortCommandsTakeEffect :
    asks running 0 0x0002 0 [(32, 1, 1), (33, 1, 24), (40, 4, 0x0A000001)] (fun _ _ => true) = true ∧
    asks running 0 0x0003 0 [(32, 2, 0)] (fun u _ => decide (u.port.qps.length < 4096)) = true ∧
    asks { running with port := { running.port with qps := [(1, link1 0), (2, link1 19), (5, link1 1)] } } 0 0x0004 0 [(32, 4, 5)]
      (fun u m => (u.qp (field m 32 4)).isSome && !u.qpNamed (field m 32 4)) = true := by decide +kernel

theorem witness_BindingCommandsTakeEffect :
    asks { running with port := { running.port with qps := [(1, link1 0), (2, link1 19), (5, link1 1)] } } 0 0x0005 0
      [(32, 2, 1), (36, 4, 5), (52, 4, 64)] (fun u m => ((u.qp (field m 36 4)).any fun q => q.mb == field m 32 2 && !q.error) &&
        (u.mailbox (field m 32 2)).announced == 0) = true ∧
    asks running 0 0x0006 0 [(32, 4, 1), (36, 1, 3), (56, 8, 4096)] (fun u m =>
      ((u.qp (field m 32 4)).any fun q => domainOf q.mb == domainOf 0) && decide ((tgetD u.regs (domainOf 0) []).length < 4096)) = true ∧
    asks { running with regs := [(0, [(0, window1 1), (3, window1 1)])] } 0 0x0007 0 [(32, 4, 3)]
      (fun u m => (u.registration 0 (field m 32 4)).isSome && !u.regNamed 0 (field m 32 4)) = true := by decide +kernel

theorem witness_SettingCommandsTakeEffect :
    asks running 0 0x0008 0 [(32, 1, 7)] (fun _ _ => true) = true ∧
    asks running 0 0x0012 3 [(32, 2, 100), (34, 2, 2)] (fun _ _ => true) = true ∧
    asks running 0 0x0013 0 [(32, 1, 1)] (fun _ _ => true) = true ∧
    asks running 0 0x0052 3 [(32, 1, 3)] (fun _ _ => true) = true ∧
    asks { running with propolis := { running.propolis with level := 1 } } 0 0x0064 0 [(32, 2, 4095), (34, 1, 1)]
      (fun _ _ => true) = true := by decide +kernel

theorem witness_ModeCommandsTakeEffect :
    asks running 0 0x0062 0 [(32, 1, 1)] (fun u _ => !u.powerBusy) = true ∧
    asks running 0 0x0062 0 [(32, 1, 12)] (fun _ m => bits (field m 32 1) 1 0 == 0) = true ∧
    asks running 0 0x0043 0 [(32, 1, 1)] (fun u _ => u.turns.turn.isNone && !u.loadingNow) = true ∧
    (2 ≠ running.keeper.powerState ∧ 1 ≠ running.keeper.powerState) := by decide +kernel

theorem witness_ContextCommandsTakeEffect :
    asks running 0 0x0010 511 [(48, 4, 1), (52, 2, 1), (56, 8, 0x200000)] (fun u m =>
      decide (msgContext m < 512) && createFieldsOk m && createRegionsOk m && u.maskAccepted (msgContext m) (field32 m 48) &&
        (u.ctx (msgContext m)).isNone && (MemCtl.takeLp MemCtl.freeLp (field m 56 8 / 0x200000) u.memCtl).isSome) = true ∧
    asks running 0 0x0011 3 [] (fun _ _ => true) = true := by decide +kernel

/-- Context 3 with a generation package in slot 0. -/
def packaged : State := withCtx running 3 fun x => { x with packages := [(0, ⟨somePackage 70 .generation, none⟩)] }

theorem witness_PackageCommandsTakeEffect :
    asks running 0 0x0014 3 [(48, 8, 4096)] (fun _ _ => true) = true ∧
    asks packaged 0 0x0015 3 [] (fun u m =>
      ((u.ctx (msgContext m)).any fun x => (tget x.packages (field m 32 1)).any fun l => l.unloading.isNone) &&
        ((u.ctxSlots (msgContext m)).all fun i => (u.slot i).package != field m 32 1) && !u.packageBusy (msgContext m) (field m 32 1) &&
        !u.packageGranted (msgContext m) (field m 32 1) && u.turns.learning != some (msgContext m, field m 32 1)) = true ∧
    asks running 0 0x0051 3 [(32, 1, 1)] (fun _ _ => true) = true ∧
    asks running 19 0x0051 3 [(32, 1, 1)] (fun _ m => field m 32 1 == 1) = true ∧
    running.windowLive 0 ⟨0, 0, 64⟩ = true ∧ running.windowLive 0 ⟨1, 0, 64⟩ = false := by decide +kernel

/-- A manifest of no shards for the package 70. -/
def manifest70 (flags : Nat) : List Byte :=
  let m := put (put (put (put (put (put (zeros 64) 4 2 0x0100) 6 2 flags) 8 8 5) 16 8 70) 24 2 0x0100) 26 1 1
  put m 60 4 (crc32c (zeroField m 60))

/-- The store with pack 5. -/
def stored (s : State) : State := { s with store := { s.store with packs := [(5, ⟨manifest70 0, manifest70 0, [], [], [], []⟩)] } }

theorem witness_PackCommandsTakeEffect :
    asks running 0 0x0030 0 [(48, 8, 4096)] (fun _ _ => true) = true ∧
    asks (stored running) 0 0x0031 0 [(32, 8, 5)] (fun u _ => (tget u.store.packs 5).isSome) = true ∧
    asks running 0 0x0032 0 [(32, 8, 5)] (fun _ _ => true) = true ∧ twf (stored running).store.packs = true := by decide +kernel

/-- A group of two in a state, this module at position 0 and her queen, position 1 the successor. -/
def grouped (st : GroupState) : State :=
  { running with cascade := { running.cascade with
      state := st, group := BitVec.ofNat 64 (2 ^ 56 + 2 ^ 44 + 2 ^ 50), enable := true
      links := [(0, { Link.reset with up := true, matched := true, peer := 1 })] } }

theorem witness_GroupCommandsTakeEffect :
    asks { running with ctxs := [] } 0 0x0020 0 [(36, 4, 1)]
      (fun u m => u.cascade.state == .none && u.ctxs.isEmpty && u.formOk m) = true ∧
    asks (grouped .active) 0 0x0021 0 [(32, 4, 9), (36, 1, 1), (37, 1, 0)] (fun u m => u.cascade.state == .active &&
      decide (u.cascade.epoch.toNat < field m 32 4) && decide (field m 36 1 < u.groupSize) && decide (field m 37 1 < u.groupSize) &&
      field m 36 1 != field m 37 1 && !u.groupBusy) = true ∧
    asks (grouped .active) 0 0x0022 0 [] (fun u _ => u.cascade.state == .active && !u.groupBusy) = true := by decide +kernel

/-- Context 3 in the learning phase with a learning package in slot 1 and a generation package with its CURRENT version in slot 0, its
first granule mapped. -/
def learningState : State :=
  let s := withCtx running 3 fun x => { x with
    packages := [(0, ⟨somePackage 70 .generation, none⟩), (1, ⟨somePackage 71 .learning, none⟩)]
    versions := [someVersion 1 .current] }
  ({ s with turns := { s.turns with learning := some (3, 1) } } : State).mapGranule 3 lpBase 5000 false

/-- A turn map of no shards. -/
def map70 : List Byte :=
  let m := put (put (put (put (put (zeros 64) 0 4 64) 4 2 0x0100) 7 1 1) 8 8 70) 16 8 71
  put m 60 4 (crc32c (zeroField m 60))

/-- An open load of pack 5 into slot 0 with one shard, and its outstanding request 6. -/
def loading : Loading where
  ticket := ⟨0, 77, 0x0040, 3⟩
  packId := 5
  package := 0
  master := false
  adapter := none
  tag := 2
  shared := false
  report := lpBase
  started := 0
  shards := [⟨0, 0, 0, 0, 3, none⟩]
  places := [⟨0, 0, 0, 1, 1, lpBase + 0x40000000, 128, 0⟩]
  scales := []
  grans := []
  reserve := none
  waitsSwitch := false
  mirrored := false
  restore := false

/-- The packaged context with the open load. -/
def requested : State :=
  { packaged with turns := { packaged.turns with loads := [loading], requests := [⟨6, 5, 0, 0, false⟩] } }

theorem witness_LoadAndTurnCommandsTakeEffect :
    asks (stored packaged) 0 0x0040 3 [(32, 8, 5), (40, 8, lpBase), (48, 2, 0xFFFF)] (fun u m =>
      ((u.ctx (msgContext m)).any fun x => (u.loadManifest 5).any fun mf => !u.packWriting 5 && !u.packDeleting 5 &&
        x.manifestOk mf u.groupSize && x.inData (field m 40 8) (16 * mfShards mf) &&
        (x.loadKind mf).any fun k => k.2 == .base && u.loadFieldsOk (msgContext m) k.1 k.2 m mf &&
          u.loadPermitted (msgContext m) k.1 k.2 none)) = true ∧
    asks requested 0 0x0048 0 [(32, 4, 6), (36, 4, 1)] (fun u m =>
      (u.request m).any fun r => !r.ended && (u.openLoad r.packId).isSome) = true ∧
    asks requested 0 0x0048 0 [(32, 4, 6), (56, 8, 128)] (fun u m =>
      field m 36 4 != 1 && u.windowLive 0 (windowAt m 40) && (u.request m).any fun r => !r.ended && (u.openLoad r.packId).isSome &&
        decide (u.requestLength r ≤ (windowAt m 40).length)) = true ∧
    asks { learningState with turns := running.turns } 0 0x0041 3 [(32, 1, 1)] (fun u m =>
      ((u.packageAt (msgContext m) (field m 32 1)).any fun p => p.kind == .learning) && u.generating && u.turns.turn.isNone &&
        !u.halted && !u.capturing) = true ∧
    asks learningState 0 0x0042 3 [(32, 1, 2)] (fun u _ => !u.generating && u.turns.turn.isNone && !u.halted && !u.capturing) = true ∧
    asks (learningState.write (lpBase + 5000 * 0x200000) map70) 0 0x0042 3 [(40, 8, lpBase), (48, 8, lpBase)] (fun u m =>
      !u.generating && u.turns.turn.isNone && !u.halted && !u.capturing && (u.ctx (msgContext m)).any fun x =>
        (u.turnMapOk (msgContext m) x m).isSome && !u.turnBusy (msgContext m) 0 .base) = true := by decide +kernel

/-- Context 3 with a CURRENT version 1 shared, a RETAINED version 2, and an adapter 4; context 5 has the same package. -/
def versioned : State :=
  let s := withCtx packaged 3 fun x => { x with
    versions := [{ someVersion 1 .current with shared := true, askedShared := true }, someVersion 2 .retained] }
  { (withCtx s 5 fun x => { x with packages := [(0, ⟨somePackage 70 .generation, none⟩)] }) with
    adapters := [(4, ⟨3, 1, 8, 0, []⟩)] }

theorem witness_VersionCommandsTakeEffect :
    asks versioned 0 0x0044 3 [(34, 2, 2), (36, 2, 0xFFFF)] (fun u m => ((u.version 3 .base (field m 34 2)).any fun v =>
      v.package == field m 32 1 && v.state == .retained) && u.readers 3 .base (field m 34 2) == 0) = true ∧
    asks versioned 0 0x0045 3 [(34, 2, 1), (36, 2, 5)] (fun u m => ((u.ctx 3).any fun x => (u.ctx 5).any fun y =>
      (u.version 3 .base (field m 34 2)).any fun v => (tget x.packages (field m 32 1)).any fun l =>
        (y.packageSlot l.package.packageId).any (fun k => (u.currentOf 5 .base k).isNone) && v.state == .current &&
          v.package == field m 32 1 && v.askedShared && !v.shelved && decide (y.versions.length < 16))) = true ∧
    asks (withCtx versioned 5 fun x => { x with versions := [{ someVersion 7 .current with owner := some (3, 1) }] }) 0 0x0046 3
      [(34, 2, 7), (36, 2, 5)] (fun u m => (u.version (field m 36 2) .base (field m 34 2)).any fun v =>
        v.owner.any fun o => o.1 == msgContext m) = true ∧
    asks versioned 0 0x0047 3 [(32, 2, 4)] (fun u m => ((tget u.adapters (field m 32 2)).any fun x => x.ctx == msgContext m) &&
      !u.adapterNamed (msgContext m) (field m 32 2)) = true := by decide +kernel

/-- A READY super entry of sequence 9. -/
def ended9 : SupEntry where
  seqId := 9
  addr := 0
  start := 0
  bytes := 0
  status := 0
  ready := true
  vchg := false
  rewardState := 0
  released := false
  versionFirst := 1
  versionLast := 1
  promptLen := 4
  genLen := 1
  adapter := 0xFFFF
  adapterVer := 0
  reward := 0
  endStamp := 0
  prompt := []
  records := []

/-- A plan of one micro-batch of one row of one segment. -/
def plan1 : List Byte :=
  let m := [(0, 4, 104), (4, 2, 0x0100), (8, 4, 1), (12, 2, 1), (14, 1, 1), (16, 4, 1), (20, 4, 1), (68, 4, 1), (72, 2, 1), (80, 8, 9),
    (88, 4, 5), (96, 4, 0x3F800000), (100, 4, 0x3F800000)].foldl (fun b f => put b f.1 f.2.1 f.2.2) (zeros 104)
  put m 60 4 (crc32c (zeroField m 60))

theorem witness_LearningAndCaptureCommandsTakeEffect :
    asks running 0 0x0053 3 [(56, 8, 4096)] (fun u m => u.peerOk m && !u.halted && !u.cappingOn && !u.moving (msgContext m)) = true ∧
    asks running 0 0x0054 3 [(56, 8, 4096)] (fun u m =>
      let k := Capping.fresh .restoring (msgContext m) (ticketOf 0 m) m
      let w := (u.setCap (some k)).tellAll kmOrder m
      u.peerOk m && !u.halted && !u.cappingOn && u.holdsNothing (msgContext m) && !k.toPeer &&
        (w.registration 0 k.reg).any fun r => w.qpUsable r.qpn) = true ∧
    asks (grouped .active) 0 0x0054 3 [(32, 1, 1), (33, 1, 1)] (fun u m =>
      u.peerOk m && !u.halted && !u.cappingOn && u.holdsNothing (msgContext m) &&
        (Capping.fresh .restoring (msgContext m) (ticketOf 0 m) m).toPeer) = true ∧
    asks running 0 0x0050 3 [] (fun u m => (u.ctx 3).any fun x => match u.checkPlan 3 x (field m 32 8) with
      | .error st => st == stBad
      | .ok _ => false) = true ∧
    asks ((withCtx learningState 3 fun x => { x with supers := [ended9] }).write (lpBase + 5000 * 0x200000) plan1) 0 0x0050 3
      [(32, 8, lpBase)] (fun u m => (u.ctx 3).any fun x => match u.checkPlan 3 x (field m 32 8) with
        | .ok p => (u.learnPackage 3 p.package).isSome
        | .error _ => false) = true := by decide +kernel

/-- An image record. -/
def someImage : Image := ⟨1, 1, 0x0100, 0, 0, false, 4096⟩

theorem witness_FirmwareAndReportCommandsTakeEffect :
    asks running 0 0x0060 0 [(48, 8, 4096)] (fun u m =>
      !u.bootRom && u.keeper.deferred.isEmpty && u.keeper.loadTicket.isNone && u.windowLive 0 (windowAt m 32)) = true ∧
    asks { running with
        keeper := { running.keeper with mode := .bootRom, startStep := 4 }
        mailboxes := [(0, { Mailbox.reset with udp := some ⟨1, 1⟩ })] } 0 0x0060 0 []
      (fun u _ => u.bootRom && decide (u.keeper.startStep < 5) && u.keeper.loadTicket.isNone) = true ∧
    asks { running with keeper := { running.keeper with pendingImage := some someImage } } 0 0x0061 0 []
      (fun u _ => u.keeper.pendingImage.isSome) = true ∧
    asks { running with mailboxes := [(8, { Mailbox.reset with udp := some ⟨1, 1⟩ })] } 8 0x0066 0 [(48, 8, 4096)] (fun _ _ => true) = true ∧
    asks { running with regs := [(0, [(0, { window1 1 with canRead := false })])] } 0 0x0001 0 [(48, 8, 256)]
      (fun u m => !u.bootRom && !u.attests 0 m && u.windowLive 0 (windowAt m 32)) = true ∧
    asks { running with propolis := { running.propolis with level := 1 } } 0 0x0063 0 [(48, 8, 64)]
      (fun u m => u.windowLive 0 (windowAt m 32)) = true ∧
    asks running 0 0x0065 0 [(48, 8, 128)] (fun u m => u.windowLive 0 (windowAt m 32)) = true ∧
    asks { running with slots := [(2, someSlot)] } 19 0x0106 3 [(32, 8, 9), (56, 8, 128)] (fun u m =>
      u.findSlot 3 (BitVec.ofNat 64 (field m 32 8)) == some 2 && u.windowLive 4 (windowAt m 40)) = true := by decide +kernel

/-- Slot 2 of context 3 with list 0, whose one page holds the version-1 tokens of one tag; room for handles and lists. -/
def pooled : State :=
  let s := withCtx packaged 3 fun x => { x with pool := { x.pool with
    lists := [(0, [(0, 0)])], listsUsed := [0], pages := [(0, ⟨1, false, false, false, false, ⟨0, 1, 0xFFFF, 0⟩, []⟩)]
    handles := [(1, ⟨4, 5, ⟨0, 1, 0xFFFF, 0⟩, 0, false⟩)] } }
  { s with
    slots := [(2, { someSlot with list := some 0 })]
    ctxRegs := [(3, { CtxRegs.reset with kvPages := 16, kvLists := 8, kvPrefix := 0x1000 })] }

theorem witness_SequenceCommandsTakeEffect :
    asks pooled 19 0x0102 3 [(32, 8, 9), (40, 4, 1)] (fun u m =>
      u.findSlot 3 (BitVec.ofNat 64 (field m 32 8)) == some 2 && decide (0 < field m 40 4) && decide (field m 40 4 ≤ (u.slot 2).kvlen) &&
        (u.slot 2).state != .closing && (u.slot 2).list == some 0 && ((u.pool 3).uniform 0 (pagesOf (field m 40 4))).isSome &&
        (lowestFree (u.creg 3).handleCount ((u.pool 3).handles.map Prod.fst)).isSome && (u.freeList 3).isSome) = true ∧
    asks pooled 19 0x0103 3 [(32, 8, 1 + 4 * 2 ^ 16 + 3 * 2 ^ 48)] (fun u m =>
      handleCtx (field m 32 8) == 3 && ((u.pool 3).handle (field m 32 8)).isSome) = true ∧
    asks (withCtx running 3 fun x => { x with supers := [ended9] }) 19 0x0104 3 [(32, 8, 9)] (fun u m =>
      (u.super 3 (BitVec.ofNat 64 (field m 32 8))).any fun e => e.ready && e.rewardState == 0) = true ∧
    asks (withCtx running 3 fun x => { x with supers := [ended9] }) 19 0x0105 3 [(32, 8, 9)] (fun u m =>
      (u.super 3 (BitVec.ofNat 64 (field m 32 8))).any fun e => e.ready) = true := by decide +kernel

/-- Context 3 of `pooled` enabled, with a super of 64 KiB. -/
def admitting : State :=
  { pooled with
    ctxRegs := [(3, { (pooled.creg 3) with cfg := 0x10001, supBase := 0x8000000000, supBytes := 0x10000 })]
    regs := [(4, [(0, window1 2)])] }

/-- ADMIT of sequence 10 with two prompt tokens and 4 new ones; `reg` is PROMPT_REG. -/
def admitFields (reg top : Nat) : List (Nat × Nat × Nat) :=
  [(32, 8, 10), (44, 2, 0xFFFF), (48, 4, 2), (52, 4, 4), (60, 4, top), (64, 2, 1), (136, 4, reg), (152, 4, 7), (156, 4, 8)]

theorem witness_AdmitTakesEffect :
    asks admitting 19 0x0101 3 (admitFields inlinePrompt 0) (fun u m => u.adCheck (msgContext m) m == some stBad) = true ∧
    asks admitting 19 0x0101 3 (admitFields inlinePrompt 0x3F800000) (fun u m =>
      u.adCheck (msgContext m) m == none && field m 136 4 == inlinePrompt) = true ∧
    asks admitting 19 0x0101 3 (admitFields 0 0x3F800000) (fun u m =>
      u.adCheck (msgContext m) m == none && field m 136 4 != inlinePrompt && adTokens m != 0) = true ∧
    asks admitting 19 0x0101 3 [(32, 8, 10), (40, 2, 4), (44, 2, 0xFFFF), (52, 4, 4), (60, 4, 0x3F800000), (64, 2, 1),
      (88, 8, 1 + 4 * 2 ^ 16 + 3 * 2 ^ 48)] (fun u m =>
        u.adCheck (msgContext m) m == none && field m 136 4 != inlinePrompt && adTokens m == 0) = true := by decide +kernel

/-! ### Hypotheses met: the Ethernet port -/

/-- A whole RoCE packet on connection `n`. -/
def whole (n : Nat) : Roce := ⟨n, true⟩

/-- Whether a packet arrives on connection `n` of mailbox `mb`. -/
def arrivesB (s : State) (n mb : Nat) : Bool := (s.qp n).any fun q => q.mb == mb && !q.error

theorem arrives_of {s : State} {n mb : Nat} (h : arrivesB s n mb = true) : ∃ q, s.arrives (whole n) q ∧ q.mb = mb := by
  unfold arrivesB at h
  cases e : s.qp n with
  | none => simp [e] at h
  | some q =>
    simp only [e, Option.any_some, Bool.and_eq_true, beq_iff_eq, Bool.not_eq_true'] at h
    exact ⟨q, ⟨rfl, e, h.2⟩, h.1⟩

/-- The body of a doorbell that announces `n` slots. -/
def ring (mb n : Nat) : List Byte :=
  let m := put (put (zeros 16) 0 2 mb) 4 4 n
  put m 12 4 (crc32c (zeroField m 12))

/-- A SUBMIT (kind 0) or POLL (kind 2) for mailbox 2 with no slots. -/
def datagram (kind : Nat) : List Byte := put (put (put (zeros 16) 0 1 1) 1 1 kind) 2 2 2

theorem witness_SubmissionsReachTheirMailbox :
    arrivesB running 2 19 = true ∧ ((running.mailbox 19).binding.any fun b => b.qpn == 2) = true ∧
    (let s : State := { running with port := { running.port with qps := [(5, link1 19)] } };
      arrivesB s 5 19 = true ∧ ((s.mailbox 19).binding.any fun b => b.qpn == 5) = false) ∧
    (let b := running.mailbox 19
      let d := ring 19 256
      running.keeper.mode ≠ .restarting ∧ crcOkAt d 12 = true ∧ field d 0 2 = 19 ∧ b.stopped = false ∧
        (b.prod - b.cons).toNat ≤ (BitVec.ofNat 32 (field d 4 4) - b.cons).toNat ∧ (BitVec.ofNat 32 (field d 4 4) - b.cons).toNat = 256 ∧
        (BitVec.ofNat 32 (field d 8 4) - b.cqCons).toNat ≤ (b.written - b.cqCons).toNat) ∧
    crcOkAt (put (ring 19 256) 12 4 0) 12 = false ∧
    ({ running with keeper := { running.keeper with mode := .restarting } } : State).keeper.mode = .restarting ∧
    carrierOk (datagram 0) 0 = true ∧ carrierOk (datagram 2) 2 = true ∧ (running.mailbox 2).binding = none ∧
    (({ running with mailboxes := [(2, { Mailbox.reset with udp := some ⟨1, 1⟩ })] } : State).mailbox 2).udp = some ⟨1, 1⟩ ∧
    (⟨1, 2⟩ : UdpSource) ≠ ⟨1, 1⟩ := by decide +kernel

/-- Context 3 with its first LPDDR5X granule mapped. -/
def mapped : State := running.mapGranule 3 lpBase 5000 false

theorem witness_InboundRdmaReachesItsMemory :
    arrivesB mapped 2 19 = true ∧ inWindow 19 (windowBase 19 + 0xFF00) 256 = true ∧ inWindow 19 lpBase 16 = false ∧
    mapped.keeper.powerState ≠ 2 ∧ inLp lpBase = true ∧ inLp (lpBase + 15) = true ∧ mapped.rdmaContext (link1 19) 0 = some 3 ∧
    (mapped.writeRange (.ctx 3) lpBase (zeros 16)).isSome = true ∧
    (match mapped.resolveRange (.ctx 3) lpBase 16 false with
      | some ps => (mapped.readErrors ps none .ok).2 && !(mapped.readErrors ps none (.uncorrectable lpBase)).2
      | none => false) = true ∧ inLp 0x8000 = false := by decide +kernel

theorem witness_CongestionFollowsR455 : arrivesB running 2 19 = true := by decide +kernel

/-- The running module with a read and a write outstanding on connection 2. -/
def outstanding (why : ReadPurpose) : State :=
  { running with port := { running.port with qps := [(2, { link1 19 with
    unacked := [⟨0, .write 0 0 [], 0⟩, ⟨1, .read 0x5000 7 8 why, 0⟩], psn := 2 })] } }

theorem witness_ReliableConnectionsRetry :
    ((outstanding .image).qp 2).any (fun q => !q.error && !q.unacked.isEmpty && decide (q.tries < q.retry)) = true ∧
    ({ link1 19 with tries := 3 } : Qp).retry ≤ ({ link1 19 with tries := 3 } : Qp).tries ∧
    10 * 0 + 4096 * 2 ^ (link1 19).ackT ≤ 10 * 6710887 := by decide +kernel

theorem witness_ReadResponsesGoToWhatAsked :
    (((outstanding (.consumer 2)).takeRead 2).any fun x => x.1 == .consumer 2 && running.answers (.bytes (zeros 4)) x.1) = true ∧
    (((outstanding (.prompt 19)).takeRead 2).any fun x => x.1 == .prompt 19) = true ∧
    (let s : State := { running with slots := [(2, { someSlot with state := .held, mirror := true })]
                                     power := { running.power with timebase := 1000000 } };
      (s.slot 2).state = .held ∧ (s.slot 2).polling = false ∧ (s.slot 2).pollAt + s.necPoll.toNat ≤ s.now ∧
        (s.registration ((s.slot 2).ctx + 1) (s.slot 2).mirrorReg).isSome = true) := by decide +kernel

theorem witness_TheEthernetPortFollowsItsEvents :
    (let p := { running.port with training := true, up := false };
      p.training = true ∧ p.up = false ∧ p.speed = 0 ∧ p.slow = false ∧ p.trainAt + p.linkWait.toNat ≤ 100000000) ∧ running.port.up = true ∧
    bits (BitVec.toNat (2 : Word)) 2 1 ≠ 3 ∧ bits (BitVec.toNat (6 : Word)) 2 1 = 3 := by decide +kernel

/-! ### Hypotheses met: cores -/

/-- The running module whose physical core 0, logical core 0, is `c`. -/
def cored (c : Core) : State := { running with cores := [(0, c)] }

/-- A frame. -/
def frame (e op : Nat) (fs : List (Nat × Nat × Nat)) : List Byte :=
  fs.foldl (fun b f => put b f.1 f.2.1 f.2.2) (put (put (zeros 64) 0 1 e) 1 1 op)

/-- The slots of a table: its header with its CRC, then its frames. -/
def tableOf (fs : List (List Byte)) : Table (List Byte) :=
  let h := put (zeros 64) 2 2 fs.length
  let crc := crc32c (zeroField (h ++ fs.flatMap id) 60)
  ((put h 60 4 crc) :: fs).mapIdx fun i b => (i, b)

/-- END. -/
def endFrame : List Byte := frame 6 3 []

/-- A core IDLE with a table of one frame and its END. -/
def loaded (f : List Byte) : Core := { Core.reset with frameStore := tableOf [f, endFrame] }

/-- The same core running, its sequencer at slot `n`. -/
def atSlot (n : Nat) (f : List Byte) : Core := { loaded f with mode := .running, dispatching := true, pc := n }

/-- A running core whose engine `e` has the frame `f` at the head of its queue. -/
def queued (e : Nat) (f : List Byte) : Core := { Core.reset with mode := .running, queues := [(e, [⟨1, f, [0, 0, 0, 0]⟩])] }

theorem witness_CoresStartAndAbort :
    (let s := cored (loaded (frame 6 0 []))
      let c := s.core (s.windowCore (.logical 0))
      s.windowCore (.logical 0) = 0 ∧ c.mode = .idle ∧ (c.fresh (s.combScalarsOf 0) s.now).tableOk = true ∧ c.contextOk = true ∧
        (c.fresh (s.combScalarsOf 0) s.now).veuOk = true ∧ c.mode ≠ .retired) := by decide +kernel

theorem witness_WritesOutOfPlaceAreOnlyCounted :
    (queued 0 []).mode ≠ .idle ∧ (queued 0 []).mode ≠ .done ∧ bits Core.reset.fsLen.toNat 12 0 = 0 ∧
    (let c : Core := { Core.reset with fsLen := 1, fsDst := 4095, veuFillLen := 2, veuFillDst := 415 };
      ¬ 4095 < bits c.fsDst.toNat 11 0 + bits c.fsLen.toNat 12 0 - 1 ∧
        415 < bits c.veuFillDst.toNat 8 0 + bits c.veuFillLen.toNat 8 0 - 1) ∧
    bits Core.reset.veuFillLen.toNat 8 0 = 0 ∧ (queued 0 []).mode = .running := by decide +kernel

theorem witness_FillsCopyTheirUnits :
    (let c : Core := { Core.reset with fsLen := 1, fsDst := 4095, veuFillLen := 1, veuFillDst := 415 };
      c.mode ≠ .running ∧ c.fillBusy = false ∧ c.mode = .idle ∧ bits c.fsDst.toNat 11 0 + bits c.fsLen.toNat 12 0 = 4096 ∧
        0 < bits c.fsLen.toNat 12 0 ∧ 0 < bits c.veuFillLen.toNat 8 0 ∧ bits c.veuFillDst.toNat 8 0 + bits c.veuFillLen.toNat 8 0 = 416 ∧
        (cored c).damagedIn [(bits c.fsSrc.toNat 47 0, 64 * 1)] = none ∧ (cored c).damagedIn [(bits c.veuFillSrc.toNat 47 0, 64 * 1)] = none) := by
  decide +kernel

/-- A LOAD TILE of one FP32 element from the first LPDDR5X granule. -/
def loadFrame (op fmt flags : Nat) : List Byte := frame 0 op [(16, 8, 2 ^ 63 + lpBase), (25, 1, fmt), (26, 1, flags), (48, 8, 2 ^ 63 + lpBase)]

theorem witness_DispatchQueuesSoundFrames :
    (∀ c, (cored c).coresClocked = true) ∧
    (let c := atSlot 1 (loadFrame 1 6 1)
      let f := c.slotBytes c.pc
      c.active = true ∧ c.dispatching = true ∧ c.misplaced f = false ∧ frameBad c.owned f = true) ∧
    (let c : Core := { atSlot 1 (loadFrame 3 1 0) with frameStore := tableOf [put (loadFrame 3 1 0) 48 8 0, endFrame] };
      let f := c.slotBytes c.pc
      c.misplaced f = false ∧ frameBad c.owned f = false ∧ frEngine f ≠ 6 ∧ (c.queue (frEngine f)).length < 64) ∧
    (let c := atSlot 2 (loadFrame 1 1 0)
      let f := c.slotBytes c.pc
      c.misplaced f = false ∧ frameBad c.owned f = false ∧ frEngine f = 6 ∧ c.waitsMet f = true ∧ frOp f = 3 ∧
        bitAt (frSignal f) 7 = false ∧ bitAt (frSignal f) 15 = false) ∧
    (let f := put (loadFrame 3 1 0) 48 8 0
      let full := List.replicate 64 (⟨1, f, [0, 0, 0, 0]⟩ : QFrame)
      let c : Core := { atSlot 1 f with frameStore := tableOf [f, endFrame], queues := [(0, full)] };
      c.misplaced (c.slotBytes c.pc) = false ∧ frameBad c.owned (c.slotBytes c.pc) = false ∧ 64 ≤ (c.queue 0).length) := by
  refine ⟨fun _ => rfl, ?_⟩
  decide +kernel

theorem witness_LoadNeverTransposesFp4 : running.coresClocked = true ∧
    (let c := atSlot 1 (loadFrame 1 6 1)
      let f := c.slotBytes c.pc
      c.active = true ∧ c.dispatching = true ∧ frEngine f = 0 ∧ frOp f = 1 ∧ field f 25 1 = 6 ∧ bitAt (field f 26 1) 0 = true) := by
  decide +kernel

theorem witness_LoopsNestAndTablesEnd : running.coresClocked = true ∧
    (let c : Core := { atSlot 1 (frame 6 1 []) with loops := [⟨0, 2, 1⟩] };
      let f := c.slotBytes c.pc
      c.active = true ∧ c.dispatching = true ∧ frEngine f = 6 ∧ frOp f = 1 ∧ ∃ l ∈ c.loops, l.level = field f 16 1) ∧
    (let c := atSlot 1 (frame 6 2 [])
      let f := c.slotBytes c.pc
      c.active = true ∧ c.dispatching = true ∧ frEngine f = 6 ∧ frOp f = 2 ∧ c.loops.head? = none) ∧
    (let c : Core := { atSlot 1 (frame 6 0 []) with frameStore := tableOf [frame 6 0 []] };
      let f := c.slotBytes c.pc
      c.active = true ∧ c.dispatching = true ∧ c.pc = c.header + c.frames ∧ frOp f ≠ 3) := by decide +kernel

/-- Whether the head of engine queue `e` of core 0 starts with opcode `op`. -/
def startsB (s : State) (e op : Nat) (f : List Byte) : Bool :=
  s.head 0 e == some ⟨1, f, [0, 0, 0, 0]⟩ && frOp f == op

theorem headStarts_of {s : State} {e op : Nat} {f : List Byte} (h : startsB s e op f = true) :
    s.headStarts 0 e op ⟨1, f, [0, 0, 0, 0]⟩ := by
  simp only [startsB, Bool.and_eq_true, beq_iff_eq] at h
  exact h

/-- Whether a result is a state. -/
def okB {ε α : Type} : Except ε α → Bool
  | .ok _ => true
  | .error _ => false

/-- A LOAD TILE of one E4M3 element from context address `lpBase`. -/
def wideFrame (flags : Nat) : List Byte := frame 0 1 [(16, 8, lpBase), (25, 1, 4), (26, 1, flags)]

/-- A core of context 3 with that frame, whose row is a BF16 row segment of a spill area outside the context's memory. -/
def wideRow (flags : Nat) : State :=
  let d := lpBase + 5000 * 0x200000
  { (mapped.write (d + metaOffset 4 0) [4]) with
    spillOf := [(d, 0)]
    cores := [(0, { queued 0 (wideFrame flags) with context := 0x80000003 })] }

/-- Whether a LOAD TILE frame at the head of core 0 starts after clean reads, its address resolves, and its spill entries do (or do not). -/
def tileLoads (s : State) (f : List Byte) (lost : Bool) : Bool :=
  let q : QFrame := ⟨1, f, [0, 0, 0, 0]⟩
  startsB s 0 1 f && (s.readOutcome 0 0 q .ok).2 && match s.frameRange 0 q 16 0 (tileBytes (field f 25 1)) 128 false with
    | .ok ps => s.spillsLost ((s.core 0).address q 16).1 ps (field f 25 1) [0] == lost
    | .error _ => false

theorem witness_LoadFramesFillTheirBuffer :
    ([0, 1].all fun flags => tileLoads (cored (queued 0 (loadFrame 1 1 flags))) (loadFrame 1 1 flags) false &&
      tileLoads (wideRow flags) (wideFrame flags) true) = true ∧
    ([0, 1].all fun flags =>
      let f := loadFrame 2 1 flags
      let s := cored (queued 0 f)
      let q : QFrame := ⟨1, f, [0, 0, 0, 0]⟩
      startsB s 0 2 f && (s.readOutcome 0 0 q .ok).2 && okB (s.frameRange 0 q 48 0 4 4 false) &&
        okB (s.gatherRows 0 q [(lpBase, 4)] 1 0 1)) = true ∧
    (let f := loadFrame 3 1 0
      let s := cored (queued 0 f)
      startsB s 0 3 f = true ∧ (s.readOutcome 0 0 ⟨1, f, [0, 0, 0, 0]⟩ .ok).2 = true ∧
        okB (s.frameRange 0 ⟨1, f, [0, 0, 0, 0]⟩ 16 0 64 64 false) = true) ∧
    (let f := put (loadFrame 1 1 0) 16 8 0
      let s := cored (queued 0 f)
      startsB s 0 1 f = true ∧ okB (s.frameRange 0 ⟨1, f, [0, 0, 0, 0]⟩ 16 0 (tileBytes 1) 128 false) = false) := by decide +kernel

/-- A STORE of one FP32 element to the first LPDDR5X granule. -/
def storeFrame (op : Nat) : List Byte :=
  frame 1 op [(16, 8, 2 ^ 63 + lpBase), (25, 1, 1), (32, 8, 2 ^ 63 + lpBase), (48, 8, 2 ^ 63 + lpBase + 128)]

/-- A capture of context 3 in CAPTURING. -/
def capping3 (begun : Bool) (left : List Nat) : Capping where
  state := .capturing
  ctx := 3
  ticket := ⟨0, 77, 0x0053, 3⟩
  toPeer := false
  peer := 0
  reg := 0
  offset := 0
  length := 0x100000
  begun := begun
  left := left
  entries := []
  metaBytes := 0
  stamp := 0
  lastStep := 0
  headers := []
  mapped := []
  restored := []

/-- Context 3 with its first granule mapped, its first protection granule held by a capture. -/
def protected3 : State :=
  let s := mapped.setXent 3 lpBase ⟨5000, true, false, 1⟩
  { s with guard := { s.guard with cap := some (capping3 true [lpBase]) } }

/-- A STORE of E4M3 with RETRY, of an element that saturates in every attempt, with its spill area at `spill` and its indices at `ixs`. -/
def wideStoreFrame (op spill ixs : Nat) : List Byte :=
  frame 1 op [(16, 8, 2 ^ 63 + lpBase), (25, 1, 4), (26, 1, 1), (32, 8, spill), (44, 4, 1), (48, 8, ixs)]

/-- A core of context 3 with such a frame, the context's first protection granule held. -/
def wideStore (f : List Byte) : State :=
  { protected3 with
    cores := [(0, { queued 1 f with context := 0x80000003, bufs := [(0, ⟨1, [[⟨1, 0x7F000000, 0, 127⟩]]⟩)] })] }

/-- The fault bit, or `heldWrite`, with which a STORE stops. -/
def stopOf (r : Except StoreStop (State × Started)) : Option Nat :=
  match r with
  | .ok _ => none
  | .error e => some e.2

/-- Whether such a STORE is at the head, not held, its reads clean. -/
def wideStarts (op : Nat) (f : List Byte) : Bool :=
  startsB (wideStore f) 1 op f && ((wideStore f).readOutcome 0 1 ⟨1, f, [0, 0, 0, 0]⟩ .ok).2

/-- How it stops. -/
def storeStop (op spill ixs : Nat) : Option Nat :=
  let f := wideStoreFrame op spill ixs
  let q : QFrame := ⟨1, f, [0, 0, 0, 0]⟩
  let s := wideStore f
  if wideStarts op f && !s.storeHeld 0 q then
    stopOf (if op = 1 then s.storeTile 0 q else if op = 2 then s.storeScatter 0 q else s.storeScatterAdd 0 q)
  else none

/-- A SCATTER of row 0 alone, its tile at DST whatever `Config.scatterTcols` is, stops as the store of that row does. -/
theorem scatter_row0 {s : State} {q : QFrame} {ixs ps : List (Nat × Nat)} {e : StoreStop} (h : s.rowIndex ixs 0 = 0)
    (hb : field q.bytes 44 4 = 1) (hp : s.storeRange 0 q 16 0 (tileBytes (field q.bytes 25 1)) 128 true = .ok ps)
    (hs : s.storeRowAt 0 q ps 0 0 = .error e) (hn : field q.bytes 28 1 = 0) (hx : s.storeRange 0 q 48 0 4 4 false = .ok ixs) :
    stopOf (s.storeScatter 0 q) = some e.2 := by
  simp [State.storeScatter, State.scatterRows, hn, hx, h, hb, hp, hs, stopOf]

/-- And is held as that tile is. -/
theorem scatter_row0_held {s : State} {q : QFrame} {ixs : List (Nat × Nat)} (h : s.rowIndex ixs 0 = 0) (ho : frOp q.bytes = 2)
    (hn : field q.bytes 28 1 = 0) (hx : s.frameRange 0 q 48 0 4 4 false = .ok ixs)
    (hf : s.frameHeld 0 q 16 0 (tileBytes (field q.bytes 25 1)) = false) : s.storeHeld 0 q = false := by
  simp [State.storeHeld, ho, hn, hx, h, hf]

/-- A SCATTER that capping holds at its spill area. -/
theorem witness_StoreFramesWriteTheirRows_scatter :
    let f := wideStoreFrame 2 lpBase (2 ^ 63 + lpBase)
    let q : QFrame := ⟨1, f, [0, 0, 0, 0]⟩
    wideStarts 2 f = true ∧ (wideStore f).storeHeld 0 q = false ∧ stopOf ((wideStore f).storeScatter 0 q) = some heldWrite := by
  refine ⟨by decide +kernel, scatter_row0_held (ixs := [(lpBase, 4)]) (by decide +kernel) (by decide +kernel) (by decide +kernel) rfl
    (by decide +kernel), ?_⟩
  have hh : (match (wideStore (wideStoreFrame 2 lpBase (2 ^ 63 + lpBase))).storeRowAt 0
      ⟨1, wideStoreFrame 2 lpBase (2 ^ 63 + lpBase), [0, 0, 0, 0]⟩ [(lpBase, tileBytes 4)] 0 0 with
    | .error e => e.2 == heldWrite
    | _ => false) = true := by decide +kernel
  split at hh
  · rename_i e he
    rw [scatter_row0 (ixs := [(lpBase, 4)]) (by decide +kernel) (by decide +kernel) rfl he (by decide +kernel) rfl]
    simpa using hh
  · contradiction

theorem witness_StoreFramesWriteTheirRows :
    storeStop 1 lpBase 0 = some heldWrite ∧ storeStop 1 8 0 = some faultAddr ∧ storeStop 2 8 1 = some faultAddr ∧
    storeStop 3 0 1 = some faultAddr ∧
    (let f := put (storeFrame 4) 16 8 1
      let s := cored (queued 1 f)
      startsB s 1 4 f = true ∧ s.storeHeld 0 ⟨1, f, [0, 0, 0, 0]⟩ = false ∧
        okB (s.frameRange 0 ⟨1, f, [0, 0, 0, 0]⟩ 16 0 64 64 true) = false) ∧
    ([1, 2, 3].all fun op =>
      let f := storeFrame op
      let q : QFrame := ⟨1, f, [0, 0, 0, 0]⟩
      let s := cored (queued 1 f)
      startsB s 1 op f && !s.storeHeld 0 q && (s.readOutcome 0 1 q .ok).2 &&
        okB (if op = 1 then s.storeTile 0 q else if op = 2 then s.storeScatter 0 q else s.storeScatterAdd 0 q)) = true ∧
    (let f := storeFrame 4
      let s := cored (queued 1 f)
      startsB s 1 4 f = true ∧ s.storeHeld 0 ⟨1, f, [0, 0, 0, 0]⟩ = false ∧
        okB (s.frameRange 0 ⟨1, f, [0, 0, 0, 0]⟩ 16 0 64 64 true) = true) ∧
    (let f := put (storeFrame 1) 16 8 lpBase
      let s : State := { protected3 with cores := [(0, { queued 1 f with context := 0x80000003 })] };
      startsB s 1 1 f = true ∧ s.storeHeld 0 ⟨1, f, [0, 0, 0, 0]⟩ = true) := by decide +kernel

theorem witness_StoreTileWritesItsTileOnly :
    ([0, 1].all fun retry =>
      let f := put (storeFrame 1) 26 1 retry
      let q : QFrame := ⟨1, f, [0, 0, 0, 0]⟩
      let s := cored (queued 1 f)
      okB (s.frameRange 0 q 16 0 (tileBytes 1) 128 true) && decide (field f 28 1 ≤ 127) && okB (s.storeTile 0 q) &&
        okB (s.frameRange 0 q 32 0 256 8 true)) = true := by decide +kernel

/-- An XFER of 64 bytes. -/
def xferFrame (op : Nat) : List Byte := frame 2 op [(16, 8, 2 ^ 63 + lpBase), (24, 8, 2 ^ 63 + lpBase + 64), (32, 4, 64), (37, 1, 1)]

theorem witness_XferFramesCopy :
    (let f := xferFrame 1
      let q : QFrame := ⟨1, f, [0, 0, 0, 0]⟩
      let s := cored (queued 2 f)
      (s.readOutcome 0 2 q .ok).2 = true ∧ startsB s 2 1 f = true ∧ s.frameHeld 0 q 24 0 64 = false ∧
        okB (s.frameRange 0 q 16 0 64 64 false) = true ∧ okB (s.frameRange 0 q 24 0 64 64 true) = true) ∧
    (let f := put (xferFrame 1) 24 8 (lpBase + 64)
      let q : QFrame := ⟨1, f, [0, 0, 0, 0]⟩
      let s : State := { protected3 with cores := [(0, { queued 2 f with context := 0x80000003 })] };
      (s.readOutcome 0 2 q .ok).2 = true ∧ startsB s 2 1 f = true ∧ s.frameHeld 0 q 24 0 64 = true) ∧
    (let f := xferFrame 2
      let q : QFrame := ⟨1, f, [0, 0, 0, 0]⟩
      let s : State := { grouped .active with cores := [(0, queued 2 f)] };
      startsB s 2 2 f = true ∧ okB (s.frameRange 0 q 16 0 64 64 false) = true ∧ (s.link 0).up = true ∧ (s.link 0).matched = true ∧
        (running.link 0).up = false) := by decide +kernel

/-- An MMA of one element into accumulator 16 with CLEAR; `k` is KSEQ. -/
def mmaFrame (op k : Nat) : List Byte := frame 3 op [(17, 1, 1), (18, 1, 16), (19, 1, 0x11), (22, 1, 1), (23, 1, k)]

/-- A CHAIN frame of one element from buffer 32 into buffer 33. -/
def chainFrame1 : List Byte := frame 5 1 [(17, 1, 32), (18, 1, 255), (19, 1, 255), (20, 1, 33), (21, 1, 255), (27, 1, 255)]

/-- A core with that frame, whose chain slot 0 adds CONST0 to IN0. -/
def chained : Core :=
  let d := [(0, 1, 1), (16, 1, 1), (17, 1, 1), (18, 1, 1), (19, 1, 0x11)].foldl (fun b f => put b f.1 f.2.1 f.2.2) (zeros 128)
  { queued 5 chainFrame1 with chainValid := 1, veuStore := [(0, d.take 64), (1, d.drop 64)] }

theorem witness_MatrixAndVectorFramesCompute :
    matrixOk .fme = true ∧ engineCode .fme = 3 ∧
    ([(1, 0), (1, 1), (2, 0)].all fun x => startsB (cored (queued 3 (mmaFrame x.1 x.2))) 3 x.1 (mmaFrame x.1 x.2)) = true ∧
    (Core.reset.acc 16).kseqOk (mmaFrame 1 0) = true ∧ (Core.reset.acc 16).kseqOk (mmaFrame 1 1) = false ∧
    startsB (cored chained) 5 1 chainFrame1 = true ∧
    (let d := chained.chainBytes (field chainFrame1 16 1);
      chainOk chained chainFrame1 d = true ∧ field d 2 2 = bits chained.context.toNat 8 0 ∧
        (chainReads chainFrame1 d).all chained.veuReadable = true) ∧
    (let s := cored { chained with chainValid := 0 };
      startsB s 5 1 chainFrame1 = true ∧ okB (s.chainFrame 0 ⟨1, chainFrame1, [0, 0, 0, 0]⟩) = false) := by decide +kernel

theorem witness_FramesCompleteAndWaitsExpire : running.coresClocked = true ∧
    (let c : Core := { Core.reset with mode := .running, started := [(0, [startedOf ⟨1, loadFrame 1 1 0, []⟩])] };
      let x := startedOf ⟨1, loadFrame 1 1 0, []⟩
      c.running 0 = [x] ∧ x.awaits = none ∧ x.watch = none ∧ bitAt (frSignal x.frame.bytes) 7 = false ∧
        bitAt (frSignal x.frame.bytes) 15 = false ∧ frEngine x.frame.bytes ≠ 2) ∧
    (let f := put (loadFrame 1 1 0) 4 4 0x10080
      let c : Core := { queued 0 f with waitLimit := 100 };
      let s := cored c
      let late : State := { s with power := { s.power with timebase := 1000000 } };
      c.taker 0 = some f ∧ c.active = true ∧ c.waitsMet f = false ∧ c.waitLimit ≠ 0 ∧
        tgetD c.headSince 0 0 + c.waitLimit.toNat ≤ late.now ∧ s.now < tgetD c.headSince 0 0 + c.waitLimit.toNat) := by decide +kernel

theorem witness_FaultsStopTheCore : faultKseq < 32 ∧ (queued 0 []).faulting = false ∧ (queued 0 []).mode ≠ .retired ∧
    (queued 0 []).quiet = true ∧ (queued 0 []).mode = .running ∧ (({ queued 0 [] with started := [] } : Core).quiet = true) ∧
    ({ queued 0 [] with mode := .aborting } : Core).mode = .aborting := by decide +kernel

/-! ### Hypotheses met: memory, flash and registers -/

theorem witness_MemoryCommandsTakeEffect :
    zeroUnit 0x3FFFF0000 = some 0x10000 ∧ 0x3FFFF0000 + 1 * 0x10000 = sramEnd ∧ ¬ 0x3FFFF0000 + 1 * 0x10000 > sramEnd ∧
    zeroUnit (lpEnd - 0x200000) = some 0x200000 ∧ zeroUnit 8 = none ∧ bitAt (BitVec.toNat (0x80000001 : Word)) 31 = true ∧
    bits (BitVec.toNat (0x80000001 : Word)) 17 0 = 1 ∧ bitAt running.memCtl.zeroCtrl.toNat 31 = false ∧ running.guard.cap = none ∧
    memWf running.mem = true := by decide +kernel

/-- A pack being written and one extent being moved. -/
def flashBusy : State :=
  { running with store := { running.store with
    writing := [⟨6, ⟨manifest70 0, manifest70 0, [], [], [], []⟩, ⟨0, 77, 0x0030, 0⟩⟩], relocating := [(3, 4)] } }

theorem witness_BackgroundReadsTakeEffect :
    (let s := running
      let d := scrubAddr 639 0
      let hard : State := { s with memCtl := { s.memCtl with soft := [d] } }
      let dead : State := { s with memCtl := { s.memCtl with uncorrectable := [d] } };
      s.memCtl.scrubPaused = false ∧ s.scrubDue 639 = true ∧ tgetD s.memCtl.scrubAt 639 0 = 0 ∧ s.damagedIn [(d, scrubStep 639)] = none ∧
        s.memCtl.soft.contains d = false ∧ s.memCtl.soft.contains (codeWord d) = false ∧ hard.memCtl.soft.contains (codeWord d) = true ∧
        hard.memCtl.soft.contains d = true ∧ (dead.damagedIn [(d, scrubStep 639)]).isSome = true) ∧
    ({ running with memCtl := { running.memCtl with scrubFrom := [(0, 0)] } } : State).scrubDue 0 = false ∧
    (let w : Store := { running.store with packs := [(5, ⟨manifest70 0, manifest70 0, [], [3], [], []⟩)], patrolled := [(4, 0)] };
      let s : State := { running with store := w };
      s.patrolDue 4 = false ∧ s.patrolDue 3 = true ∧ w.holds 3 = true ∧ (w.relocating.any fun r => r.1 == 3) = false ∧
        (gapOnChannel w.usedExtents (channelOf 3) (w.usedExtents.length + 1)).isSome = true) ∧
    running.store.ready = true ∧ extentCount - 1 < extentCount ∧
    tgetD ({ running.store with reads := [(3, 99998)] } : Store).reads 3 0 + 1 < 100000 ∧
    flashBusy.store.relocating.find? (fun r => r.1 == 3) = some (3, 4) ∧
    (flashBusy.store.writing.find? fun x => x.packId == 6).isSome = true := by decide +kernel

theorem witness_ControlWritesTakeEffect :
    running.keeper.wdogArmed = some 0 ∧ running.now < 0 + running.keeper.wdogCfg.toNat := by decide +kernel

theorem witness_RegisterAccessesTakeEffect :
    running.reaches .keeper 0x811000000 = true ∧ (running.regWrite .keeper 0x811000000 5).isSome = true ∧
    (running.regWrite .keeper 0x811000001 5).isNone = true ∧ running.regRead 0x8FFFFFFF8 = none ∧
    running.reaches .comb 0x802200000 = false ∧ running.reaches .keeper 0 = false ∧ running.reaches .keeper 0x400000000 = true ∧
    running.reaches .comb 0x8021FFFF8 = true ∧ running.reaches .debugPath 0x811000000 = false ∧
    State.reset.clocked = false ∧ running.clocked = true ∧ running.propolis.level ≠ 2 ∧
    ({ running with propolis := { running.propolis with level := 2 } } : State).propolis.level = 2 ∧ isMemory 0 = true ∧
    running.keeper.powerState ≠ 2 := by decide +kernel

/-! ### Hypotheses met: guard and capping -/

/-- Physical cores 5 and 6 suspect, 6 for the fourth time, and 7 under test. -/
def suspicious : State :=
  { running with guard := { running.guard with suspects := [5, 6, 7], suspicions := [(5, 3), (6, 4)], testing := [7] } }

theorem witness_HardenedRegistersAndSelfTests :
    (running.hardened 0x814000000).isSome = true ∧ running.hardened 0x814000008 = none ∧
    5 ∈ suspicious.guard.suspects ∧ 5 ∉ suspicious.guard.testing ∧ suspicious.combRests (combOf 5) = true ∧
    suspicious.keeper.mode = .running ∧ tgetD suspicious.guard.suspicions 5 0 < 4 ∧ 4 ≤ tgetD suspicious.guard.suspicions 6 0 ∧
    7 ∈ suspicious.guard.testing ∧ suspicious.servedBy 5 = some 5 ∧ suspicious.spareFree (combOf 5) = true ∧
    ({ suspicious with coreMap := [(3, 16)] } : State).spareFree (combOf 5) = false := by decide +kernel

/-- A capture of context 3 in a group of two. -/
def capped (k : Capping) : State := { grouped .active with guard := { running.guard with cap := some k } }

theorem witness_CapturesCopyAndEnd :
    (let k := capping3 false [];
      k.state = .capturing ∧ k.begun = false ∧ (capped k).ctxRunning k.ctx = false ∧ (capped k).steps = [] ∧
        (capped k).learningStep k.ctx = false) ∧
    (capping3 true [lpBase]).left = [lpBase] ∧ (lpBase + 0xFFFF) / 0x10000 * 0x10000 ∈ (capping3 true [lpBase]).left ∧
    (let k := capping3 true [];
      (capped k).reportsPart k 0 = true ∧ (capped k).reportsPart k 1 = true ∧ 0 = (capped k).position ∧ 1 ≠ (capped k).position ∧
        k.left = [] ∧ k.begun = true) ∧
    ({ capping3 true [] with state := .restoring } : Capping).state = .restoring ∧
    ((capped (capping3 true [])).turns.loads.any fun l => l.restore && l.ticket.ctx == 3) = false ∧
    protected3.rangeHeld (.ctx 3) lpBase 16 = true ∧ copyStatus .visible = none ∧ copyStatus .tooSmall = some stCapacity ∧
    (let k := capping3 true [lpBase]
      let d := lpBase + 5000 * 0x200000
      let s : State := { protected3 with memCtl := { protected3.memCtl with uncorrectable := [d] } };
      protected3.copyOutcome k lpBase .visible = .visible ∧ protected3.copyOutcome k lpBase .tooSmall = .tooSmall ∧
        s.copyOutcome k lpBase .visible = .uncorrectable d) := by
  decide +kernel

/-! ### Hypotheses met: generation steps -/

/-- A batch step of slot 2's decoding row, stamp 5, in a phase. -/
def step3 (ph : StepPhase) : GenStep where
  ctx := 3
  mask := 0
  package := 0
  version := 1
  stamp := 5
  firstStamp := 5
  lc := false
  phase := ph
  items := [⟨2, true, 4, 1⟩]
  rows := []
  tables := []
  samples := []
  runs := []
  fp := 0
  flags := 0
  faultBits := 0
  veuFaultBits := 0
  faultAt := 0
  ends := []
  past := []
  ending := []
  pages := []
  adapters := []
  status := 0
  watches := []

/-- The packaged context with that step. -/
def stepping (ph : StepPhase) : State := { packaged with steps := [step3 ph], slots := [(2, someSlot)] }

/-- The packaged context enabled, with slot 2 due and the builder enabled. -/
def dueNow : State :=
  { packaged with
    brdCtrl := 1
    ctxRegs := [(3, { CtxRegs.reset with cfg := 0x10001, usage := 9, kvPages := 8 })]
    slots := [(2, { someSlot with version := 1, list := some 0 })]
    power := { running.power with timebase := 1000000 } }

theorem witness_GenerationStepsRun :
    (stepping .built).genStep 3 = some (step3 .built) ∧ (stepping .built).mayStart ((stepping .built).creg 3).combs = true ∧
    (stepping .built).invalWaits 3 = false ∧
    (stepping .running).runEnded ((stepping .running).maskCores 0) = true ∧ (stepping .running).isQueen = true ∧
    (let s := stepping .coresDone;
      let t := { step3 .coresDone with samples := [⟨2, 0, some 7, 0, 0⟩] };
      t.ends.length + 1 = s.groupSize ∧ s.allSampled t = true) ∧
    ({ stepping .coresDone with cascade := { (grouped .active).cascade with group := BitVec.ofNat 64 (2 ^ 56 + 2 ^ 50 + 2 ^ 32) } } :
      State).isQueen = false ∧
    dueNow.mayBuild = true ∧ dueNow.combsIdle 0xFFFFFFFF = true ∧ dueNow.chooseContext 0xFFFFFFFF = some (3, [2]) ∧
    (dueNow.ctx 3).any (fun x => match dueNow.chooseKey x [2] with
      | some key => match tget x.packages key.1 with
        | some l => (dueNow.buildList 3 l.package key [2]).items == [⟨2, true, 4, 1⟩]
        | none => false
      | none => false) = true ∧
    dueNow.chooseContext 1 = none ∧
    ((stepping .running).steps.find? fun t => (t.phase == .running || t.phase == .coresDone) && t.items.any fun w => w.slot == 2) =
      some (step3 .running) ∧
    (step3 .running).items.find? (fun w => w.slot == 2) = some ⟨2, true, 4, 1⟩ ∧
    ((stepping .running).stepPackage (step3 .running)).isSome = true ∧ (stepping .running).samplerServes 0 (step3 .running) = true ∧ (stepping .running).rowSampled ⟨2, true, 4, 1⟩ 0 = true ∧
    dueNow.shareWindow < dueNow.now / 1000000 ∧ running.now / 1000000 ≤ running.shareWindow ∧
    (tget dueNow.ctxRegs 3).any (fun r => r.usage == 9) = true := by decide +kernel

/-! ### Hypotheses met: learning steps -/

/-- A learning step of context 3, its step 1 of package 1. -/
def learn3 (st : LearnState) : LearnStep where
  ctx := 3
  lc := false
  ticket := ⟨19, 77, 0x0050, 3⟩
  plan := ⟨false, true, false, 1, 1, 1, [], 0x3F800000, 0, [], []⟩
  state := st
  base := 0
  passes := 1
  slots := 1
  units := []
  scales := []
  inputsDue := 0
  replayInputs := []
  fatal := 0
  pass := 1
  running := false
  replaying := none
  orders := []
  flags := []
  fps := []
  watches := []
  fp := 0
  faulted := false
  faultAt := 0
  lastStamp := 5
  clipFactor := none
  staged := []
  guarded := [⟨0, [], 1, false⟩]
  origins := []
  redo := false
  redoing := false
  commitSent := false
  acks := []
  status := 0

/-- A group of two in which this module is the queen or its member, with steps of context 3. -/
def learning2 (queen : Bool) (t : LearnStep) : State :=
  let g := grouped .active;
  { g with
    steps := [step3 .running]
    learnSteps := [t]
    cascade := { g.cascade with group := g.cascade.group ||| (if queen then 0 else BitVec.ofNat 64 (2 ^ 32)) } }

theorem witness_GroupStepMessagesTakeEffect :
    (let s := learning2 true (learn3 .running);
      s.isQueen = true ∧ 1 ∈ s.others ∧ (s.steps.find? fun t => t.stamp.toNat == 5 && (t.phase == .running || t.phase == .coresDone)) =
        some (step3 .running) ∧ tget (step3 .running).ends 1 = none ∧
      s.learnStep 3 = some (learn3 .running) ∧ (learn3 .running).plan.clip = true ∧ (learn3 .running).pass = (learn3 .running).passes ∧
      1 < s.groupSize ∧ 1 ≠ s.position ∧ tget (learn3 .running).staged 1 = none ∧ (learn3 .running).commitSent = false ∧
      s.replayPos 0 1 = 1 ∧
      ((learn3 .running).guarded.any fun x => x.micro == 0 && x.runs.length + 1 == 1 && decide (1 ≤ x.asked)) = true) ∧
    (let s : State := { learning2 false (learn3 .running) with steps := [], learnSteps := [] }
      let u := withCtx s 3 fun x => { x with packages := [(1, ⟨somePackage 71 .learning, none⟩)] };
      s.isQueen = false ∧ s.cascade.state = .active ∧ (s.ctx 3).isSome = true ∧ s.wake.mayStart (s.creg 3).combs = true ∧
        s.invalWaits 3 = false ∧ s.steps = [] ∧ 1 ≠ s.cascade.epoch.toNat ∧ (u.learnPackage 3 (parsePlan plan1).package).isSome = true ∧
        u.learnStep 3 = none ∧ u.wake.mayStart (u.creg 3).combs = true ∧ u.isQueen = false ∧ u.cascade.state = .active) ∧
    (let s := learning2 false (learn3 .running);
      s.isQueen = false ∧ s.learnStep 3 = some (learn3 .running)) := by decide +kernel

/-- The other clauses of GenerationStepsRun: a learning step whose next core step may start, and one whose cores have ended. -/
theorem witness_GenerationStepsRun_learning :
    (let s : State := { learningState with learnSteps := [learn3 .running], memCtl := running.memCtl };
      s.genStep 3 = none ∧ s.learnStep 3 = some (learn3 .running) ∧ s.mayStart (s.creg 3).combs = true ∧ s.invalWaits 3 = false ∧
        (s.learnPackage 3 (learn3 .running).plan.package).isSome = true ∧ (learn3 .running).running = false ∧
        (learn3 .running).status = 0 ∧ (learn3 .running).faulted = false ∧ (learn3 .running).redoing = false ∧
        s.combsIdle (s.creg 3).combs = true) ∧
    (let t := { learn3 .running with running := true };
      let s : State := { learningState with learnSteps := [t] };
      s.learnStep 3 = some t ∧ t.running = true ∧ s.runEnded (s.maskCores (s.creg 3).combs) = true) := by decide +kernel

theorem witness_CommitsAreAtomic :
    (let s := learning2 false (learn3 .staged);
      s.isQueen = false ∧ s.learnStep 3 = some (learn3 .staged) ∧ s.acceptsCommit (learn3 .staged) 1 0 = true ∧
        s.acceptsCommit (learn3 .staged) 2 0 = false ∧ (s.ctx (learn3 .staged).ctx).isSome = true) ∧
    (let t := { learn3 .staged with commitSent := true };
      let s := learning2 true t;
      s.learnStep 3 = some t ∧ s.isQueen = true ∧ 1 ∈ s.others) := by decide +kernel

/-- A turn of context 3's package to learning, or from a map of shards with given ends. -/
def turn3 (k : TurnKind) (ends : List (Option Nat)) : Turn where
  kind := k
  ticket := ⟨19, 77, 0x0042, 3⟩
  lc := false
  package := 1
  adapter := 0xFFFF
  begun := true
  started := 0
  ready := []
  tag := 2
  shelvedNow := []
  report := lpBase
  shards := ends.mapIdx fun i st => ⟨i, 0, 0, 0, 5, st⟩
  places := []
  moves := []
  scales := []
  grans := []
  reserve := none

theorem witness_TurnsAndLoadsEnd :
    (let s : State := { running with turns := { running.turns with turn := some (turn3 .learn []) } };
      s.turns.turn = some (turn3 .learn []) ∧ (turn3 .learn []).begun = true ∧ s.isQueen = true ∧ 0 < s.groupSize) ∧
    (∀ p ∈ (turn3 .full [some stDone]).shards, p.status = some stDone) ∧ (turn3 .full []).kind ≠ .learn ∧
    (∃ p ∈ (turn3 .full [none]).shards, p.status ≠ some stDone) ∧
    requested.openLoad 5 = some loading ∧
    (requested.turns.requests.find? fun r => r.request == 6 && !r.ended) = some ⟨6, 5, 0, 0, false⟩ ∧
    requested.now < 0 + requested.turns.hostWait.toNat ∧
    0 + requested.turns.hostWait.toNat ≤ ({ requested with power := { running.power with timebase := 0x05F5E100 } } : State).now ∧
    (let l := { loading with shards := [⟨0, 0, 0, 0, 3, some stDone⟩, ⟨1, 0, 0, 0, 3, some stMem⟩] };
      let s : State := { requested with turns := { requested.turns with loads := [l] } };
      s.isQueen = true ∧ l.restore = false ∧ firstFailed l.shards = some stMem ∧
        s.turns.loads.find? (fun l => l.packId == 5 && !l.waitsSwitch && l.shards.all fun p => p.status.isSome) = some l) ∧
    firstFailed [⟨0, 0, 0, 0, 3, some stDone⟩] = none ∧ deliverySource (.corrupt 2) = some 2 ∧ deliverySource .deviceLost = none := by
  decide +kernel

/-! ### Hypotheses met: device links and the group -/

/-- A packet from position 1 of `grouped` to this module, with one unit of payload. -/
def sent1 (ty : Nat) : List Byte := packet ty 0 1 0 0 0 3 0x8000 9 0 (zeros 32)

theorem witness_LinkPacketsHaveTheirEffect :
    (let s := grouped .active;
      ([1, 2, 3, 4, 5].all fun ty => (s.link 0).up && (s.link 0).matched && pkWhole (sent1 ty) && pkSeq (sent1 ty) == (s.link 0).expectSeq &&
        pkType (sent1 ty) == ty && pkDst (sent1 ty) == s.position && pkEpoch (sent1 ty) == s.cascade.epoch.toNat &&
        pkStamp (sent1 ty) == s.cascade.current.toNat && s.cascade.state != .none) = true ∧
      pkType (sent1 6) = 6 ∧ pkWhole (sent1 7) = true ∧ pkType (sent1 7) = 7 ∧ bitAt (pkAddr (sent1 7)) 48 = false ∧
      pkWhole (put (sent1 1) 28 4 0) = false ∧ (running.link 0).up = false) := by decide +kernel

theorem witness_TheGroupForms :
    (let s : State := { (grouped .forming) with cascade := { (grouped .forming).cascade with links := [], formTicket := some ⟨0, 77, 0x20, 0⟩ } };
      s.cascade.enable = true ∧ s.linkUsed 0 = true ∧ s.linkUp 0 = false ∧ s.keeper.powerState ≠ 2 ∧ s.cascade.state = .forming ∧
        s.isQueen = true ∧ 1 ∈ s.others ∧ 1 ≠ s.cascade.epoch.toNat ∧ s.now < s.cascade.formTick + s.cascade.formWait.toNat ∧
        s.cascade.formTick + s.cascade.formWait.toNat ≤ ({ s with power := { s.power with timebase := 0xFFFFFFFF } } : State).now) ∧
    (let s := learning2 false (learn3 .running);
      ({ s with cascade := { s.cascade with state := .forming } } : State).isQueen = false) ∧
    (let s := grouped .active;
      s.beatsWith 1 = true ∧ s.missedBeats 1 < bits s.cascade.hbCfg.toNat 23 16 ∧
        bits s.cascade.hbCfg.toNat 23 16 ≤ ({ s with power := { s.power with timebase := 0xFFFFFFFF } } : State).missedBeats 1 ∧
        s.cascade.state = .active ∧ s.keeper.mode = .running) := by decide +kernel

/-! ### Hypotheses met: start, restart, firmware -/

/-- The module in the start, its last step that ended `n`. -/
def starting (n : Nat) : State :=
  { running with keeper := { running.keeper with mode := .bootRom, startStep := n, startFail := 0, loadTicket := some ⟨0, 77, 0x60, 0⟩ } }

theorem witness_TheStartTakesItsSteps :
    ([0, 1, 2, 3, 4, 7].all fun n => (starting n).startingAt n && !(starting n).keeper.loadWaits) = true ∧
    (starting 7).keeper.loadTicket = some ⟨0, 77, 0x60, 0⟩ ∧ ([0, 1, 2, 3, 4, 7].all fun n => !running.startingAt n) = true := by
  decide +kernel

/-- The Keeper restarting, at step `n`, with an ACTIVE image whose slot holds no image. -/
def restarting (n : Nat) (i : Option Image) : State :=
  { running with keeper := { running.keeper with mode := .restarting, startStep := n, active := i } }

/-- The clause of a restart image that verifies rests on `Config.mldsaVerify`, which has no body: no witness of it can be evaluated. -/
theorem witness_TheKeeperRestarts :
    (let s : State := { running with power := { running.power with timebase := 0xFFFFFFFF } };
      s.keeper.mode = .running ∧ s.watchdogDue 0 = true ∧ running.watchdogDue 0 = false) ∧
    running.keeperRuns = true ∧ State.reset.keeperRuns = false ∧
    (restarting 6 none).keeper.mode = .restarting ∧ (restarting 6 none).restartImage = none ∧
    (restarting 6 (some someImage)).restartImage = some (someImage, 0) ∧
    okB ((restarting 6 (some someImage)).checkImage ((restarting 6 (some someImage)).read 0 someImage.length)).2 = false ∧
    (restarting 7 none).keeper.startStep = 7 ∧ running.bootRom = false := by decide +kernel

/-! ### Hypotheses met: power, pins, management -/

/-- Calm readings. -/
def calm : PowerReadings := ⟨800, 3, 900, [850, 0, 0, 0, 0, 0], [0, 0, 0, 0, 0, 0], true⟩

theorem witness_PowerGuardFollowsItsReadings :
    running.clocked = true ∧
    railClamp 5 < railClamp 5 + 1 ∧ 5 ∈ ({ running.power with clamped := [5] } : Power).clamped ∧
    (let s : State := { running with power := { running.power with emergency := true, ceiling := 0, timebase := 10000000 } };
      s.clocked = true ∧ s.power.zeroTick + 10000000 ≤ s.now ∧ s.keeper.deferred = []) ∧
    running.now < running.power.zeroTick + 10000000 ∧
    (let p : Power := { running.power with target := some 1, request := 1, hostCeil := 0, ceiling := 0 };
      p.target = some 1 ∧ 1 = p.wanted ∧ vcoreMin 1 ≤ 2000 ∧ 0 < vcoreMin 1) ∧
    (let s : State := { running with power := { running.power with target := some 1, timebase := 30 * 100 } };
      s.power.target.isSome = true ∧ s.power.raiseAt + 30 * usTicks ≤ s.now) ∧
    (let s : State := { running with keeper := { running.keeper with powerState := 2 }, power := { running.power with timebase := 10000 } };
      s.keeper.powerState = 2 ∧ s.keeper.lastP2Access + 100 * usTicks ≤ s.now) := by decide +kernel

theorem witness_PinsPowerAndResetTheModule :
    running.pins.vaux = true ∧ running.pins.pwrGood = true ∧ running.pins.modReset = false ∧ running.pins.refclk = true ∧
    running.clocked = true ∧ running.power.stopped = none ∧ State.reset.pins.modReset = true ∧ State.reset.pins.vaux = true ∧
    ({ running.pins with pwrGood := false } : Pins).pwrGood = false ∧ State.reset.pins.vaux = true := by decide +kernel

theorem witness_SummariesFollowR604 :
    (tget Ledger.reset.summaries 0x0101).isNone = true ∧ Ledger.reset.summaries.length < 512 ∧ (Summary.empty 0x0101).hist.length = 16 ∧
    512 ≤ ({ Ledger.reset with summaries := (List.range 512).map fun k => (k + 0x1000, .empty (k + 0x1000)) } : Ledger).summaries.length ∧
    (tget ({ Ledger.reset with summaries := (List.range 512).map fun k => (k + 0x1000, .empty (k + 0x1000)) } : Ledger).summaries
      0x0101).isNone = true := by decide +kernel

theorem witness_LedgerAndManagementTakeEffect :
    running.pins.pwrGood = true ∧ running.ledger.seconds % 60 = 0 ∧ running.pins.vaux = true ∧
    pldmType [0, 2] = 2 ∧ field (1 :: zeros 8) 0 1 = 1 ∧ (1 :: zeros 8 : List Byte).length = 9 ∧
    bitAt (field (1 :: zeros 8) 1 8) 63 = false ∧ ({ running.pins with pwrGood := false, vaux := false } : Pins).vaux = false := by
  decide +kernel

/-- A wipe in progress with no context left. -/
def wiping (into : Option Nat) : State :=
  { running with ctxs := [], propolis := { running.propolis with wiping := some ⟨8, 77, 0x66, 0⟩, wipeTo := into } }

theorem witness_WipesClearTheModule :
    (wiping none).propolis.wiping = some ⟨8, 77, 0x66, 0⟩ ∧ (wiping none).ctxs = [] ∧ (wiping none).propolis.wipeTo = none ∧
    (wiping (some 2)).propolis.wipeTo = some 2 ∧ (wiping (some 3)).propolis.wipeTo = some 3 ∧ running.propolis.wiping = none ∧
    running.keeper.fwBase.toNat + 0x400000 ≤ lpBase ∧ tget (cored .reset).wipeMemory.cores 0 = some Core.reset := by decide +kernel

/-! ### Results that the manual's examples give -/

/-- The next state of a command; the given one where the command stops. -/
def after (c : Instr) (s : State) : State :=
  match exec c s with
  | .next t => t
  | _ => s

/-- CRC-32C of its check string. -/
theorem test_crc32c_check : crc32c ([0x31, 0x32, 0x33, 0x34, 0x35, 0x36, 0x37, 0x38, 0x39] : List Byte) = 0xE3069283 := by
  decide +kernel

/-- Chapter 3: E4M3 with scale exponent 5 takes 3.3125, 3.375 and 14.6875 to 0x6D, 0x6E and 0x7E, the last saturated. -/
theorem test_e4m3_example :
    ([(53, -4), (27, -3), (235, -4)].map fun (x : Nat × Int) =>
      let c := e4m3.encode ((Val.fin false x.1 x.2).scale 5);
      (c.bits, c.sat)) = [(0x6D, false), (0x6E, false), (0x7E, true)] := by decide +kernel

/-- Chapter 3: the block 11, −2.625, 0.875, 5 in FP4 has B = 128 and codes 7, B, 1, 4. -/
theorem test_fp4_example :
    (let b := encodeBlock ([.fin false 11 0, .fin true 21 (-3), .fin false 7 (-3), .fin false 5 0] ++ List.replicate 28 .zero);
      (b.exponent, b.codes.take 5)) = (128, [7, 0xB, 1, 4, 0]) := by decide +kernel

/-- Chapter 3: E5M2 with the largest magnitude 3 × 2⁻⁸ scales by 2²¹; 5 × 2⁻⁷ then saturates, and at 2¹⁹ is 0x75; with that value
largest the scale is 2¹⁹. -/
theorem test_scale_example :
    scaleFrom 5 (.fin false 3 (-8)) 0 = 21 ∧ (e5m2.encode ((Val.fin false 5 (-7)).scale 21)).sat = true ∧
    (e5m2.encode ((Val.fin false 5 (-7)).scale 19)).bits = 0x75 ∧ scaleFrom 5 (.fin false 5 (-7)) 0 = 19 := by decide +kernel

/-- Chapter 3: 1 + 3 × 2⁻²⁶ with draw bits 0x4E20 rounds away, with 0x6000 toward zero. -/
theorem test_fold_example :
    sr32 ((val32 0x3F800000).add (val32 0x33400000)) 0x4E20 = 0x3F800001 ∧
    sr32 ((val32 0x3F800000).add (val32 0x33400000)) 0x6000 = 0x3F800000 := by decide +kernel

/-- Chapter 4: element (44, 5) of tile 20 lies 4,096 + 389 into it, its row's metadata at 16,428. -/
theorem test_layout_example : tileOffset 4 44 5 = 4096 + 389 ∧ metaOffset 4 44 = 16384 + 44 ∧ tileOffset 4 44 0 = 4096 + 384 ∧
    tileBytes 4 = 16512 := by decide +kernel

/-- Chapter 5: the epilogue's row as E4M3 with scale exponent 5 and RETRY is 5D 00 6F 7F at n = 1. -/
theorem test_store_example :
    (let r := convertRow 4 true ([.fin false 53 (-4), .zero, .fin false 235 (-4), .inf false] ++ List.replicate 124 .zero) 5 128;
      (r.codes.take 5, r.attempt)) = ([0x5D, 0, 0x6F, 0x7F, 0], 1) := by decide +kernel

/-- Chapter 6: context address 0x80_1234_5678 of context 12, its granule 6,700, is device address 0x83_4594_5678. -/
theorem test_translation_example :
    (running.mapGranule 12 0x8012200000 6700 false).resolve (.ctx 12) 0x8012345678 false = some 0x8345945678 ∧
    running.entryAddr 12 0x8012345678 = 0x9000000000 + 12 * 0x300000 + 0x100000 + 145 * 8 := by decide +kernel

/-- R195, by hand: SILU(1036) lies just below 1036, the tie between the BF16 values 1032 and 1040, so it delivers 1032. -/
theorem test_silu_near_tie : (encodeFmt 2 (tableFunc (encodeFmt 2) false 6 (.fin false 1036 0))).bits = 0x4481 := by decide +kernel

/-- Chapter 9: with K = 1 and 32 layers the even micro-batches stash layer 5 in unit 5, the odd ones in unit 31 − 5. -/
theorem test_stash_example : [0, 1, 2].map (fun n => stashUnit 1 32 n 5) = [5, 26, 5] := by decide

/-- Chapter 9: a piece of a bucket of 16,777,216 elements in a group of 8 is 2,097,152 elements. -/
theorem test_bucket_example : (⟨0, 0, 16777216⟩ : Bucket).piece 8 = 2097152 := by decide

/-- Chapter 14: from code 0, readings of 100.4, 100.1, 97.0, 94.6 and 93.9 °C give the ceilings 1, 2, 2, 1 and 0. -/
theorem test_guard_example :
    ([1606, 1601, 1552, 1513, 1502].foldl (fun (x : Power × List Nat) (tj : Int) =>
      let c := (x.1.afterWindow { calm with tj := tj }).1
      ({ x.1 with ceiling := c }, x.2 ++ [c])) (running.power, [])).2 = [1, 2, 2, 1, 0] := by decide +kernel

/-- Chapter 16: CORE_FAULT at seconds 1,230, 1,245, 1,259, 1,260, 1,799 and 1,800 makes four records: it flushes in minutes 20, 21, 29 and
30. -/
theorem test_ledger_example :
    (([1230, 1245, 1259, 1260, 1799, 1800] : List Nat).foldl (fun (x : Ledger × List (Option Nat)) n =>
      let l := ({ x.1 with seconds := n, ready := true } : Ledger).settleWindow.take 0x0401 0 noUnit
      (l, x.2 ++ [tget l.flushed 0x0401])) ({ Ledger.reset with windowStart := 1200 }, [])).2 =
        [some 20, some 20, some 20, some 21, some 29, some 30] := by decide +kernel

/-! ### Results of single steps -/

/-- An MMA with CLEAR of 1.5 by 2.0 and FIN leave 3.0 in the accumulator. -/
theorem test_mma_fin :
    (let c := { queued 3 (mmaFrame 1 0) with
        bufs := [(0, ⟨1, [[⟨1, 0x3FC00000, 0, 127⟩]]⟩), (1, ⟨1, [[⟨1, 0x40000000, 0, 127⟩]]⟩)] };
      let t := after (.mma 0 .fme) (cored c);
      ((((t.core 0).acc 16).fin).cell 0 0, ((t.core 0).running 3).length)) = (0x40400000, 1) := by decide +kernel

/-- A notification halves the send rate, to no less than line rate / 2^FLOOR. -/
theorem test_cnp : ((after (.cnpReceived (whole 2)) running).qp 2).map Qp.rate = some 32768 := by decide +kernel

/-- LOCK sets the lock bits it names and keeps those that are set. -/
theorem test_lock :
    (after (.lock 0) (told { running with propolis := { running.propolis with lock := 4 } } 0 (say 0x0008 0 [(32, 1, 1)]))).propolis.lock =
      5 := by decide +kernel

/-- A LEDGER_READ by a client's mailbox is not permitted: its message is consumed and its one record written. -/
theorem test_client_ledger_read :
    (let m := say 0x0065 3 [(48, 8, 128)];
      let b := (after (.ledgerRead 19) (told running 19 m)).mailbox 19;
      rejectsB running 19 0x0065 m stNotPermitted = true ∧ b.cons = 1 ∧ b.written = 1 ∧ b.pend = []) := by decide +kernel

/-- A step runs the front command, and the next behind it stays. -/
theorem test_step_takes_front :
    (match step { running with pending := [.dlEnable, .dlFence] } with
      | .next t => some (t.cascade.enable, t.pending)
      | _ => none) = some (true, [.dlFence]) := by decide +kernel

end Sys2Proof.Tests
end

section
/-! SUPPORT. One timebase tick of an empty queue: what it counts, and what the firmware may log in it. -/

namespace Sys2Proof.Proofs

open Sys2Proof.Machine Sys2Proof.Laws

/-! ### Tables and words -/

/-- A change of every value of a table changes what each key reads. -/
theorem tget_map {α β : Type} (f : α → β) (t : Table α) (k : Nat) :
    tget (t.map fun e => (e.1, f e.2)) k = (tget t k).map f := by
  induction t with
  | nil => rfl
  | cons e rest ih =>
    obtain ⟨j, v⟩ := e
    by_cases h : j = k
    · simp [tget, h]
    · simp [tget, h, ih]

/-- A bit number is what `Nat.testBit` reads. -/
theorem bitAt_eq_testBit (v i : Nat) : bitAt v i = v.testBit i := by
  simp [bitAt, Nat.testBit_eq_decide_div_mod_eq]

/-- A set bit reads 1. -/
theorem bitAt_setBit32_self (v : Word) {i : Nat} (h : i < 32) : bitAt (setBit32 v i).toNat i = true := by
  have hlt : 2 ^ i < 2 ^ 32 := Nat.pow_lt_pow_right (by decide) h
  have hbit : (2 ^ i % 2 ^ 32).testBit i = true := by rw [Nat.mod_eq_of_lt hlt, Nat.testBit_two_pow_self]
  simp only [bitAt_eq_testBit, setBit32, BitVec.toNat_or, BitVec.toNat_ofNat, Nat.testBit_or, hbit, Bool.or_true]

/-! ### The staging buffer and the ring of the firmware log (R554, R556) -/

/-- A record waits where the staging buffer has room, and nothing is counted as lost. -/
theorem stageLog_room (s : State) (r : List Byte) (h : s.keeper.logStaging.length < 2048) :
    (s.stageLog r).keeper.logStaging = s.keeper.logStaging ++ [r] ∧ (s.stageLog r).keeper.logLost = s.keeper.logLost := by
  simp [State.stageLog, stagingRecords, h]

/-- A record that finds the staging buffer full is dropped and counted, and KPR_FAULT says so. -/
theorem stageLog_full (s : State) (r : List Byte) (h : 2048 ≤ s.keeper.logStaging.length) :
    (s.stageLog r).keeper.logStaging = s.keeper.logStaging ∧ (s.stageLog r).keeper.logLost = s.keeper.logLost + 1 ∧
      bitAt (s.stageLog r).keeper.fault.toNat 1 = true := by
  have hfull : ¬ s.keeper.logStaging.length < stagingRecords := Nat.not_lt.2 h
  simp [State.stageLog, hfull, bitAt_setBit32_self]

/-- A record of 32 bytes at a count of whole records lies inside the ring: no byte outside it changes. -/
theorem memGet_ringWrite_outside (m : List Host.Cell) (base count a : Nat) (r : List Byte) (hr : r.length = 32)
    (hc : 32 ∣ count) (ha : a < base ∨ base + logBytes ≤ a) :
    memGet (memWrite m (base + count % logBytes) r) a = memGet m a := by
  apply memGet_write_outside
  have hring : logBytes = 0x400000 := rfl
  rw [hring] at ha ⊢
  omega

/-! ### The tick -/

/-- A share window's roll changes the window number and the contexts' usage only. -/
theorem rollShare_frame (s : State) :
    s.rollShare = { s with shareWindow := s.rollShare.shareWindow, ctxRegs := s.rollShare.ctxRegs } := by
  by_cases h : s.shareWindow < s.now / 1000000 <;> simp [State.rollShare, h]

/-- The tick of a module that is not clocked: only the Ledger controller empties its intake. -/
theorem tick_unclocked {s : State} (h : s.clocked = false) : tick s = { s with ledger := s.ledger.drain } := by
  simp [tick, h]

/-- A clocked module's tick before its firmware logs: time, busy counts and charges go on, and a share window that ends rolls. -/
def clockBeat (s : State) : State := State.rollShare { s with
  ledger := s.ledger.drain, cores := s.countBusy, ctxRegs := s.chargeUsage
  power := { s.power with timebase := s.power.timebase + 1 } }

theorem clockBeat_frame (s : State) : clockBeat s = { s with
    ledger := s.ledger.drain, cores := s.countBusy, ctxRegs := (clockBeat s).ctxRegs, shareWindow := (clockBeat s).shareWindow
    power := { s.power with timebase := s.power.timebase + 1 } } :=
  rollShare_frame _

/-- The tick of a clocked module: what its firmware may log touches memory, the Keeper and the free values, memory by one record of the ring
at most, and nothing of them while no firmware runs. -/
theorem tick_clocked {s : State} (h : s.clocked = true) :
    ∃ m k f, tick s = { clockBeat s with mem := m, keeper := k, free := f } ∧
      k.mode = s.keeper.mode ∧ k.powerState = s.keeper.powerState ∧ k.journal = s.keeper.journal ∧
      (s.keeper.mode ≠ .running → m = s.mem ∧ k = s.keeper ∧ f = s.free) ∧
      (m = s.mem ∨ ∃ r, (r ∈ s.keeper.logStaging ∨ r.length = 32) ∧
        m = memWrite s.mem (s.keeper.logBase.toNat + s.keeper.logCount % logBytes) r) := by
  by_cases hr : s.keeper.mode = .running
  · have htick : tick s = (clockBeat s).firmwareLogs := by simp [tick, clockBeat, h, hr]
    obtain ⟨m, k, f, hlog, hmode, hpower, hjournal, hmem⟩ := State.firmwareLogs_frame (clockBeat s)
    have hkeeper : (clockBeat s).keeper = s.keeper := by rw [clockBeat_frame]
    have hmem' : (clockBeat s).mem = s.mem := by rw [clockBeat_frame]
    rw [hkeeper] at hmode hpower hjournal
    rw [hkeeper, hmem'] at hmem
    refine ⟨m, k, f, htick.trans hlog, hmode, hpower, hjournal, fun hn => absurd hr hn, hmem.imp_right ?_⟩
    rintro ⟨r, hr | ⟨code, kind, rfl⟩, hw⟩
    · exact ⟨r, .inl hr, hw⟩
    · exact ⟨_, .inr (State.freeRecord_length _ code kind), hw⟩
  · have htick : tick s = clockBeat s := by simp [tick, clockBeat, h, hr]
    refine ⟨s.mem, s.keeper, s.free, ?_, rfl, rfl, rfl, fun _ => ⟨rfl, rfl, rfl⟩, .inl rfl⟩
    rw [htick, clockBeat_frame]

/-- A core after a tick counts one busy tick more where it is busy. -/
theorem tget_countBusy {s : State} {p : Nat} {c : Core} (h : tget s.cores p = some c) :
    ∃ d, tget s.countBusy p = some d ∧ d.busy = if c.busyNow = true then c.busy + 1 else c.busy := by
  refine ⟨if c.busyNow then { c with busy := c.busy + 1 } else c, ?_, by split <;> rfl⟩
  rw [State.countBusy, tget_map fun c : Core => if c.busyNow then { c with busy := c.busy + 1 } else c, h]
  rfl

/-- Settles O2: a tick is that of an unclocked module or that of a clocked one, and what a clocked module's firmware logs lies in the ring. -/
theorem anEmptyQueueIsOneTick : Obligations.AnEmptyQueueIsOneTick := by
  refine ⟨fun s hq => ⟨tick s, by simp [step, hq], ?_⟩, fun s r => ⟨stageLog_room s r, stageLog_full s r⟩⟩
  cases hclk : s.clocked with
  | false =>
    rw [tick_unclocked hclk]
    exact ⟨by simp, fun p c hc => ⟨c, hc, by simp⟩, fun _ => ⟨rfl, rfl, rfl⟩, fun _ _ _ _ => rfl, rfl, rfl, rfl, rfl⟩
  | true =>
    obtain ⟨m, k, f, htick, hmode, hpower, hjournal, hidle, hmem⟩ := tick_clocked hclk
    rw [htick, clockBeat_frame]
    refine ⟨by simp, fun p c hc => ?_, hidle, fun hlen hcount a ha => ?_, hmode, hpower, hjournal, rfl⟩
    · simpa using tget_countBusy hc
    · rcases hmem with rfl | ⟨r, hr, rfl⟩
      · rfl
      · exact memGet_ringWrite_outside _ _ _ _ _ (hr.elim (hlen r) id) hcount ha

end Sys2Proof.Proofs
end

section
/-! SUPPORT. Accesses to registers, those at addresses where none lies, and the test access port. -/

namespace Sys2Proof.Proofs

open Sys2Proof.Machine Sys2Proof.Laws

/-! ### Register accesses (R18 to R20) -/

/-- A write that its agent may make is taken by the register that lies there. -/
theorem registerWrite_taken {s t : State} {agent : Agent} {addr : Nat} {v : Long} (hr : s.reaches agent addr = true)
    (hw : s.regWrite agent addr v = some t) : exec (.registerWrite agent addr v) s = .next t := by
  simp [exec, execRegisterWrite, hr, hw]

/-- A write where no register lies is counted and has no other effect (R19). -/
theorem registerWrite_ignored {s : State} {agent : Agent} {addr : Nat} {v : Long} (hr : s.reaches agent addr = true)
    (hw : s.regWrite agent addr v = none) :
    exec (.registerWrite agent addr v) s = .next (s.ignored addr (s.accessUnit addr)) := by
  simp [exec, execRegisterWrite, hr, hw]

/-- A write by an agent that does not reach the address does nothing, but that of a Brood entry is counted (R296). -/
theorem registerWrite_unreached {s : State} {agent : Agent} {addr : Nat} {v : Long} (hr : s.reaches agent addr = false) :
    exec (.registerWrite agent addr v) s =
      .next (if regBrdSlot 0 ≤ addr ∧ addr < regBrdSlot 16384 then s.ignored addr none else s) := by
  simp [exec, execRegisterWrite, hr]

/-- A read where no register lies is counted (R19). -/
theorem reservedAddressRead_counted {s : State} {agent : Agent} {addr : Nat} (hr : s.reaches agent addr = true)
    (hn : s.regRead addr = none) :
    exec (.reservedAddressRead agent addr) s = .next (s.ignored addr (s.accessUnit addr)) := by
  simp [exec, execReservedAddressRead, hr, hn]

theorem reservedAddressRead_unreached {s : State} {agent : Agent} {addr : Nat} (hr : s.reaches agent addr = false) :
    exec (.reservedAddressRead agent addr) s = .next s := by
  simp [exec, execReservedAddressRead, hr]

/-! ### The blocks beyond the cores' windows (Table 1.4) -/

/-- An address past an array's last group names none of them. -/
theorem groupIn_past {off base stride n : Nat} (hs : 0 < stride) (h : base + n * stride ≤ off) : groupIn off base stride n = none := by
  have hge : n ≤ (off - base) / stride := (Nat.le_div_iff_mul_le hs).2 (by omega)
  simp [groupIn, Nat.not_lt.2 hge]

/-- There are at most 512 logical cores. -/
theorem coreCount_le (s : State) : s.coreCount ≤ 512 := by
  unfold State.coreCount State.workingPositions
  split
  · simpa using List.length_filter_le (fun c => !s.isRetired (s.positionCore c)) (List.range 512)
  · exact le_rfl

/-- No core window holds an address past the physical cores'. -/
theorem windowOf_past (s : State) {a : Nat} (h : 0x806200000 ≤ a) : s.windowOf a = none := by
  have hcount := coreCount_le s
  simp only [State.windowOf, groupIn_past (off := a) (base := 0x800000000) (stride := 0x10000) (n := s.coreCount) (by omega) (by omega),
    groupIn_past (off := a) (base := 0x804000000) (stride := 0x10000) (n := 544) (by omega) (by omega)]

/-- The Keeper reaches every address of 48 bits outside memory (R20). -/
theorem keeper_reaches {s : State} {a : Nat} (hm : isMemory a = false) (ha : a < 2 ^ 48) : s.reaches .keeper a = true := by
  simpa [State.reaches, hm] using ha

theorem regRead_necPoll (s : State) : s.regRead 0x811000000 = some s.necPoll.toNat := by
  rw [State.regRead, windowOf_past s (by decide)]
  rfl

theorem regWrite_necPoll (s : State) (agent : Agent) (v : Long) :
    s.regWrite agent 0x811000000 v = some { s with necPoll := cut32 v 0xFFFFFFFF } := by
  rw [State.regWrite, windowOf_past s (by decide)]
  rfl

/-- A write of all bits of a 32-bit register leaves the low 32 bits of what was written. -/
theorem cut32_full_toNat (v : Long) : (cut32 v 0xFFFFFFFF).toNat = v.toNat % 2 ^ 32 := by
  have hall : BitVec.ofNat 32 0xFFFFFFFF = BitVec.allOnes 32 := by decide
  rw [cut32, hall, BitVec.and_allOnes, BitVec.toNat_ofNat, Nat.mod_mod]

/-! ### The test access port (R589, R597, R621) -/

/-- An instruction on a module that is not clocked finds the port in Test-Logic-Reset. -/
theorem jtag_unclocked {s : State} (h : s.clocked = false) (op : JtagOp) : exec (.jtagInstruction op) s = .next s := by
  simp [exec, execJtagInstruction, h]

/-- An instruction on a clocked module is selected as it acts, and then acts. -/
theorem jtag_clocked {s : State} (h : s.clocked = true) (op : JtagOp) :
    exec (.jtagInstruction op) s = .next (State.jtagRun
      { s with pins := { s.pins with jtag := s.jtagActs op, jtagOut := jtagValue op (s.jtagActs op) } } (s.jtagActs op)) := by
  simp [exec, execJtagInstruction, h]

/-- Below D2 debug accesses act as BYPASS. -/
theorem jtagActs_debug_refused {s : State} (h : s.propolis.level ≠ 2) (a : Nat) (v : Long) :
    s.jtagActs (.read a) = .bypass ∧ s.jtagActs (.write a v) = .bypass := by
  simp [State.jtagActs, h]

/-- At D2 debug accesses act. -/
theorem jtagActs_debug {s : State} (h : s.propolis.level = 2) (a : Nat) (v : Long) :
    s.jtagActs (.read a) = .read a ∧ s.jtagActs (.write a v) = .write a v := by
  simp [State.jtagActs, h]

/-- A debug read of device memory outside P2 puts its eight bytes on TDO. -/
theorem jtagRun_read_memory {s : State} {a : Nat} (hm : isMemory a = true) (hp : s.keeper.powerState ≠ 2) :
    s.jtagRun (.read a) = { s with pins := { s.pins with
      jtagOut := some (BitVec.ofNat 64 (leNat ((List.range 8).map fun k => s.debugByte (a + k)))) } } := by
  have hread : s.debugRead a = (leNat ((List.range 8).map fun k => s.debugByte (a + k)), s) := by simp [State.debugRead, hm, hp]
  rw [State.jtagRun, hread]

/-- A debug write of device memory outside P2 writes its eight bytes there. -/
theorem jtagRun_write_memory {s : State} {a : Nat} {v : Long} (hm : isMemory a = true) (hp : s.keeper.powerState ≠ 2) :
    s.jtagRun (.write a v) = s.write a (leBytes 8 v.toNat) := by
  simp [State.jtagRun, State.debugWrite, hm, hp]

/-- Settles O45, access by access and, on the test port, instruction by instruction. -/
theorem registerAccessesTakeEffect : Obligations.RegisterAccessesTakeEffect := by
  intro s agent addr v
  refine ⟨fun hr t => registerWrite_taken hr, registerWrite_ignored, reservedAddressRead_counted,
    fun hr => ⟨reservedAddressRead_unreached hr, registerWrite_unreached hr⟩,
    ⟨_, registerWrite_taken (keeper_reaches (by decide) (by decide)) (regWrite_necPoll s .keeper v), ?_, rfl⟩,
    jtag_unclocked, fun hclk => ⟨jtag_clocked hclk .idcode, fun hlevel => ?_, fun hlevel hmem hpower => ?_⟩⟩
  · rw [regRead_necPoll, cut32_full_toNat]
  · obtain ⟨hread, hwrite⟩ := jtagActs_debug_refused hlevel addr v
    rw [jtag_clocked hclk, jtag_clocked hclk, hread, hwrite]
    exact ⟨rfl, rfl⟩
  · obtain ⟨hread, hwrite⟩ := jtagActs_debug hlevel addr v
    rw [jtag_clocked hclk, jtag_clocked hclk, hread, hwrite]
    -- The bytes read do not depend on the pins, where the port's instruction is held.
    exact ⟨congrArg _ (jtagRun_read_memory hmem hpower), _, congrArg _ (jtagRun_write_memory hmem hpower), rfl⟩

end Sys2Proof.Proofs
end

section
/-! SUPPORT. The commands of a generation step, from its build to its boundary, and the end of a share window. -/

namespace Sys2Proof.Proofs

open Sys2Proof.Machine Sys2Proof.Laws

/-! ### The start and the end of a run -/

/-- A built step starts where its cores may and no invalidation of its context is in progress (R139, R221). -/
theorem stepStart_built {s : State} {n : Nat} {t : GenStep} (ht : s.genStep n = some t) (hp : t.phase = .built)
    (hm : s.mayStart (s.creg n).combs = true) (hi : s.invalWaits n = false) :
    exec (.stepStart n) s = .next (((s.startStamp t.stamp).tellAll kmStepStart t.message).startGenRun t).releaseHeld := by
  simp [exec, execStepStart, ht, hp, hm, hi]

/-- The next core step of a learning step starts where its cores may: no pass runs, none has failed, and a redo finds no core suspect
(R139, R221, R515). -/
theorem stepStart_learn {s : State} {n : Nat} {t : LearnStep} {p : Package} (hg : s.genStep n = none) (ht : s.learnStep n = some t)
    (hm : s.mayStart (s.creg n).combs = true) (hi : s.invalWaits n = false) (hp : s.learnPackage n t.plan.package = some p)
    (hr : t.running = false) (hs : t.status = 0) (hf : t.faulted = false) (hredo : t.redoing = true → s.guard.suspects = [])
    (hidle : s.combsIdle (s.creg n).combs = true) : exec (.stepStart n) s = .next (s.startLearn t p) := by
  have hwait : (t.redoing && !s.guard.suspects.isEmpty) = false := by
    cases h : t.redoing with
    | false => rfl
    | true => rw [hredo h]; rfl
  simp [exec, execStepStart, hg, ht, hm, hi, hp, hr, hs, hf, hwait, hidle]

/-- The ended cores of a generation step hand over their flags and faults: on the queen to its step, on a member in its report too. -/
theorem stepCoresDone_gen {s : State} {n : Nat} {t : GenStep} (ht : s.genStep n = some t) (hp : t.phase = .running)
    (he : s.runEnded (s.maskCores t.mask) = true) :
    let r := s.gather (s.maskCores t.mask)
    let u := s.setStep { t with
      phase := .coresDone, flags := r.flags, faultBits := r.bits, veuFaultBits := r.veuBits, watches := r.watches
      faultAt := if t.faultAt = 0 then r.at' else t.faultAt }
    let v := if (s.endReport t r).suspect = true then (s.maskCores t.mask).foldl State.suspect u else u
    exec (.stepCoresDone n) s = .next (if s.isQueen = true then u
      else (if r.faulted = true then v.clearCores (s.maskCores t.mask) else v).tell s.queenPos kmStepEnd
        (leBytes 4 t.stamp.toNat ++ endBytes (s.endReport t r))) := by
  simp [exec, execStepCoresDone, ht, hp, he]

/-- The ended cores of a learning step's pass hand over their results. -/
theorem stepCoresDone_learn {s : State} {n : Nat} {t : LearnStep} (hg : s.genStep n = none) (ht : s.learnStep n = some t)
    (hr : t.running = true) (he : s.runEnded (s.maskCores (s.creg n).combs) = true) :
    exec (.stepCoresDone n) s = .next (s.learnDone t (s.gather (s.maskCores (s.creg n).combs))) := by
  simp [exec, execStepCoresDone, hg, ht, hr, he]

/-! ### The decision, the commit and the boundary -/

/-- The queen decides a run once every member has reported and its rows are sampled, or it is bad (R507, R508). -/
theorem generationGuardDecision_decides {s : State} {n : Nat} {t : GenStep} (ht : s.genStep n = some t) (hp : t.phase = .coresDone)
    (hq : s.isQueen = true) (hall : t.ends.length + 1 = s.groupSize)
    (hready : s.allSampled t = true ∨ (s.gather (s.maskCores t.mask)).faulted = true ∨ (t.ends.any fun e => e.2.faulted) = true) :
    exec (.generationGuardDecision n) s = .next (s.decideRun t (s.gather (s.maskCores t.mask))) := by
  have hgo : ((s.gather (s.maskCores t.mask)).faulted || (t.ends.any fun e => e.2.faulted) || s.allSampled t) = true := by
    rcases hready with h | h | h <;> rw [h] <;> simp
  simp [exec, execGenerationGuardDecision, ht, hp, hq, hall, hgo]

/-- A decided step commits its items in order, then closes the slots that a memory error ends (R276, R517). -/
theorem stepCommit_decided {s : State} {n : Nat} {t : GenStep} (ht : s.genStep n = some t) (hp : t.phase = .decided) :
    exec (.stepCommit n) s = .next (State.setStep
      (t.ending.foldl (fun u e => u.closeSlot e.1 e.2) (s.commitItems t 0 t.items)) { t with phase := .committed }) := by
  simp [exec, execStepCommit, ht, hp]

/-- The queen's committed or failed step leaves at its boundary. -/
theorem stepBoundary_queen {s : State} {n : Nat} {t : GenStep} (ht : s.genStep n = some t)
    (hp : t.phase = .committed ∨ t.phase = .failed) : exec (.stepBoundary n) s = .next (s.queenBoundary t) := by
  rcases hp with hp | hp <;> simp [exec, execStepBoundary, ht, hp]

/-- A member's step leaves once its cores are done (R439). -/
theorem stepBoundary_member {s : State} {n : Nat} {t : GenStep} (ht : s.genStep n = some t) (hp : t.phase = .coresDone)
    (hq : s.isQueen = false) : exec (.stepBoundary n) s = .next ((s.dropStep t).afterStep n) := by
  simp [exec, execStepBoundary, ht, hp, hq]

/-! ### The builder, a sampled row and the share window -/

/-- The builder makes a step of a list that is not empty for the context and the key it chooses (R265 to R272). -/
theorem buildWorkList_makes {s : State} {mask : Word} {c : Nat} {due : List Nat} {x : Ctx} {key : Nat × Nat} {l : Loaded}
    (hb : s.mayBuild = true) (hi : s.combsIdle mask = true) (hc : s.chooseContext mask = some (c, due)) (hx : s.ctx c = some x)
    (hk : s.chooseKey x due = some key) (hl : tget x.packages key.1 = some l)
    (hne : (s.buildList c l.package key due).items ≠ []) :
    exec (.buildWorkList mask) s = .next (s.makeStep c x key mask due (s.buildList c l.package key due)) := by
  simp [exec, execBuildWorkList, State.buildTries, State.buildFor, hb, hi, hc, hx, hk, hl, hne]

/-- With no context to choose the builder builds nothing. -/
theorem buildWorkList_rests {s : State} {mask : Word} (hb : s.mayBuild = true) (hi : s.combsIdle mask = true)
    (hc : s.chooseContext mask = none) : exec (.buildWorkList mask) s = .next s := by
  simp [exec, execBuildWorkList, State.buildTries, State.buildFor, hb, hi, hc]

/-- A sampler's turn at a row of an item of a running step: the row is taken if it is still to take (R278, R279). -/
theorem sampleRow_eq {s : State} {k slot row : Nat} {t : GenStep} {w : WorkItem} {p : Package}
    (ht : s.steps.find? (fun t => (t.phase == .running || t.phase == .coresDone) && t.items.any fun w => w.slot == slot) = some t)
    (hw : t.items.find? (fun w => w.slot == slot) = some w) (hp : s.stepPackage t = some p) (hq : s.isQueen = true)
    (hk : s.samplerServes k t = true) (hr : s.rowSampled w row = true) :
    exec (.sampleRow k slot row) s =
      .next (if ∃ x ∈ t.samples, x.slot = slot ∧ x.row = row then s else s.takeRow t p w row) := by
  simp only [exec, execSampleRow, ht, hw, hp, hq, hk, hr]
  by_cases h : ∃ x ∈ t.samples, x.slot = slot ∧ x.row = row <;> simp [h]

/-- A context's registers once a share window has ended: its usage is that of the window before, and it starts again from 0 (R266). -/
def rolledRegs (s : State) (r : CtxRegs) : CtxRegs :=
  { r with usagePrev := if s.shareWindow + 1 = s.now / 1000000 then r.usage else 0, usage := 0 }

theorem rollShare_ctxRegs {s : State} (h : s.shareWindow < s.now / 1000000) :
    s.rollShare.ctxRegs = s.ctxRegs.map fun e => (e.1, rolledRegs s e.2) := by
  simp [State.rollShare, h, rolledRegs]

theorem creg_rollShare {s : State} (h : s.shareWindow < s.now / 1000000) {n : Nat} {r : CtxRegs} (hr : tget s.ctxRegs n = some r) :
    s.rollShare.creg n = rolledRegs s r := by
  simp [State.creg, tgetD, rollShare_ctxRegs h, tget_map, hr]

theorem rollShare_shareWindow {s : State} (h : s.shareWindow < s.now / 1000000) : s.rollShare.shareWindow = s.now / 1000000 := by
  simp [State.rollShare, h]

/-- Within its share window nothing rolls (R38). -/
theorem rollShare_within {s : State} (h : s.now / 1000000 ≤ s.shareWindow) : s.rollShare = s := by
  simp [State.rollShare, Nat.not_lt.2 h]

/-- Settles O48, command by command. -/
theorem generationStepsRun : Obligations.GenerationStepsRun := by
  refine ⟨fun s n t ht => ⟨stepStart_built ht, stepCoresDone_gen ht, generationGuardDecision_decides ht, stepCommit_decided ht,
      stepBoundary_queen ht, stepBoundary_member ht⟩,
    fun s n t p hg ht => ⟨stepStart_learn hg ht, stepCoresDone_learn hg ht⟩,
    fun s => ⟨fun mask c due x key l => buildWorkList_makes, fun mask => buildWorkList_rests,
      fun k slot row t w p ht hw hp hq hk hr => ?_,
      fun h => ⟨s.rollShare, rfl, rollShare_shareWindow h, fun n r hr => ?_, rollShare_frame s⟩,
      fun h => congrArg Host.Outcome.next (rollShare_within h)⟩⟩
  · rw [sampleRow_eq ht hw hp hq hk hr]
    constructor
    · intro hfree
      rw [if_neg]
      rintro ⟨x, hx, hslot, hrow⟩
      exact hfree x hx hslot hrow
    · intro htaken
      rw [if_pos htaken]
  · rw [creg_rollShare h hr]
    exact ⟨rfl, rfl, rfl⟩

end Sys2Proof.Proofs
end

section
/-! SUPPORT. How a memory frame starts, and the copies of XFER. -/

namespace Sys2Proof.Proofs

open Sys2Proof.Machine Sys2Proof.Laws

/-! ### Frames that start -/

/-- A frame at the head of its queue whose reads end well starts as its operation comes out on the state after them. -/
theorem startHead_starts {s u : State} {p e op : Nat} {m : MemOutcome} {q : QFrame} {k : State → QFrame → Except Nat (State × Started)}
    (hq : s.headStarts p e op q) (hr : s.readOutcome p e q m = (u, true)) :
    s.startHead p e op m k = u.startFrame p e q (k u q) := by
  obtain ⟨hhead, hop⟩ := hq
  simp [State.startHead, hhead, hop, hr]

/-- An operation that has moved its data in `t` begins its frame. -/
theorem startFrame_ok (u t : State) (p e : Nat) (q : QFrame) (x : Started) : u.startFrame p e q (.ok (t, x)) = u.begun t p e q x := rfl

/-- An operation that stops raises its fault. -/
theorem startFrame_error (u : State) (p e : Nat) (q : QFrame) (bit : Nat) :
    u.startFrame p e q (.error bit) = u.faultHead p e q false bit := rfl

/-! ### COPY and LINK_COPY (R161, R219, R424) -/

/-- A copy whose ranges resolve writes its source's bytes at its destination and carries the spill areas. -/
theorem copyFrame_ok {u : State} {p : Nat} {q : QFrame} {src dst : List (Nat × Nat)}
    (hsrc : u.frameRange p q 16 0 (field q.bytes 32 4) 64 false = .ok src)
    (hdst : u.frameRange p q 24 0 (field q.bytes 32 4) 64 true = .ok dst) :
    u.copyFrame p q = .ok ((u.writePieces dst (src.flatMap fun d => u.read d.1 d.2)).moveSpills src dst (field q.bytes 32 4),
      startedOf q) := by
  simp [State.copyFrame, hsrc, hdst]

/-- A copy that capping does not hold is an XFER frame like any other. -/
theorem copy_free {s : State} {p : Nat} {m : MemOutcome} {q : QFrame} (hq : s.headStarts p 2 1 q)
    (hheld : s.frameHeld p q 24 0 (field q.bytes 32 4) = false) :
    exec (.copy p m) s = .next (s.startHead p 2 1 m fun s q => s.copyFrame p q) := by
  obtain ⟨hhead, -⟩ := hq
  simp [exec, execCopy, hhead, hheld]

/-- A copy that capping holds waits. -/
theorem copy_held {s : State} {p : Nat} {m : MemOutcome} {q : QFrame} (hq : s.headStarts p 2 1 q)
    (hheld : s.frameHeld p q 24 0 (field q.bytes 32 4) = true) : exec (.copy p m) s = .next s := by
  obtain ⟨hhead, hop⟩ := hq
  simp [exec, execCopy, hhead, hop, hheld]

/-- A LINK_COPY over a link that is up and matched starts with the next tag, under which its core awaits a DONE packet. -/
theorem linkCopyFrame_up {u : State} {p : Nat} {q : QFrame} {src : List (Nat × Nat)}
    (hsrc : u.frameRange p q 16 0 (field q.bytes 32 4) 64 false = .ok src)
    (hup : (u.link (bits (field q.bytes 36 1) 1 0)).up = true) (hmatched : (u.link (bits (field q.bytes 36 1) 1 0)).matched = true) :
    ∃ v, u.linkCopyFrame p q = .ok (v, ⟨q, 0, none, some u.cascade.nextTag⟩) ∧
      (v.cascade.transfers.any fun y => y.tag == u.cascade.nextTag && y.core == p) = true := by
  simp only [State.linkCopyFrame, hsrc, hup, hmatched, Bool.and_self, Bool.not_true, Bool.false_eq_true, if_false]
  exact ⟨_, rfl, by simp⟩

/-- A LINK_COPY over a link that is down or unmatched stops on LINK_DOWN. -/
theorem linkCopyFrame_down {u : State} {p : Nat} {q : QFrame} {src : List (Nat × Nat)}
    (hsrc : u.frameRange p q 16 0 (field q.bytes 32 4) 64 false = .ok src)
    (hdown : (u.link (bits (field q.bytes 36 1) 1 0)).up = false ∨ (u.link (bits (field q.bytes 36 1) 1 0)).matched = false) :
    u.linkCopyFrame p q = .error faultLink := by
  have hunready : ((u.link (bits (field q.bytes 36 1) 1 0)).up && (u.link (bits (field q.bytes 36 1) 1 0)).matched) = false := by
    rcases hdown with h | h <;> simp [h]
  simp [State.linkCopyFrame, hsrc, hunready]

/-- A LINK_COPY starts as an XFER frame of opcode 2. -/
theorem linkCopy_starts {s u : State} {p : Nat} {m : MemOutcome} {q : QFrame} (hq : s.headStarts p 2 2 q)
    (hr : s.readOutcome p 2 q m = (u, true)) :
    exec (.linkCopy p m) s = .next (u.startFrame p 2 q (u.linkCopyFrame p q)) :=
  congrArg Host.Outcome.next (startHead_starts hq hr)

/-- Settles O38: COPY free and held, LINK_COPY over a link that carries it and over one that does not. -/
theorem xferFramesCopy : Obligations.XferFramesCopy := by
  intro s u p m q hr
  refine ⟨fun hq hheld src dst hsrc hdst => ?_, copy_held, fun hq src hsrc => ⟨fun hup hmatched => ?_, fun hdown => ?_⟩⟩
  · rw [copy_free hq hheld, startHead_starts hq hr, copyFrame_ok hsrc hdst, startFrame_ok]
  · obtain ⟨v, hv, hawaits⟩ := linkCopyFrame_up hsrc hup hmatched
    refine ⟨_, v, ⟨q, 0, none, some u.cascade.nextTag⟩, linkCopy_starts hq hr, ?_, rfl, hawaits⟩
    rw [hv, startFrame_ok]
  · rw [linkCopy_starts hq hr, linkCopyFrame_down hsrc hdown, startFrame_error]

end Sys2Proof.Proofs
end

section
/-! SUPPORT. Device pieces of a frame's range, and a STORE TILE that changes the translation of its own spill area. -/

namespace Sys2Proof.Proofs

open Sys2Proof.Machine Sys2Proof.Laws

/-! ### Reads and ranges -/

/-- A cell that is not listed reads 0. -/
theorem memGet_unlisted {m : List Host.Cell} {a : Nat} (h : ∀ c ∈ m, c.1 ≠ a) : memGet m a = 0 := by
  induction m with
  | nil => rfl
  | cons c rest ih =>
    obtain ⟨j, v⟩ := c
    have hj : j ≠ a := h (j, v) (by simp)
    have hrest := ih fun c hc => h c (by simp [hc])
    simpa [memGet, tgetD, tget, hj] using hrest

/-- A range that holds no listed cell reads as zeros. -/
theorem memRead_unlisted {m : List Host.Cell} {a n : Nat} (h : ∀ c ∈ m, c.1 < a ∨ a + n ≤ c.1) : memRead m a n = zeros n := by
  induction n generalizing a with
  | zero => rfl
  | succ n ih =>
    have hhead : memGet m a = 0 := memGet_unlisted fun c hc => by have := h c hc; omega
    have htail : memRead m (a + 1) n = zeros n := ih fun c hc => by have := h c hc; omega
    rw [memRead, hhead, htail]
    rfl

/-- A piece of a range stays in the 64 KiB granule of its first byte. -/
theorem pieces_in_granule {a n fuel : Nat} {x : Nat × Nat} (h : x ∈ pieces a n fuel) : x.2 ≤ 0x10000 - x.1 % 0x10000 := by
  induction fuel generalizing a n with
  | zero => simp [pieces] at h
  | succ fuel ih =>
    by_cases hn : n = 0
    · simp [pieces, hn] at h
    · rw [pieces, if_neg hn] at h
      rcases List.mem_cons.1 h with rfl | h
      · exact Nat.min_le_right _ _
      · exact ih h

/-- The pieces of a list resolve to device pieces of their lengths, each at its own device address. -/
theorem mem_of_mapM_resolve {s : State} {sp : Space} {write : Bool} {l ds : List (Nat × Nat)}
    (h : (l.mapM fun x => (s.resolve sp x.1 write).map fun d => (d, x.2)) = some ds) {d : Nat × Nat} (hd : d ∈ ds) :
    ∃ x ∈ l, s.resolve sp x.1 write = some d.1 ∧ x.2 = d.2 := by
  induction l generalizing ds with
  | nil =>
    obtain rfl : ds = [] := by simpa using h.symm
    simp at hd
  | cons x rest ih =>
    simp only [List.mapM_cons, Option.bind_eq_bind, Option.bind_eq_some_iff, Option.map_eq_some_iff, Option.pure_def,
      Option.some.injEq] at h
    obtain ⟨_, ⟨e, he, rfl⟩, es, hes, rfl⟩ := h
    rcases List.mem_cons.1 hd with rfl | hd
    · exact ⟨x, by simp, he, rfl⟩
    · obtain ⟨y, hy, hres, hlen⟩ := ih hes hd
      exact ⟨y, by simp [hy], hres, hlen⟩

/-- A device piece of a frame's range is the device place of a piece that does not leave its 64 KiB granule. -/
theorem mem_frameRange {s : State} {p : Nat} {q : QFrame} {o off n align : Nat} {write : Bool} {ds : List (Nat × Nat)}
    (h : s.frameRange p q o off n align write = .ok ds) {d : Nat × Nat} (hd : d ∈ ds) :
    ∃ a, s.resolve ((s.core p).address q o).1 a write = some d.1 ∧ d.2 ≤ 0x10000 - a % 0x10000 := by
  unfold State.frameRange at h
  dsimp only at h
  split at h
  · cases h
  split at h
  next hres =>
    cases h
    obtain ⟨x, hx, hxd, hlen⟩ := mem_of_mapM_resolve hres hd
    exact ⟨x.1, hxd, hlen ▸ pieces_in_granule hx⟩
  next => cases h

/-- A translation is that of a valid entry of one of the two ranges (R215, R216). -/
theorem xlate_eq_some {s : State} {n a d : Nat} {write : Bool} (h : s.xlate n a write = some d) :
    (inSram a || inLp a) = true ∧ (s.xent n a).valid = true ∧ (s.xent n a).device a = d := by
  unfold State.xlate at h
  dsimp only at h
  split at h
  next hrange =>
    split at h
    next hallowed =>
      simp only [Bool.and_eq_true] at hallowed
      obtain ⟨hvalid, -⟩ := hallowed
      exact ⟨hrange, hvalid, by simpa using h⟩
    next => cases h
  next => cases h

/-! ### A STORE TILE whose spill count lies in its own context's translation table -/

/-- STORE TILE of one FP8 element with RETRY set: its tile at context granule 1 of LPDDR5X, its spill area at offset 0x100 of granule 0,
SPILL_CAP 2¹⁸ + 4. -/
def tableFrame : QFrame where
  slot := 1
  bytes := [1, 1] ++ zeros 14 ++ leBytes 8 (lpBase + 0x200000) ++ [32, 4, 1, 0, 0, 0, 0, 0] ++ leBytes 8 (lpBase + 0x100) ++
    leBytes 4 (2 ^ 18 + 4) ++ zeros 20
  idx := []

/-- A core running context 0 whose VEU buffer 32 holds the element 2¹²⁷. -/
def tableCore : Core := { Core.reset with context := 0x80000000, bufs := [(32, ⟨1, [[⟨1, 0x7F000000, 0, 127⟩]]⟩)] }

/-- The LPDDR5X entries of context 0's translation table, at 0x8000200000: context granules 0, 1 and 32 stand at device granules 1, 0
and 3. Device granule 1 holds this table, so the spill area's count is the entry of granule 32, where spill entry 2¹⁸ + 3 lies. -/
def tableCells : List Host.Cell :=
  [(0x8000200000, 1), (0x8000200002, 4), (0x800020000A, 4), (0x8000200100, 3), (0x8000200102, 4)]

/-- A module after reset but for that core and that table. -/
def tableState : State :=
  { State.reset with
    mem := tableCells, cores := [(0, tableCore)], memCtl := { State.reset.memCtl with ptBase := 0x8000100000 } }

/-- The second byte of spill entry 2¹⁸ + 3 where the count, once incremented, places it: device granule 4. -/
def strayByte : Nat := 0x8000800501

/-- The frame is sound: dispatch in a context's own table takes it (R126). -/
theorem tableFrame_sound : frameBad false tableFrame.bytes = false := by decide +kernel

/-- The tile resolves to one device piece at the beginning of LPDDR5X. -/
theorem tableFrame_tile :
    tableState.frameRange 0 tableFrame 16 0 (tileBytes (field tableFrame.bytes 25 1)) 128 true = .ok [(lpBase, 16512)] := by
  decide +kernel

theorem tableFrame_spill : ((tableState.core 0).address tableFrame 32).1 = .ctx 0 := by decide +kernel

/-- The store ends well, and has written the upper byte of the entry's first BF16 element, 2¹²⁷, at the stray byte. -/
theorem tableFrame_writes_stray :
    (tableState.storeTile 0 tableFrame).toOption.map (fun r => memGet r.1.mem strayByte) = some 0x7F := by
  decide +kernel

/-- Entry `i` of the table for LPDDR5X names a device granule up to 3 where it is valid. -/
theorem tableState_entry (i : Nat) :
    let v := leNat (tableState.read (0x8000200000 + 8 * i) 8)
    bitAt v 18 = true → bits v 17 0 ≤ 3 := by
  by_cases hi : i = 0 ∨ i = 1 ∨ i = 32
  · rcases hi with rfl | rfl | rfl <;> decide +kernel
  · have hread : tableState.read (0x8000200000 + 8 * i) 8 = zeros 8 := memRead_unlisted (m := tableCells) (by
      simp [tableCells]
      omega)
    rw [hread]
    decide

/-- Context 0's SRAM range has no valid entry. -/
theorem tableState_sram {a : Nat} (ha : a < sramEnd) : (tableState.xent 0 a).valid = false := by
  have hsram : inSram a = true := decide_eq_true ha
  have hend : sramEnd = 0x400000000 := rfl
  have hread : tableState.read (tableState.entryAddr 0 a) 4 = zeros 4 := by
    have haddr : tableState.entryAddr 0 a = 0x8000100000 + 4 * (a / 0x10000) := by
      simp [State.entryAddr, hsram, tableState]
    rw [haddr]
    exact memRead_unlisted (m := tableCells) (by simp [tableCells]; omega)
  simp only [State.xent, hsram, if_true, hread]
  decide

/-- A valid entry outside SRAM names a device granule up to 3. -/
theorem tableState_granule {a : Nat} (hs : inSram a = false) (hv : (tableState.xent 0 a).valid = true) :
    (tableState.xent 0 a).granule ≤ 3 := by
  have haddr : tableState.entryAddr 0 a = 0x8000200000 + 8 * ((a - lpBase) / 0x200000) := by
    simp [State.entryAddr, hs, tableState]
  simp only [State.xent, hs, haddr] at hv ⊢
  exact tableState_entry _ hv

/-- A context address translates into device granules 0 to 3 of LPDDR5X. -/
theorem tableState_xlate {a d : Nat} (h : tableState.xlate 0 a true = some d) :
    d + (0x10000 - a % 0x10000) ≤ lpBase + 4 * 0x200000 := by
  obtain ⟨hrange, hvalid, rfl⟩ := xlate_eq_some h
  have hsram : inSram a = false := by
    cases hs : inSram a with
    | false => rfl
    | true => simp [tableState_sram (of_decide_eq_true hs)] at hvalid
  have hlp : lpBase ≤ a := by
    have hin : inLp a = true := by simpa [hsram] using hrange
    simp only [inLp, Bool.and_eq_true, decide_eq_true_eq] at hin
    exact hin.1
  have hgranule := tableState_granule hsram hvalid
  have hbase : lpBase = 0x8000000000 := rfl
  simp only [Xent.device, hsram, Bool.false_eq_true, if_false, hbase] at hlp ⊢
  omega

/-- No device piece that the spill area has before the store holds the stray byte. -/
theorem strayByte_outside {off n : Nat} {ds : List (Nat × Nat)} (h : tableState.frameRange 0 tableFrame 32 off n 8 true = .ok ds) :
    (ds.all fun d => decide (strayByte < d.1) || decide (d.1 + d.2 ≤ strayByte)) = true := by
  refine List.all_eq_true.2 fun d hd => ?_
  obtain ⟨a, hres, hlen⟩ := mem_frameRange h hd
  rw [tableFrame_spill] at hres
  have hend : d.1 + (0x10000 - a % 0x10000) ≤ strayByte := (tableState_xlate hres).trans (by decide)
  have hin : d.1 + d.2 ≤ strayByte := by omega
  simp [hin]

/-- Refutes O37: where the tile's context maps its spill area over its own translation table, the increment of the spill count changes the
entry that translates the spill entry, which is then written at device granule 4, to which nothing of the area translated before. -/
theorem not_storeTileWritesItsTileOnly : ¬ Obligations.StoreTileWritesItsTileOnly := by
  intro h
  obtain ⟨⟨t, x⟩, hrun, hstray⟩ : ∃ r, tableState.storeTile 0 tableFrame = .ok r ∧ memGet r.1.mem strayByte = 0x7F := by
    have hwrites := tableFrame_writes_stray
    cases hr : tableState.storeTile 0 tableFrame with
    | error _ => simp [hr, Except.toOption] at hwrites
    | ok r => exact ⟨r, rfl, by simpa [hr, Except.toOption] using hwrites⟩
  obtain ⟨-, hmem⟩ := h tableState t 0 tableFrame x _ tableFrame_tile (by decide) (by decide) (by decide) hrun
  have hkept : memGet t.mem strayByte = memGet tableState.mem strayByte :=
    hmem strayByte (by decide) fun _ off n ds _ hds => strayByte_outside hds
  have hbefore : memGet tableState.mem strayByte = 0 := by decide
  rw [hstray, hbefore] at hkept
  exact absurd hkept (by decide)

end Sys2Proof.Proofs
end

section
/-! SUPPORT. What a fault does to its core and what it leaves alone, and what settling changes (R166, R170). -/

namespace Sys2Proof.Proofs

open Sys2Proof.Machine Sys2Proof.Laws

/-! ### What a fault changes of the module -/

@[simp] theorem report_core (s : State) (code value unit j : Nat) : (s.report code value unit).core j = s.core j := rfl

@[simp] theorem raiseFault_core_self (s : State) (p : Nat) (veu : Bool) (bit : Nat) (at' : Word) :
    (s.raiseFault p veu bit at').core p = (s.core p).withFault veu bit at' := by
  simp [State.raiseFault]

theorem raiseFault_core_other (s : State) {p j : Nat} (veu : Bool) (bit : Nat) (at' : Word) (h : j ≠ p) :
    (s.raiseFault p veu bit at').core j = s.core j := by
  simp [State.raiseFault, setCore_core_other _ _ _ _ h]

@[simp] theorem raiseFault_mem (s : State) (p : Nat) (veu : Bool) (bit : Nat) (at' : Word) :
    (s.raiseFault p veu bit at').mem = s.mem := rfl

/-! ### A core that faults, and a core that settles -/

/-- The bit of a fault stands in the fault register of the part that raised it. -/
theorem withFault_bit (c : Core) (veu : Bool) {bit : Nat} (at' : Word) (h : bit < 32) :
    bitAt (if veu = true then (c.withFault veu bit at').veuFault else (c.withFault veu bit at').fault).toNat bit = true := by
  cases veu <;> exact bitAt_setBit32_self _ h

/-- A core that is not RETIRED is FAULTED at once where no started frame is left, and keeps its state until then elsewhere. -/
theorem withFault_mode {c : Core} (veu : Bool) (bit : Nat) (at' : Word) (h : c.mode ≠ .retired) :
    (c.withFault veu bit at').mode = if c.quiet = true then .faulted else c.mode := by
  simp [Core.withFault, h]

/-- Settling changes the core's state only. -/
theorem settle_frame (c : Core) : c.settle = { c with mode := c.settle.mode } := by
  unfold Core.settle
  split
  · rfl
  · split
    · split
      · rfl
      · split <;> rfl
    · rfl
    · rfl

/-- A core that has faulted is FAULTED once its last started frame has completed. -/
theorem settle_mode_stopping {c : Core} (hq : c.quiet = true) (hs : c.stopping = true)
    (hm : c.mode = .running ∨ c.mode = .aborting ∨ c.mode = .faulted) : c.settle.mode = .faulted := by
  rcases hm with h | h | h <;> simp [Core.settle, hq, hs, h]

/-- Settles O41: the fault's own core by `withFault` and `settle`, the others and memory by the frame of `raiseFault`. -/
theorem faultsStopTheCore : Obligations.FaultsStopTheCore := by
  intro s p bit veu at' hbit
  simp only [raiseFault_core_self]
  refine ⟨withFault_bit _ veu at' hbit, rfl, by simp [Core.active, Core.withFault], rfl, fun hret hquiet => ?_,
    fun hmode st hquiet => ?_, fun j hj => raiseFault_core_other s veu bit at' hj, raiseFault_mem s p veu bit at'⟩
  · rw [withFault_mode veu bit at' hret, if_pos hquiet]
  · have hret : (s.core p).mode ≠ .retired := by rcases hmode with h | h <;> simp [h]
    have hnow := withFault_mode veu bit at' hret
    refine settle_mode_stopping hquiet rfl ?_
    by_cases hq : (s.core p).quiet = true
    · exact .inr (.inr (hnow.trans (if_pos hq)))
    · rw [if_neg hq] at hnow
      exact hmode.elim (fun h => .inl (hnow.trans h)) fun h => .inr (.inl (hnow.trans h))

end Sys2Proof.Proofs
end

section
/-! SUPPORT. Start, abort, fills and tokens of a core (R120, R168, R169, R171, R210, R212). -/

namespace Sys2Proof.Proofs

open Sys2Proof.Machine Sys2Proof.Laws

/-! ### Writes out of place -/

theorem coreStart_out {s : State} {w : CoreWin} (hi : (s.core (s.windowCore w)).mode ≠ .idle)
    (hd : (s.core (s.windowCore w)).mode ≠ .done) : exec (.coreStart w) s = .next (s.ignored (coreRegAddr w 0x10) (windowUnit w)) := by
  simp [exec, execCoreStart, hi, hd]

theorem coreTokenWrite_out {s : State} {w : CoreWin} (n : Nat) (v : Word) (hi : (s.core (s.windowCore w)).mode ≠ .idle)
    (hd : (s.core (s.windowCore w)).mode ≠ .done) :
    exec (.coreTokenWrite w n v) s = .next (s.ignored (coreRegAddr w (0x100 + 4 * n)) (windowUnit w)) := by
  simp [exec, execCoreTokenWrite, hi, hd]

/-- A core may fill its frame store as its registers say (R168, R171). -/
def mayFillSlots (c : Core) : Prop :=
  c.mode ≠ .running ∧ c.fillBusy = false ∧ 0 < bits c.fsLen.toNat 12 0 ∧ bits c.fsDst.toNat 11 0 + bits c.fsLen.toNat 12 0 ≤ 4096

/-- A core may fill its vector engine's store as its registers say (R210, R212). -/
def mayFillUnits (c : Core) : Prop :=
  (c.mode = .idle ∨ c.mode = .done) ∧ 0 < bits c.veuFillLen.toNat 8 0 ∧
    bits c.veuFillDst.toNat 8 0 + bits c.veuFillLen.toNat 8 0 ≤ 416

/-- A fill of the frame store that is not permitted is counted. -/
theorem frameStoreFill_out {s : State} {w : CoreWin} (m : MemOutcome) (h : ¬ mayFillSlots (s.core (s.windowCore w))) :
    exec (.frameStoreFill ⟨w, m⟩) s = .next (s.ignored (coreRegAddr w 0x10) (windowUnit w)) := by
  refine congrArg Host.Outcome.next (if_pos ?_)
  by_contra hno
  simp only [not_or, Bool.not_eq_true] at hno
  obtain ⟨hrun, hbusy, hn, hend⟩ := hno
  exact h ⟨hrun, hbusy, Nat.pos_of_ne_zero hn, Nat.not_lt.1 hend⟩

/-- A fill of the vector engine's store that is not permitted is counted. -/
theorem veuFill_out {s : State} {w : CoreWin} (m : MemOutcome) (h : ¬ mayFillUnits (s.core (s.windowCore w))) :
    exec (.veuFill ⟨w, m⟩) s = .next (s.ignored (coreRegAddr w 0x8040) (windowUnit w)) := by
  refine congrArg Host.Outcome.next (if_neg fun hyes => h ?_)
  obtain ⟨hmode, hn, hend⟩ := hyes
  exact ⟨hmode, Nat.pos_of_ne_zero hn, hend⟩

/-- Settles O30, write by write. -/
theorem writesOutOfPlaceAreOnlyCounted : Obligations.WritesOutOfPlaceAreOnlyCounted := by
  intro s w
  refine ⟨fun hi hd => ⟨_, _, coreStart_out hi hd⟩, fun hbusy m => ⟨_, _, frameStoreFill_out m ?_⟩,
    fun hi hd m => ⟨_, _, veuFill_out m ?_⟩, fun n v hi hd => ⟨_, _, coreTokenWrite_out n v hi hd⟩,
    fun hrange m => ⟨_, _, frameStoreFill_out m ?_⟩, fun hrange m => ⟨_, _, veuFill_out m ?_⟩,
    fun hrun m => ⟨_, frameStoreFill_out m ?_, rfl⟩⟩
  · rintro ⟨hrun, hfree, -, -⟩
    rcases hbusy with h | h
    · exact hrun h
    · simp [h] at hfree
  · rintro ⟨h | h, -, -⟩
    · exact hi h
    · exact hd h
  · rintro ⟨-, -, hn, hend⟩
    omega
  · rintro ⟨-, hn, hend⟩
    omega
  · rintro ⟨hnot, -, -, -⟩
    exact hnot hrun

/-! ### Start, abort and tokens -/

/-- A start whose table, context and vector-engine slots pass their checks is the fresh core. -/
theorem coreStart_sound (s : State) (w : CoreWin) :
    let p := s.windowCore w
    let c := s.core p
    let d := c.fresh (s.combScalarsOf (combOf p)) s.now
    (c.mode = .idle ∨ c.mode = .done) → d.tableOk = true → c.contextOk = true → d.veuOk = true →
      exec (.coreStart w) s = .next (s.setCore p d) := by
  intro p c d hm ht hc hv
  -- The header and CORE_CONTEXT are those of the core before its start.
  have hc' : d.contextOk = true := hc
  have hstart : s.startCore p = s.setCore p d := by simp [State.startCore, p, c, d, ht, hc', hv]
  exact congrArg Host.Outcome.next ((if_pos hm).trans hstart)

/-- No counter of a core without tokens holds a unit. -/
theorem token_of_none {c : Core} (h : c.tokens = []) (k : Nat) : c.token k = 0 := by
  simp [Core.token, tgetD, h]

/-- A counter just written holds the low 16 bits of what was written. -/
theorem token_written (c : Core) (n v : Nat) :
    ({ c with tokens := tset c.tokens n (BitVec.ofNat 16 v) } : Core).token n = v % 2 ^ 16 := by
  simp [Core.token]

/-- A core that is not RETIRED has nothing queued after ABORT, and is IDLE unless started frames run. -/
theorem abort_stops {c : Core} (h : c.mode ≠ .retired) :
    c.abort.queues = [] ∧ c.abort.dispatching = false ∧ c.abort.mode = if c.quiet = true then .idle else .aborting := by
  rw [Core.abort, if_neg h]
  exact ⟨rfl, rfl, rfl⟩

theorem coreTokenWrite_resting {s : State} {w : CoreWin} (n : Nat) (v : Word)
    (hm : (s.core (s.windowCore w)).mode = .idle ∨ (s.core (s.windowCore w)).mode = .done) :
    exec (.coreTokenWrite w n v) s = .next (s.setCore (s.windowCore w) { s.core (s.windowCore w) with
      tokens := tset (s.core (s.windowCore w)).tokens n (BitVec.ofNat 16 v.toNat) }) := by
  simp [exec, execCoreTokenWrite, hm]

/-- Settles O29: the started, the aborted and the written core is the one set, and no other core changes. -/
theorem coresStartAndAbort : Obligations.CoresStartAndAbort := by
  intro s w
  refine ⟨fun hm ht hc hv => ⟨_, coreStart_sound s w hm ht hc hv, rfl, ?_⟩, ⟨_, rfl, rfl, fun hret => ?_⟩,
    fun hm n v => ⟨_, coreTokenWrite_resting n v hm, rfl, ?_⟩⟩
  · rw [setCore_core_self]
    exact ⟨rfl, token_of_none rfl, rfl, rfl, fun j hj => setCore_core_other _ _ _ _ hj⟩
  · rw [setCore_core_self]
    exact abort_stops hret
  · rw [setCore_core_self]
    exact token_written _ n v.toNat

/-! ### Fills that copy -/

/-- A permitted fill of the frame store. -/
theorem frameStoreFill_copies {s : State} {w : CoreWin} (m : MemOutcome) (h : mayFillSlots (s.core (s.windowCore w))) :
    let c := s.core (s.windowCore w)
    let n := bits c.fsLen.toNat 12 0
    let k := bits c.fsDst.toNat 11 0
    exec (.frameStoreFill ⟨w, m⟩) s = .next ((s.setCore (s.windowCore w) { c with
      fillBusy := true, slotCtx := c.markSlots k n
      frameStore := s.fillUnits (bits c.fsSrc.toNat 47 0) k n c.frameStore }).fillRead (bits c.fsSrc.toNat 47 0) n m) := by
  obtain ⟨hrun, hfree, hn, hend⟩ := h
  refine congrArg Host.Outcome.next (if_neg ?_)
  simp only [hfree, hrun, false_or, Bool.false_eq_true]
  omega

/-- A permitted fill of the vector engine's store. -/
theorem veuFill_copies {s : State} {w : CoreWin} (m : MemOutcome) (h : mayFillUnits (s.core (s.windowCore w))) :
    let c := s.core (s.windowCore w)
    let n := bits c.veuFillLen.toNat 8 0
    let k := bits c.veuFillDst.toNat 8 0
    exec (.veuFill ⟨w, m⟩) s = .next ((s.setCore (s.windowCore w) { c with
      veuFillBusy := true, veuCtx := c.ctx
      veuStore := s.fillUnits (bits c.veuFillSrc.toNat 47 0) k n c.veuStore }).fillRead (bits c.veuFillSrc.toNat 47 0) n m) := by
  obtain ⟨hmode, hn, hend⟩ := h
  exact congrArg Host.Outcome.next (if_pos ⟨hmode, Nat.ne_of_gt hn, hend⟩)

/-- A copy of `n` units from `k` on leaves every other unit as it was. -/
theorem tget_fillUnits_outside (s : State) {src k n i : Nat} {t : Table (List Byte)} (h : i < k ∨ k + n ≤ i) :
    tget (s.fillUnits src k n t) i = tget t i := by
  induction n generalizing src k t with
  | zero => rfl
  | succ n ih => rw [State.fillUnits, ih (by omega), tget_tset_other _ _ (by omega)]

/-- The unit at `k + i` after a copy is the one read `64 * i` bytes on. -/
theorem tget_fillUnits_inside (s : State) {src k n i : Nat} {t : Table (List Byte)} (h : i < n) :
    tget (s.fillUnits src k n t) (k + i) = some (s.fillUnit (src + 64 * i)) := by
  induction n generalizing src k i t with
  | zero => omega
  | succ n ih =>
    rw [State.fillUnits]
    cases i with
    | zero => rw [tget_fillUnits_outside _ (by omega)]; exact tget_tset_self _ _ _
    | succ i =>
      have hstep := ih (src := src + 64) (k := k + 1) (t := tset t k (s.fillUnit src)) (Nat.lt_of_succ_lt_succ h)
      rwa [show k + 1 + i = k + (i + 1) by omega, show src + 64 + 64 * i = src + 64 * (i + 1) by omega] at hstep

/-- The reads of a fill that meets no error change no core and no memory. -/
theorem fillRead_clean {s : State} {src n : Nat} (h : s.damagedIn [(src, 64 * n)] = none) :
    (s.fillRead src n .ok).cores = s.cores ∧ (s.fillRead src n .ok).mem = s.mem := by
  have hread : s.keeperRead [(src, 64 * n)] .ok = { s with memCtl := (s.keeperRead [(src, 64 * n)] .ok).memCtl } := by
    simp [State.keeperRead, State.readErrors, h]
  rw [State.fillRead, hread]
  split <;> exact ⟨rfl, rfl⟩

/-- The core after such a fill is the one that the fill has set. -/
theorem fillRead_core {s : State} {p src n : Nat} {c : Core} (h : s.damagedIn [(src, 64 * n)] = none) :
    ((s.setCore p c).fillRead src n .ok).core p = c ∧ ((s.setCore p c).fillRead src n .ok).mem = s.mem := by
  obtain ⟨hcores, hmem⟩ := fillRead_clean (s := s.setCore p c) h
  exact ⟨by rw [State.core, hcores]; exact setCore_core_self s p c, hmem⟩

/-- A unit that holds no damaged word is the memory's, or zeros outside the memory tiers (R19, assumption 142). -/
theorem fillUnit_clean {s : State} {src : Nat} (h : s.damagedIn [(src, 64)] = none) :
    s.fillUnit src = if isMemory src = true then s.read src 64 else zeros 64 := by
  simp [State.fillUnit, h]

/-- Settles O31: the frame store's fill, the vector engine's, what a unit reads, and the ends of both. -/
theorem fillsCopyTheirUnits : Obligations.FillsCopyTheirUnits := by
  intro s w
  refine ⟨fun hrun hfree hn hend => ?_, fun hmode hn hend => ?_, fun src => fillUnit_clean, fun j => ⟨rfl, rfl⟩⟩
  · have hfill := fun m => frameStoreFill_copies m ⟨hrun, hfree, hn, hend⟩
    refine ⟨hfill, fun hclean => ⟨_, hfill .ok, ?_⟩⟩
    obtain ⟨hcore, hmem⟩ := fillRead_core hclean
    rw [hcore]
    exact ⟨rfl, hmem, fun i => tget_fillUnits_inside s, fun i => tget_fillUnits_outside s⟩
  · have hfill := fun m => veuFill_copies m ⟨hmode, hn, hend⟩
    refine ⟨hfill, fun hclean => ⟨_, hfill .ok, ?_⟩⟩
    obtain ⟨hcore, hmem⟩ := fillRead_core hclean
    rw [hcore]
    exact ⟨rfl, hmem, fun i => tget_fillUnits_inside s, fun i => tget_fillUnits_outside s⟩

end Sys2Proof.Proofs
end

section
/-! SUPPORT. What the sequencer does with the frame that it has reached (R124, R127 to R130, R146). -/

namespace Sys2Proof.Proofs

open Sys2Proof.Machine Sys2Proof.Laws

/-- The sequencer of `c`, which is the clocked core `p` and dispatches, has reached the frame `f`. -/
structure Reaches (s : State) (p : Nat) (c : Core) (f : List Byte) : Prop where
  clocked : s.coresClocked = true
  active : c.active = true
  dispatching : c.dispatching = true
  core : s.core p = c
  frame : c.slotBytes c.pc = f

section
variable {s : State} {p : Nat} {c : Core} {f : List Byte}

/-! ### The cases of FRAME_DISPATCH -/

/-- A bad or misplaced frame raises FRAME_BAD. -/
theorem frameDispatch_bad (h : Reaches s p c f) (hbad : c.misplaced f = true ∨ frameBad c.owned f = true) :
    exec (.frameDispatch p) s = .next (s.raiseFault p false faultFrameBad (faultAtWord c.pc (frEngine f) (frTag f))) := by
  obtain ⟨hclk, hact, hdis, rfl, rfl⟩ := h
  simp [exec, execFrameDispatch, hclk, hact, hdis, hbad]

/-- A sound frame of an engine whose queue has room joins its tail with the loop indices. -/
theorem frameDispatch_queued (h : Reaches s p c f) (hplace : c.misplaced f = false) (hgood : frameBad c.owned f = false)
    (he : frEngine f ≠ 6) (hroom : (c.queue (frEngine f)).length < 64) :
    ∃ since, exec (.frameDispatch p) s = .next (s.setCore p { c with
      pc := c.pc + 1, headSince := since
      queues := tset c.queues (frEngine f) (c.queue (frEngine f) ++ [⟨c.pc, f, c.idx⟩]) }) := by
  obtain ⟨hclk, hact, hdis, rfl, rfl⟩ := h
  rw [exec, execFrameDispatch, if_neg (by simp [hclk, hact, hdis]), if_neg (by simp [hplace, hgood]), if_neg he]
  exact ⟨_, congrArg Host.Outcome.next (if_neg (Nat.not_le.2 hroom))⟩

/-- A sound frame of an engine whose queue is full waits. -/
theorem frameDispatch_full (h : Reaches s p c f) (hplace : c.misplaced f = false) (hgood : frameBad c.owned f = false)
    (he : frEngine f ≠ 6) (hfull : 64 ≤ (c.queue (frEngine f)).length) : exec (.frameDispatch p) s = .next s := by
  obtain ⟨-, -, -, rfl, rfl⟩ := h
  simp [exec, execFrameDispatch, hplace, hgood, he, hfull]

/-- A SEQ frame that the sequencer can carry out neither before nor after its units are taken raises FRAME_BAD. -/
theorem frameDispatch_seq_none (h : Reaches s p c f) (he : frEngine f = 6) (hrun : c.runSeq f = none)
    (htaken : (c.takeTokens f).runSeq f = none) :
    exec (.frameDispatch p) s = .next (s.raiseFault p false faultFrameBad (faultAtWord c.pc (frEngine f) (frTag f))) := by
  by_cases hbad : c.misplaced f = true ∨ frameBad c.owned f = true
  · exact frameDispatch_bad h hbad
  · obtain ⟨hclk, hact, hdis, rfl, rfl⟩ := h
    simp [exec, execFrameDispatch, hclk, hact, hdis, hbad, he, hrun, htaken]

/-- A sound SEQ frame whose waits are met runs on the core that has taken its units, and its signals follow (R129, R133). -/
theorem frameDispatch_seq_some {d : Core} (h : Reaches s p c f) (hplace : c.misplaced f = false)
    (hgood : frameBad c.owned f = false) (he : frEngine f = 6) (hw : c.waitsMet f = true)
    (hrun : (c.takeTokens f).runSeq f = some d) :
    ∃ since,
      let t := (s.setCore p { d with headSince := since }).ownSignals p (startedOf ⟨c.pc, f, c.idx⟩) true
      exec (.frameDispatch p) s = .next (t.setCore p (t.core p).settle) := by
  obtain ⟨hclk, hact, hdis, rfl, rfl⟩ := h
  rw [exec, execFrameDispatch, if_neg (by simp [hclk, hact, hdis]), if_neg (by simp [hplace, hgood]), if_pos he,
    if_neg (by simp [hw]), hrun]
  exact ⟨_, rfl⟩

/-! ### SEQ frames (Table 4.6) -/

/-- A LOOP at a level already open is offending. -/
theorem runSeq_loop_open (hop : frOp f = 1) (hopen : ∃ l ∈ c.loops, l.level = field f 16 1) : c.runSeq f = none := by
  obtain ⟨l, hl, hlevel⟩ := hopen
  have hany : (c.loops.any fun l => l.level == field f 16 1) = true := List.any_eq_true.2 ⟨l, hl, by simp [hlevel]⟩
  simp [Core.runSeq, hop, hany]

/-- An ENDLOOP that does not match the innermost open LOOP is offending. -/
theorem runSeq_endloop_unmatched (hop : frOp f = 2) (hlast : ∀ l, c.loops.head? = some l → l.level ≠ field f 16 1) :
    c.runSeq f = none := by
  cases hloops : c.loops with
  | nil => simp [Core.runSeq, hop, hloops]
  | cons l rest =>
    have hlevel : l.level ≠ field f 16 1 := hlast l (by simp [hloops])
    simp [Core.runSeq, hop, hloops, hlevel]

/-- END ends dispatch. -/
theorem runSeq_end (hop : frOp f = 3) : c.runSeq f = some { c with pc := c.pc + 1, dispatching := false } := by
  simp [Core.runSeq, hop]

/-- The last frame of a table that is not END stands out of its place (R128). -/
theorem misplaced_last (hpc : c.pc = c.header + c.frames) (hnot : frEngine f ≠ 6 ∨ frOp f ≠ 3) : c.misplaced f = true := by
  have hindex : c.pc - c.header = c.frames := by omega
  have hend : (frEngine f == 6 && frOp f == 3) = false := by
    rcases hnot with h | h <;> simp [h]
  simp [Core.misplaced, hindex, hend]

/-- A LOAD with TRANSPOSE and FORMAT FP4 is no frame (R146). -/
theorem frameBad_transposed_fp4 (owned : Bool) (he : frEngine f = 0) (hfmt : field f 25 1 = 6)
    (ht : bitAt (field f 26 1) 0 = true) : frameBad owned f = true := by
  have hflags : decide (field f 26 1 ≤ 1) = true → (field f 26 1 == 1) = true := by
    simp only [bitAt, decide_eq_true_eq, beq_iff_eq] at ht ⊢
    omega
  have hops : operandsOk f = false := by
    simp only [operandsOk, he, hfmt]
    cases hle : decide (field f 26 1 ≤ 1) with
    | false => simp
    | true => simp [hflags hle]
  simp [frameBad, hops]

/-! ### Signals of a frame without any -/

/-- A frame without signals leaves the counters as they are (R133). -/
theorem ownSignals_none {x : Started} (complete : Bool) (ha : bitAt (frSignal x.frame.bytes) 7 = false)
    (hb : bitAt (frSignal x.frame.bytes) 15 = false) : s.ownSignals p x complete = s := by
  simp [State.ownSignals, State.applySignal, ha, hb]

end

/-- Settles O32: the offending frame, the queued one, the one that waits for room, and END. -/
theorem dispatchQueuesSoundFrames : Obligations.DispatchQueuesSoundFrames := by
  intro s p c f hclk hact hdis
  have h : Reaches s p c f := ⟨hclk, hact, hdis, rfl, rfl⟩
  refine ⟨frameDispatch_bad h, fun hplace hgood he => ⟨fun hroom => ?_, frameDispatch_full h hplace hgood he⟩,
    fun hplace hgood he hw hop ha hb => ?_⟩
  · obtain ⟨since, hexec⟩ := frameDispatch_queued h hplace hgood he hroom
    refine ⟨_, hexec, ?_⟩
    rw [setCore_core_self]
    exact ⟨tgetD_tset_self _ _ _ _, rfl, fun e he => tgetD_tset_other _ _ _ he, fun j hj => setCore_core_other _ _ _ _ hj, rfl⟩
  · obtain ⟨since, hexec⟩ := frameDispatch_seq_some h hplace hgood he hw (runSeq_end hop)
    refine ⟨_, hexec, ?_⟩
    rw [ownSignals_none (x := startedOf ⟨c.pc, f, c.idx⟩) true ha hb]
    simp only [setCore_core_self]
    rw [settle_frame]
    exact ⟨rfl, rfl⟩

/-- Settles O33: such a frame fails the check of its operands. -/
theorem loadNeverTransposesFp4 : Obligations.LoadNeverTransposesFp4 := by
  intro s p c f hclk hact hdis he _ hfmt ht
  exact frameDispatch_bad ⟨hclk, hact, hdis, rfl, rfl⟩ (.inr (frameBad_transposed_fp4 _ he hfmt ht))

/-- Settles O34: a LOOP and an ENDLOOP that cannot run, and a last frame out of its place. -/
theorem loopsNestAndTablesEnd : Obligations.LoopsNestAndTablesEnd := by
  intro s p c f bad hclk hact hdis
  have h : Reaches s p c f := ⟨hclk, hact, hdis, rfl, rfl⟩
  -- The units that a frame takes are no part of the open loops.
  exact ⟨fun he hop hopen => frameDispatch_seq_none h he (runSeq_loop_open hop hopen) (runSeq_loop_open hop hopen),
    fun he hop hlast => frameDispatch_seq_none h he (runSeq_endloop_unmatched hop hlast) (runSeq_endloop_unmatched hop hlast),
    fun hpc hnot => frameDispatch_bad h (.inl (misplaced_last hpc hnot))⟩

end Sys2Proof.Proofs
end

section
/-! SUPPORT. What the frames of the LOAD, STORE, matrix and vector engines leave as they start (R126, R145 to R159, R178). -/

namespace Sys2Proof.Proofs

open Sys2Proof.Machine Sys2Proof.Laws

/-! ### LOAD (R145, R147, R148) -/

section
variable {s u : State} {p : Nat} {m : MemOutcome} {q : QFrame} {ps ixs : List (Nat × Nat)}

theorem loadTile_starts (hq : s.headStarts p 0 1 q) (hr : s.readOutcome p 0 q m = (u, true)) :
    exec (.loadTile p m) s = .next (u.startFrame p 0 q (u.loadTile p q)) :=
  congrArg Host.Outcome.next (startHead_starts hq hr)

theorem loadGather_starts (hq : s.headStarts p 0 2 q) (hr : s.readOutcome p 0 q m = (u, true)) :
    exec (.loadGather p m) s = .next (u.startFrame p 0 q (u.loadGather p q)) :=
  congrArg Host.Outcome.next (startHead_starts hq hr)

theorem loadLinear_starts (hq : s.headStarts p 0 3 q) (hr : s.readOutcome p 0 q m = (u, true)) :
    exec (.loadLinear p m) s = .next (u.startFrame p 0 q (u.loadLinear p q)) :=
  congrArg Host.Outcome.next (startHead_starts hq hr)

/-- The module once a LOAD has put its rows into its buffer. -/
def afterLoad (u : State) (p : Nat) (q : QFrame) (rows : List (List Elem)) : State :=
  (u.setCore p ((u.core p).putBuf (field q.bytes 24 1) (field q.bytes 25 1) rows)).bumpFree

/-- Element (r, c) of the tile at `ps` as LOAD TILE delivers it. -/
def loadElem (u : State) (p : Nat) (q : QFrame) (ps : List (Nat × Nat)) (r c : Nat) : Elem :=
  u.tileElem ((u.core p).address q 16).1 ps (field q.bytes 25 1) (frScale q.bytes 27) r c

/-- A tile that is not transposed is delivered row by row. -/
theorem loadTile_plain (ht : field q.bytes 26 1 ≠ 1)
    (hps : u.frameRange p q 16 0 (tileBytes (field q.bytes 25 1)) 128 false = .ok ps)
    (hlost : u.spillsLost ((u.core p).address q 16).1 ps (field q.bytes 25 1) (List.range (field q.bytes 28 1 + 1)) = false) :
    u.loadTile p q =
      .ok (afterLoad u p q (elemRows (fun r c => loadElem u p q ps r c) (field q.bytes 29 1 + 1) (field q.bytes 28 1 + 1)),
        startedOf q) := by
  simp [State.loadTile, hps, ht, hlost, afterLoad, loadElem]

/-- A transposed tile is delivered column by column. -/
theorem loadTile_transposed (ht : field q.bytes 26 1 = 1)
    (hps : u.frameRange p q 16 0 (tileBytes (field q.bytes 25 1)) 128 false = .ok ps)
    (hlost : u.spillsLost ((u.core p).address q 16).1 ps (field q.bytes 25 1) (List.range (field q.bytes 29 1 + 1)) = false) :
    u.loadTile p q =
      .ok (afterLoad u p q (elemRows (fun r c => loadElem u p q ps c r) (field q.bytes 29 1 + 1) (field q.bytes 28 1 + 1)),
        startedOf q) := by
  simp [State.loadTile, hps, ht, hlost, afterLoad, loadElem]

/-- A tile one of whose spill entries does not resolve raises ADDR_FAULT. -/
theorem loadTile_lost (hps : u.frameRange p q 16 0 (tileBytes (field q.bytes 25 1)) 128 false = .ok ps)
    (hlost : u.spillsLost ((u.core p).address q 16).1 ps (field q.bytes 25 1)
      (List.range (if field q.bytes 26 1 = 1 then field q.bytes 29 1 + 1 else field q.bytes 28 1 + 1)) = true) :
    u.loadTile p q = .error faultAddr := by
  by_cases ht : field q.bytes 26 1 = 1
  · rw [if_pos ht] at hlost
    simp [State.loadTile, hps, ht, hlost]
  · rw [if_neg ht] at hlost
    simp [State.loadTile, hps, ht, hlost]

/-- A tile whose address does not resolve raises ADDR_FAULT. -/
theorem loadTile_unresolved (hps : u.frameRange p q 16 0 (tileBytes (field q.bytes 25 1)) 128 false = .error faultAddr) :
    u.loadTile p q = .error faultAddr := by
  simp [State.loadTile, hps]

/-- GATHER delivers the rows that its indices name. -/
theorem loadGather_plain {got : List (List Elem)} (ht : field q.bytes 26 1 ≠ 1)
    (hix : u.frameRange p q 48 0 (4 * (field q.bytes 28 1 + 1)) 4 false = .ok ixs)
    (hgot : u.gatherRows p q ixs (field q.bytes 29 1 + 1) 0 (field q.bytes 28 1 + 1) = .ok got) :
    u.loadGather p q = .ok (afterLoad u p q got, startedOf q) := by
  simp [State.loadGather, ht, hix, hgot, afterLoad]

/-- GATHER with TRANSPOSE delivers them as columns (assumption 26). -/
theorem loadGather_transposed {got : List (List Elem)} (ht : field q.bytes 26 1 = 1)
    (hix : u.frameRange p q 48 0 (4 * (field q.bytes 29 1 + 1)) 4 false = .ok ixs)
    (hgot : u.gatherRows p q ixs (field q.bytes 28 1 + 1) 0 (field q.bytes 29 1 + 1) = .ok got) :
    u.loadGather p q = .ok (afterLoad u p q (elemRows (fun r c => rowElem got (field q.bytes 25 1) c r)
      (field q.bytes 29 1 + 1) (field q.bytes 28 1 + 1)), startedOf q) := by
  simp [State.loadGather, ht, hix, hgot, afterLoad]

/-- LINEAR delivers its bytes unchanged. -/
theorem loadLinear_ok (hps : u.frameRange p q 16 0 (64 * (field q.bytes 29 1 + 1)) 64 false = .ok ps) :
    u.loadLinear p q = .ok ((u.setCore p ((u.core p).putBytes (field q.bytes 24 1) u.free
      (u.pieceRead ps 0 (64 * (field q.bytes 29 1 + 1))))).bumpFree, startedOf q) := by
  simp [State.loadLinear, hps]

end

/-- Settles O35, operation by operation. -/
theorem loadFramesFillTheirBuffer : Obligations.LoadFramesFillTheirBuffer := by
  intro s u p m q hr
  refine ⟨fun hq ps hps => ⟨fun ht hlost => ?_, fun ht hlost => ?_, fun hlost => ?_⟩,
    fun hq ixs got => ⟨fun ht hix hgot => ?_, fun ht hix hgot => ?_⟩, fun hq ps hps => ?_, fun hq hps => ?_⟩
  · rw [loadTile_starts hq hr, loadTile_plain ht hps hlost]; rfl
  · rw [loadTile_starts hq hr, loadTile_transposed ht hps hlost]; rfl
  · rw [loadTile_starts hq hr, loadTile_lost hps hlost, startFrame_error]
  · rw [loadGather_starts hq hr, loadGather_plain ht hix hgot]; rfl
  · rw [loadGather_starts hq hr, loadGather_transposed ht hix hgot]; rfl
  · rw [loadLinear_starts hq hr, loadLinear_ok hps]; rfl
  · rw [loadTile_starts hq hr, loadTile_unresolved hps, startFrame_error]

/-! ### STORE (R147 to R151, R219) -/

section
variable {s u : State} {p op : Nat} {m : MemOutcome} {q : QFrame} {k : State → QFrame → Except StoreStop (State × Started)}

/-- A STORE frame that no capping holds and whose reads end well comes to what its operation does. -/
theorem startStore_free (hq : s.headStarts p 1 op q) (hheld : s.storeHeld p q = false)
    (hr : s.readOutcome p 1 q m = (u, true)) : s.startStore p op m k = s.endStore p q (k u q) := by
  obtain ⟨hhead, hop⟩ := hq
  simp [State.startStore, hhead, hop, hheld, hr]

/-- A STORE frame that capping holds waits. -/
theorem startStore_held (hhead : s.head p 1 = some q) (hheld : s.storeHeld p q = true) : s.startStore p op m k = s := by
  simp [State.startStore, hhead, hheld]

/-- A STORE that has written its data enters its fingerprint terms and begins. -/
theorem endStore_ok (s t : State) (p : Nat) (q : QFrame) (x : Started) :
    s.endStore p q (.ok (t, x)) = ((t.fingerprintFrame p q).begun (t.fingerprintFrame p q) p 1 q x).bumpFree := rfl

/-- A STORE that stops on a fault keeps what it had written. -/
theorem endStore_fault (s : State) {t : State} {p bit : Nat} {q : QFrame} (h : bit ≠ heldWrite) :
    s.endStore p q (.error (t, bit)) = (t.faultHead p 1 q false bit).bumpFree := if_neg h

/-- A STORE whose spill area capping holds has not started. -/
theorem endStore_held (s t : State) (p : Nat) (q : QFrame) : s.endStore p q (.error (t, heldWrite)) = s := by
  simp [State.endStore]

/-- What a STORE command `i` of opcode `op` does where no capping holds it, by what its operation comes to. -/
theorem store_moves {i : Instr} (hi : exec i s = .next (s.startStore p op m k)) (hheld : s.storeHeld p q = false)
    (hr : s.readOutcome p 1 q m = (u, true)) (hq : s.headStarts p 1 op q) :
    (∀ t x, k u q = .ok (t, x) →
      exec i s = .next (((t.fingerprintFrame p q).begun (t.fingerprintFrame p q) p 1 q x).bumpFree)) ∧
    (∀ t bit, k u q = .error (t, bit) → bit ≠ heldWrite → exec i s = .next ((t.faultHead p 1 q false bit).bumpFree)) := by
  rw [hi, startStore_free hq hheld hr]
  refine ⟨fun t x hk => ?_, fun t bit hk hbit => ?_⟩
  · rw [hk, endStore_ok]
  · rw [hk, endStore_fault s hbit]

/-- Where its spill area is held, the command leaves the state before it. -/
theorem store_waits {i : Instr} (hi : exec i s = .next (s.startStore p op m k)) (hheld : s.storeHeld p q = false)
    (hr : s.readOutcome p 1 q m = (u, true)) (hq : s.headStarts p 1 op q) (t : State) (hk : k u q = .error (t, heldWrite)) :
    exec i s = .next s := by
  rw [hi, startStore_free hq hheld hr, hk, endStore_held]

/-- A frame that reads no memory meets no error. -/
theorem readOutcome_nothing {e : Nat} (h : s.frameReads p e q = []) : s.readOutcome p e q .ok = (s, true) := by
  have hclean : s.damagedIn [] = none := List.find?_eq_none.2 (by simp)
  simp [State.readOutcome, State.readErrors, hclean, h]

/-- STORE LINEAR reads no memory. -/
theorem frameReads_storeLinear (hop : frOp q.bytes = 4) : s.frameReads p 1 q = [] := by
  simp [State.frameReads, hop]

/-- STORE LINEAR writes its buffer's bytes unchanged. -/
theorem storeLinear_ok {ps : List (Nat × Nat)} (hps : s.frameRange p q 16 0 (64 * (field q.bytes 29 1 + 1)) 64 true = .ok ps) :
    s.storeLinear p q = .ok (s.writePieces ps (((s.core p).buf (field q.bytes 24 1)).byteList s.free
      (64 * (field q.bytes 29 1 + 1))), startedOf q) := by
  simp [State.storeLinear, State.storeRange, hps]

/-- A STORE LINEAR whose address does not resolve stops before it writes. -/
theorem storeLinear_unresolved {bit : Nat}
    (hps : s.frameRange p q 16 0 (64 * (field q.bytes 29 1 + 1)) 64 true = .error bit) :
    s.storeLinear p q = .error (s, bit) := by
  simp [State.storeLinear, State.storeRange, hps]

end

/-- Settles O36: the three operations that read memory, LINEAR, which reads none, and the hold. -/
theorem storeFramesWriteTheirRows : Obligations.StoreFramesWriteTheirRows := by
  intro s u p m q
  refine ⟨fun hheld hr => ⟨
      store_moves (i := .storeTile ⟨p, m⟩) (k := fun s q => s.storeTile p q) rfl hheld hr,
      store_moves (i := .storeScatter p m) (k := fun s q => s.storeScatter p q) rfl hheld hr,
      store_moves (i := .storeScatterAdd p m) (k := fun s q => s.storeScatterAdd p q) rfl hheld hr,
      store_waits (i := .storeTile ⟨p, m⟩) (k := fun s q => s.storeTile p q) rfl hheld hr,
      store_waits (i := .storeScatter p m) (k := fun s q => s.storeScatter p q) rfl hheld hr⟩,
    fun hheld hq => ?_, fun hheld hhead => ?_⟩
  · obtain ⟨hhead, hop⟩ := hq
    obtain ⟨hmoves, hstops⟩ := store_moves (i := .storeLinear p) (k := fun s q => s.storeLinear p q) rfl hheld
      (readOutcome_nothing (frameReads_storeLinear hop)) ⟨hhead, hop⟩
    exact ⟨fun ps hps => hmoves _ _ (storeLinear_ok hps), fun hps => hstops _ _ (storeLinear_unresolved hps) (by decide)⟩
  · have hwaits : ∀ op m k, s.startStore p op m k = s := fun op m k => startStore_held hhead hheld
    exact ⟨congrArg _ (hwaits _ _ _), congrArg _ (hwaits _ _ _), congrArg _ (hwaits _ _ _), congrArg _ (hwaits _ _ _)⟩

/-! ### MMA, FIN and CHAIN (R153 to R159, R178) -/

section
variable {s : State} {p : Nat} {e : Engine} {q : QFrame}

/-- A matrix frame reads no memory. -/
theorem frameReads_matrix (he : matrixOk e = true) : s.frameReads p (engineCode e) q = [] := by
  cases e with
  | fme => rfl
  | bme => rfl
  | _ => simp [matrixOk] at he

/-- A matrix frame at the head of its queue starts as its operation comes out. -/
theorem startHead_matrix {op : Nat} {k : State → QFrame → Except Nat (State × Started)} (he : matrixOk e = true)
    (hq : s.headStarts p (engineCode e) op q) :
    s.startHead p (engineCode e) op .ok k = s.startFrame p (engineCode e) q (k s q) :=
  startHead_starts hq (readOutcome_nothing (frameReads_matrix he))

theorem mma_starts (he : matrixOk e = true) (hq : s.headStarts p (engineCode e) 1 q) :
    exec (.mma p e) s = .next ((s.startFrame p (engineCode e) q (s.mmaFrame p q)).bumpFree) := by
  rw [exec, execMma, if_pos he, startHead_matrix he hq]

theorem fin_starts (he : matrixOk e = true) (hq : s.headStarts p (engineCode e) 2 q) :
    exec (.fin p e) s = .next (s.startFrame p (engineCode e) q (s.finFrame p q)) := by
  rw [exec, execFin, if_pos he, startHead_matrix he hq]

/-- A tile operation under the expected KSEQ adds its products. -/
theorem mmaFrame_inOrder (h : ((s.core p).acc (field q.bytes 18 1)).kseqOk q.bytes = true) :
    s.mmaFrame p q = .ok (s.setCore p ((s.core p).setAcc (field q.bytes 18 1) (((s.core p).acc (field q.bytes 18 1)).mma q.bytes
      ((s.core p).buf (field q.bytes 16 1)) ((s.core p).buf (field q.bytes 17 1)) s.free)), startedOf q) := by
  simp [State.mmaFrame, h]

/-- A tile operation under another KSEQ stops on KSEQ. -/
theorem mmaFrame_outOfOrder (h : ((s.core p).acc (field q.bytes 18 1)).kseqOk q.bytes = false) :
    s.mmaFrame p q = .error faultKseq := by
  simp [State.mmaFrame, h]

/-- A chain that passes its checks leaves its output buffer and its frame's lane flags. -/
theorem chainFrame_ok (hok : chainOk (s.core p) q.bytes ((s.core p).chainBytes (field q.bytes 16 1)) = true)
    (hctx : field ((s.core p).chainBytes (field q.bytes 16 1)) 2 2 = bits (s.core p).context.toNat 8 0)
    (hread : (chainReads q.bytes ((s.core p).chainBytes (field q.bytes 16 1))).all (s.core p).veuReadable = true) :
    let c := s.core p
    let r := (ChainRun.mk c q.bytes (c.chainBytes (field q.bytes 16 1)) (s.drawKey c) s.free).result
    s.chainFrame p q =
      .ok (s.setCore p { c with bufs := tset c.bufs (field q.bytes 20 1) r.1 }, { startedOf q with flags := r.2 }) := by
  simp only [State.chainFrame, hok, hctx, hread, bne_self_eq_false, Bool.not_true, Bool.false_eq_true, if_false]

/-- A chain at the head of its queue starts. -/
theorem chain_starts {r : State × Started} (hhead : s.head p 5 = some q) (hr : s.chainFrame p q = .ok r) :
    exec (.chain p) s = .next (((s.startFrame p 5 q (.ok r)).bumpFree).bumpFree) := by
  simp [exec, execChain, hhead, hr]

/-- A chain that fails a check raises the check's fault of the vector engine. -/
theorem chain_faults {bit : Nat} (hhead : s.head p 5 = some q) (hr : s.chainFrame p q = .error bit) :
    exec (.chain p) s = .next (s.faultHead p 5 q true bit) := by
  simp [exec, execChain, hhead, hr]

end

/-- Settles O39, operation by operation. -/
theorem matrixAndVectorFramesCompute : Obligations.MatrixAndVectorFramesCompute := by
  intro s p e q he
  refine ⟨fun hq hk => ?_, fun hq hk => ?_, fun hq => fin_starts he hq, fun hhead => ⟨fun hok hctx hread => ?_,
    fun bit => chain_faults hhead⟩⟩
  · rw [mma_starts he hq, mmaFrame_inOrder hk, startFrame_ok]
  · rw [mma_starts he hq, mmaFrame_outOfOrder hk, startFrame_error]
  · exact chain_starts hhead (chainFrame_ok hok hctx hread)

end Sys2Proof.Proofs
end

section
/-! SUPPORT. The completion of started frames and the limit on waits (R133, R136, R137, R201). -/

namespace Sys2Proof.Proofs

open Sys2Proof.Machine Sys2Proof.Laws

/-! ### FRAME_COMPLETE -/

/-- A core whose oldest started frame of engine `k`, `x`, has left `rest` behind and its lane flags entered. -/
def completing (c : Core) (k : Nat) (x : Started) (rest : List Started) : Core := { c with
  started := tset c.started k rest
  veuFlags := c.veuFlags ||| BitVec.setWidth 32 x.flags, veuFlagsStep := c.veuFlagsStep ||| BitVec.setWidth 32 x.flags }

section
variable {s : State} {p : Nat} {e : Engine} {x : Started} {rest : List Started}

/-- The oldest started frame of a clocked core completes unless it awaits a packet. -/
theorem frameComplete_oldest (hclk : s.coresClocked = true) (hrun : (s.core p).running (engineCode e) = x :: rest)
    (haw : x.awaits = none) :
    let r := ((s.setCore p (completing (s.core p) (engineCode e) x rest)).enterWatch p x).remotePart p x
    exec (.frameComplete p e) s =
      .next ((r.1.ownSignals p x r.2).setCore p ((r.1.ownSignals p x r.2).core p).settle) := by
  simp only [exec, execFrameComplete, hrun, haw, hclk, completing, Option.isSome_none, Bool.not_true, Bool.or_self,
    Bool.false_eq_true, if_false]

/-- A frame without watch counts enters none. -/
theorem enterWatch_none (h : x.watch = none) : s.enterWatch p x = s := by
  simp [State.enterWatch, h]

/-- A frame of another engine than XFER sends no remote signal. -/
theorem remotePart_none (h : frEngine x.frame.bytes ≠ 2) : s.remotePart p x = (s, true) := by
  simp [State.remotePart, h]

/-- A frame with neither watch counts nor signals changes its core only, which then settles. -/
theorem frameComplete_plain (hclk : s.coresClocked = true) (hrun : (s.core p).running (engineCode e) = x :: rest)
    (haw : x.awaits = none) (hw : x.watch = none) (ha : bitAt (frSignal x.frame.bytes) 7 = false)
    (hb : bitAt (frSignal x.frame.bytes) 15 = false) (hx : frEngine x.frame.bytes ≠ 2) :
    let d := completing (s.core p) (engineCode e) x rest
    exec (.frameComplete p e) s = .next ((s.setCore p d).setCore p d.settle) := by
  have hexec := frameComplete_oldest hclk hrun haw
  simp only [enterWatch_none hw, remotePart_none hx, ownSignals_none true ha hb, setCore_core_self] at hexec
  exact hexec

/-! ### WAIT_TIMEOUT -/

/-- A wait that has lasted its limit raises WAIT_TIMEOUT. -/
theorem waitTimeout_due {f : List Byte} (hf : (s.core p).taker (engineCode e) = some f) (hact : (s.core p).active = true)
    (hw : (s.core p).waitsMet f = false) (hlimit : (s.core p).waitLimit ≠ 0)
    (hdue : tgetD (s.core p).headSince (engineCode e) 0 + (s.core p).waitLimit.toNat ≤ s.now) :
    ∃ at', exec (.waitTimeout p e) s = .next (s.raiseFault p false faultWait at') := by
  simp only [exec, execWaitTimeout, hf, hact, hw, hdue, bne_iff_ne, ne_eq, hlimit, not_false_eq_true, Bool.not_false, Bool.and_self,
    decide_true, Bool.and_true, Bool.true_and, if_true]
  exact ⟨_, rfl⟩

/-- A wait within its limit goes on. -/
theorem waitTimeout_within {f : List Byte} (hf : (s.core p).taker (engineCode e) = some f)
    (hearly : s.now < tgetD (s.core p).headSince (engineCode e) 0 + (s.core p).waitLimit.toNat) :
    exec (.waitTimeout p e) s = .next s := by
  simp [exec, execWaitTimeout, hf, Nat.not_le.2 hearly]

end

/-- Settles O40: the completion of any frame, that of one without counts and signals, and the wait's limit from both sides. -/
theorem framesCompleteAndWaitsExpire : Obligations.FramesCompleteAndWaitsExpire := by
  intro s p e
  refine ⟨fun x rest hclk hrun haw => frameComplete_oldest hclk hrun haw, fun x rest hclk hrun haw hw ha hb hx => ?_,
    fun f hf hact hw hlimit => ⟨waitTimeout_due hf hact hw hlimit, waitTimeout_within hf⟩⟩
  refine ⟨_, frameComplete_plain hclk hrun haw hw ha hb hx, ?_⟩
  rw [setCore_core_self, settle_frame]
  exact ⟨tgetD_tset_self _ _ _ _, rfl, rfl, rfl, fun j hj => by rw [setCore_core_other _ _ _ _ hj, setCore_core_other _ _ _ _ hj]⟩

end Sys2Proof.Proofs
end

section
/-! SUPPORT. Hardened registers, and cores that are tested and retired (R162, R163, R494 to R496, R515). -/

namespace Sys2Proof.Proofs

open Sys2Proof.Machine Sys2Proof.Laws

/-! ### Hardened registers (R494 to R496) -/

/-- A block's CFG_MISMATCH bit is no byte of memory. -/
theorem markCfg_mem (s : State) (b : CfgBit) : (s.markCfg b).mem = s.mem := by
  cases b <;> rfl

theorem cfgMismatch_hardened {s : State} {a : Nat} {b : CfgBit} (h : s.hardened a = some b) :
    exec (.cfgMismatch a) s = .next (({ s.markCfg b with
      guard := { (s.markCfg b).guard with cfgFixes := s.guard.cfgFixes + 1 } } : State).report 0x0402 a noUnit) := by
  simp only [exec, execCfgMismatch, h]

theorem cfgMismatch_plain {s : State} {a : Nat} (h : s.hardened a = none) : exec (.cfgMismatch a) s = .next s := by
  simp only [exec, execCfgMismatch, h]

theorem cfgLost_plain {s : State} {a : Nat} (h : s.hardened a = none) : exec (.cfgLost a) s = .next s := by
  simp [exec, execCfgLost, h]

/-- A hardened register without two copies that agree is counted, what runs ends with MEM_ERROR, the links are fenced, and host software is
told. -/
theorem cfgLost_hardened {s : State} {a : Nat} (h : (s.hardened a).isSome = true) :
    let w : State := { s.report 0x0403 a noUnit with guard := { s.guard with cfgLost := true, fault := setBit32 s.guard.fault 1 } }
    let f := ((List.range 4).foldl (fun (t : State) k => t.fenceLink k 3) (w.abortAll.endRunning stMem)).fresh
    exec (.cfgLost a) s = .next (f.2.eventAdmin 0x0001 a (f.1 % 2)) := by
  refine congrArg Host.Outcome.next (if_neg ?_)
  simp [Option.isSome_iff_ne_none.1 h]

/-! ### Self-tests (R515) -/

section
variable {s : State} {p : Nat} (lost : List Nat)

/-- A suspect core whose comb rests is tested, or retired at its fourth suspicion. -/
theorem coreSelfTest_rests (hs : p ∈ s.guard.suspects) (ht : p ∉ s.guard.testing) (hrests : s.combRests (combOf p) = true)
    (hmode : s.keeper.mode = .running) :
    exec (.coreSelfTest ⟨p, lost⟩) s = .next (if 4 ≤ tgetD s.guard.suspicions p 0 then s.failCore p lost
      else { s with guard := { s.guard with testing := ninsert s.guard.testing p } }) :=
  congrArg Host.Outcome.next (if_pos (by simp [hs, ht, hrests, hmode]))

theorem coreSelfTestDone_fail (ht : p ∈ s.guard.testing) :
    exec (.coreSelfTestDone ⟨p, lost⟩ false) s = .next (s.failCore p lost) := by
  simp [exec, execCoreSelfTestDone, ht]

/-- A core that passes is suspect no more. -/
theorem coreSelfTestDone_pass (ht : p ∈ s.guard.testing) :
    exec (.coreSelfTestDone ⟨p, lost⟩ true) s = .next { s with guard := { s.guard with
      suspects := s.guard.suspects.filter fun x => x != p, testing := s.guard.testing.filter fun x => x != p } } := by
  simp [exec, execCoreSelfTestDone, ht]

/-! ### Retirement (R162, R163) -/

/-- A core that the Ledger has retired is retired. -/
theorem retireCore_any (l : Ledger) (p : Nat) : ((l.retireCore p).retiredCores.any fun e => e.1 == p) = true := by
  by_cases h : (l.retiredCores.any fun e => e.1 == p) = true
  · rw [Ledger.retireCore, if_pos h]
    exact h
  · rw [Ledger.retireCore, if_neg h]
    simp

/-- The module once core `p` is RETIRED, neither suspect nor under test, and in the Ledger, before a spare takes its position. -/
def retired (s : State) (p : Nat) : State :=
  let t := (s.setCore p { s.core p with mode := .retired }).report 0x0202 1 p
  { t with
    guard := { s.guard with suspects := s.guard.suspects.filter fun x => x != p, testing := s.guard.testing.filter fun x => x != p }
    ledger := t.ledger.retireCore p }

/-- The same module with comb `k`'s spare at logical position `c`. -/
def spared (s : State) (p c k : Nat) : State := { retired s p with coreMap := tset s.coreMap c (17 * k + 16) }

theorem failCore_spare {c : Nat} (hc : s.servedBy p = some c) (hfree : s.spareFree (combOf p) = true) :
    s.failCore p lost = (spared s p c (combOf p)).copySlice c lost := by
  unfold State.failCore
  rw [hc]
  exact if_pos hfree

/-- Without a spare the learning steps whose redo needs the comb end, and the module enters DEGRADED. -/
theorem failCore_noSpare {c : Nat} (hc : s.servedBy p = some c) (hfree : s.spareFree (combOf p) = false) :
    ∃ v : State, s.failCore p lost = v.degrade := by
  unfold State.failCore
  rw [hc]
  exact ⟨_, if_neg (by simp [hfree])⟩

end

theorem spared_positionCore_self (s : State) (p c k : Nat) : (spared s p c k).positionCore c = 17 * k + 16 :=
  tgetD_tset_self _ _ _ _

theorem spared_positionCore_other (s : State) (p c k : Nat) {d : Nat} (h : d ≠ c) :
    (spared s p c k).positionCore d = s.positionCore d :=
  tgetD_tset_other _ _ _ h

theorem spared_isRetired (s : State) (p c k : Nat) : (spared s p c k).isRetired p = true := retireCore_any _ p

theorem spared_mode (s : State) (p c k : Nat) : ((spared s p c k).core p).mode = .retired := by
  have hcore : (spared s p c k).core p = { s.core p with mode := .retired } := setCore_core_self s p _
  rw [hcore]

/-- Settles O46: hardened registers, self-tests, and a retirement with a spare and without one. -/
theorem hardenedRegistersAndSelfTests : Obligations.HardenedRegistersAndSelfTests := by
  intro s
  refine ⟨fun a b h => ⟨_, cfgMismatch_hardened h, rfl, markCfg_mem s b, rfl⟩, fun a h => ⟨cfgMismatch_plain h, cfgLost_plain h⟩,
    fun a h => cfgLost_hardened h, fun p hs ht hrests hmode => ⟨fun hfew lost => ?_, fun hmany lost => ?_⟩,
    fun p lost ht => ⟨coreSelfTestDone_fail lost ht, _, coreSelfTestDone_pass lost ht, by simp, by simp, rfl⟩,
    fun p c lost hc => ⟨fun hfree => ?_, failCore_noSpare lost hc⟩⟩
  · rw [coreSelfTest_rests lost hs ht hrests hmode, if_neg (Nat.not_le.2 hfew)]
  · rw [coreSelfTest_rests lost hs ht hrests hmode, if_pos hmany]
  · exact ⟨spared s p c (combOf p), failCore_spare lost hc hfree, spared_positionCore_self s p c _, spared_isRetired s p c _,
      spared_mode s p c _, rfl, fun d hd => spared_positionCore_other s p c _ hd⟩

end Sys2Proof.Proofs
end

section
/-! SUPPORT. Canonical memory (`State.Inv`): what keeps it, for each shape that an operation's answer has. Each later lemma
`State.Inv.<operation>` says that the operation answers canonical memory where it is given canonical memory; its proof has the shape of the
operation's body, and `h.f.g` is the proof for what `g` makes of what `f` makes of the state of `h`. -/

namespace Sys2Proof.Machine

open Sys2Proof.Laws

/-- Where an operation answers, its answer's state has canonical memory. -/
def Answers {α : Type} (p : α → State) : Option α → Prop
  | some x => (p x).Inv
  | none => True

/-- Where an operation succeeds, its result's state has canonical memory. -/
def Succeeds {α ε : Type} (p : α → State) : Except ε α → Prop
  | .ok x => (p x).Inv
  | .error _ => True

/-- A STORE frame leaves canonical memory where it runs through, and where it stops after some of its rows. -/
def Settled {α : Type} (p : α → State) : Except StoreStop α → Prop
  | .ok x => (p x).Inv
  | .error e => e.1.Inv

/-- A command that answers a next state answers canonical memory. -/
def Keeps : Host.Outcome State Fault Refusal → Prop
  | .next t => t.Inv
  | _ => True

section
variable {α ε : Type} {p : α → State} {x : α}

theorem Answers.of_some {o : Option α} (k : Answers p o) (e : o = some x) : (p x).Inv := by
  subst e
  exact k

theorem Succeeds.of_ok {o : Except ε α} (k : Succeeds p o) (e : o = .ok x) : (p x).Inv := by
  subst e
  exact k

theorem Settled.of_ok {o : Except StoreStop α} (k : Settled p o) (e : o = .ok x) : (p x).Inv := by
  subst e
  exact k

theorem Settled.of_error {o : Except StoreStop α} {y : StoreStop} (k : Settled p o) (e : o = .error y) : y.1.Inv := by
  subst e
  exact k

theorem Keeps.of_next {o : Host.Outcome State Fault Refusal} {t : State} (k : Keeps o) (e : o = .next t) : t.Inv := by
  subst e
  exact k

theorem State.Inv.of_fst {r : State × α} {t : State} (k : r.1.Inv) (e : r = (t, x)) : t.Inv := by
  subst e
  exact k

end

/-! ### Branches -/

section
variable {α ε : Type} {p : α → State} {c : Prop} [Decidable c]

theorem State.Inv.ite {a b : State} (ha : a.Inv) (hb : b.Inv) : (if c then a else b).Inv := by
  split <;> assumption

theorem State.Inv.ite_fst {a b : State × α} (ha : a.1.Inv) (hb : b.1.Inv) : (if c then a else b).1.Inv := by
  split <;> assumption

theorem State.Inv.ite_snd {a b : α × State} (ha : a.2.Inv) (hb : b.2.Inv) : (if c then a else b).2.Inv := by
  split <;> assumption

theorem Answers.ite {a b : Option α} (ha : Answers p a) (hb : Answers p b) : Answers p (if c then a else b) := by
  split <;> assumption

theorem Succeeds.ite {a b : Except ε α} (ha : Succeeds p a) (hb : Succeeds p b) : Succeeds p (if c then a else b) := by
  split <;> assumption

theorem Settled.ite {a b : Except StoreStop α} (ha : Settled p a) (hb : Settled p b) : Settled p (if c then a else b) := by
  split <;> assumption

theorem Keeps.ite {a b : Host.Outcome State Fault Refusal} (ha : Keeps a) (hb : Keeps b) : Keeps (if c then a else b) := by
  split <;> assumption

end

section
variable {α β : Type} {p : α → State} {q : β → State}

theorem Answers.map {f : α → β} {o : Option α} (h : ∀ x, o = some x → (q (f x)).Inv) : Answers q (o.map f) := by
  cases o with
  | none => trivial
  | some x => exact h x rfl

theorem Answers.bind {f : α → Option β} {o : Option α} (h : ∀ x, o = some x → Answers q (f x)) : Answers q (o.bind f) := by
  cases o with
  | none => trivial
  | some x => exact h x rfl

theorem Answers.getD {s : State} {o : Option State} (k : Answers id o) (h : s.Inv) : (o.getD s).Inv := by
  cases o with
  | none => exact h
  | some t => exact k

end

/-! ### Runs over a list -/

section
variable {α β : Type} {l : List β}

theorem State.Inv.foldl {f : State → β → State} {s : State} (h : s.Inv) (hf : ∀ {t x}, t.Inv → (f t x).Inv) : (l.foldl f s).Inv := by
  induction l generalizing s with
  | nil => exact h
  | cons x rest ih => exact ih (hf h)

theorem State.Inv.foldl_fst {f : State × α → β → State × α} {r : State × α} (h : r.1.Inv) (hf : ∀ {q x}, q.1.Inv → (f q x).1.Inv) :
    (l.foldl f r).1.Inv := by
  induction l generalizing r with
  | nil => exact h
  | cons x rest ih => exact ih (hf h)

theorem State.Inv.foldl_snd {f : α × State → β → α × State} {r : α × State} (h : r.2.Inv) (hf : ∀ {q x}, q.2.Inv → (f q x).2.Inv) :
    (l.foldl f r).2.Inv := by
  induction l generalizing r with
  | nil => exact h
  | cons x rest ih => exact ih (hf h)

end

/-! ### Updates -/

/-- A state is canonical by its memory alone: a record update needs the proof for its memory field. The fields are spelled out, so that an
update `{ s with … }` meets this statement field by field and no other field is looked into. -/
theorem State.Inv.update {pending free mem spillOf memCtl store coreMap cores combScalars brdCtrl brdStamp brdStarted brdFault shareWindow
    cowCount evictCount necPoll necRingBase slots steps learnSteps ctxRegs ctxs adapters turns cascade dlSent port regs mailboxes readings
    guard keeper power propolis ledger pins} (h : memWf mem = true) :
    (State.mk pending free mem spillOf memCtl store coreMap cores combScalars brdCtrl brdStamp brdStarted brdFault shareWindow cowCount
      evictCount necPoll necRingBase slots steps learnSteps ctxRegs ctxs adapters turns cascade dlSent port regs mailboxes readings guard
      keeper power propolis ledger pins).Inv := h

/-- What changes mailboxes and their port's queues only keeps memory canonical. -/
theorem State.Inv.mail {s t : State} (h : s.Inv) (k : mailOnly s t) : t.Inv := by
  unfold State.Inv at *
  rw [mailOnly_memory k]
  exact h

end Sys2Proof.Machine
end

section
/-! SUPPORT. Canonical memory through mailboxes, connections, links, translation and memory tiers. -/

namespace Sys2Proof.Machine

open Sys2Proof.Laws

variable {s : State}

/-! ### Numbers and units -/

theorem State.Inv.write {a b} (h : s.Inv) : (s.write a b).Inv := .update (memWf_write h a b)
theorem State.Inv.fresh (h : s.Inv) : s.fresh.2.Inv := .update h
theorem State.Inv.pickNumber {n used} (h : s.Inv) : (s.pickNumber n used).2.Inv := .update h
theorem State.Inv.setCore {p c} (h : s.Inv) : (s.setCore p c).Inv := .update h
theorem State.Inv.setCreg {n r} (h : s.Inv) : (s.setCreg n r).Inv := .update h
theorem State.Inv.setCtx {n c} (h : s.Inv) : (s.setCtx n c).Inv := .update h
theorem State.Inv.setSlot {n e} (h : s.Inv) : (s.setSlot n e).Inv := .update h
theorem State.Inv.setMailbox {mb b} (h : s.Inv) : (s.setMailbox mb b).Inv := .update h
theorem State.Inv.setQp {q v} (h : s.Inv) : (s.setQp q v).Inv := .update h
theorem State.Inv.setLink {k l} (h : s.Inv) : (s.setLink k l).Inv := .update h
theorem State.Inv.learnStamp {stamp} (h : s.Inv) : (s.learnStamp stamp).Inv := .update h

/-! ### The Ledger -/

theorem State.Inv.report {code value unit} (h : s.Inv) : (s.report code value unit).Inv := .update h
theorem State.Inv.ignored {addr core} (h : s.Inv) : (s.ignored addr core).Inv := h.report

/-! ### Connections -/

theorem State.Inv.touchRegion (h : s.Inv) : s.touchRegion.Inv := h.mail (mailOnly_touchRegion _)
theorem State.Inv.transmit {f} (h : s.Inv) : (s.transmit f).Inv := h.mail (mailOnly_transmit _ _)
theorem State.Inv.pump {n} (h : s.Inv) : (s.pump n).Inv := h.mail (mailOnly_pump _ _)
theorem State.Inv.postOp {n op} (h : s.Inv) : (s.postOp n op).Inv := h.mail (mailOnly_postOp _ _ _)

/-! ### Flags -/

theorem State.Inv.raiseFault {p veu bit at'} (h : s.Inv) : (s.raiseFault p veu bit at').Inv := h.setCore.report
theorem State.Inv.raiseUnplaced {p veu bit} (h : s.Inv) : (s.raiseUnplaced p veu bit).Inv := h.fresh.raiseFault

/-! ### Mailboxes -/

theorem State.Inv.flush {mb} (h : s.Inv) : (s.flush mb).Inv := h.mail (mailOnly_flush _ _)
theorem State.Inv.post {mb c} (h : s.Inv) : (s.post mb c).Inv := h.mail (mailOnly_post _ _ _)
theorem State.Inv.answer {t a} (h : s.Inv) : (s.answer t a).Inv := h.mail (mailOnly_answer _ _ _)
theorem State.Inv.finish {t status v0 v1} (h : s.Inv) : (s.finish t status v0 v1).Inv := h.mail (mailOnly_finish _ _ _ _ _)

theorem State.Inv.eventTo {mb kind item v0 v1 status ctx} (h : s.Inv) : (s.eventTo mb kind item v0 v1 status ctx).Inv :=
  h.mail (mailOnly_eventTo _ _ _ _ _ _ _ _)

theorem State.Inv.eventAdmin {code v0 v1} (h : s.Inv) : (s.eventAdmin code v0 v1).Inv := h.mail (mailOnly_eventAdmin _ _ _ _)
theorem State.Inv.eventCtx {ctx code v0 v1} (h : s.Inv) : (s.eventCtx ctx code v0 v1).Inv := h.eventTo
theorem State.Inv.stopMailbox {mb} (h : s.Inv) : (s.stopMailbox mb).Inv := h.mail (mailOnly_stopMailbox _ _)
theorem State.Inv.consume {mb m} (h : s.Inv) : (s.consume mb m).Inv := h.mail (mailOnly_consume _ _ _)
theorem State.Inv.reject {mb m status} (h : s.Inv) : (s.reject mb m status).Inv := h.mail (mailOnly_reject _ _ _ _)
theorem State.Inv.settle {mb} (h : s.Inv) : (s.settle mb).Inv := h.mail (mailOnly_settle _ _)
theorem State.Inv.wake (h : s.Inv) : s.wake.Inv := .ite (.update h) h

theorem State.Inv.serve {mb code k} (h : s.Inv) (hk : ∀ {t m u}, State.Inv t → (k t m u).Inv) : (s.serve mb code k).Inv := by
  obtain ⟨-, e⟩ | ⟨m, r, -, ⟨st, -, e⟩ | ⟨-, e⟩⟩ := serve_cases s mb code k <;> rw [e]
  exacts [h, h.consume.reject.settle, (hk h.consume).settle]

theorem State.Inv.writeWindow {dom w data} (h : s.Inv) : (s.writeWindow dom w data).Inv := by
  unfold State.writeWindow
  split
  exacts [h, h.postOp]

theorem State.Inv.readWindow {t m w} (h : s.Inv) : (s.readWindow t m w).Inv := by
  unfold State.readWindow
  split
  exacts [h.finish, .ite (.postOp (.update h.setMailbox)) h.finish]

theorem State.Inv.abandonReads {f} (h : s.Inv) : (s.abandonReads f).Inv := .update h

theorem State.Inv.endReading {mb} (h : s.Inv) : Answers Prod.snd (s.endReading mb) := by
  unfold State.endReading
  split
  exacts [trivial, State.Inv.setMailbox (.update h)]

/-! ### Link packets -/

theorem State.Inv.pumpLink {k n} (h : s.Inv) : (s.pumpLink k n).Inv := by
  induction n generalizing s with
  | zero => exact h
  | succ n ih =>
    unfold State.pumpLink
    extract_lets _
    split
    exacts [h, ih (.update h.setLink)]

theorem State.Inv.sendOn {k b} (h : s.Inv) : (s.sendOn k b).Inv := .ite h.setLink.pumpLink h

theorem State.Inv.originate {links b} (h : s.Inv) : (s.originate links b).Inv := by
  unfold State.originate
  split
  exacts [h.sendOn, h]

theorem State.Inv.sendLack {k freed nak} (h : s.Inv) : (s.sendLack k freed nak).Inv := .update h
theorem State.Inv.tell {pos kind fields} (h : s.Inv) : (s.tell pos kind fields).Inv := .ite h (.originate (.update h))
theorem State.Inv.tellAll {kind fields} (h : s.Inv) : (s.tellAll kind fields).Inv := .ite (h.foldl (fun hu => hu.tell)) h
theorem State.Inv.tellEnd {t status} (h : s.Inv) : (s.tellEnd t status).Inv := .ite h.tellAll h.tell
theorem State.Inv.replyTo {b ty addr} (h : s.Inv) : (s.replyTo b ty addr).Inv := h.originate
theorem State.Inv.answerDone {b result} (h : s.Inv) : (s.answerDone b result).Inv := h.replyTo

/-! ### Context addresses -/

theorem State.Inv.setXent {ctx a e} (h : s.Inv) : (s.setXent ctx a e).Inv := h.write
theorem State.Inv.invalidate {ctx} (h : s.Inv) : (s.invalidate ctx).Inv := .update h
theorem State.Inv.changeXent {ctx a e} (h : s.Inv) : (s.changeXent ctx a e).Inv := h.setXent.invalidate
theorem State.Inv.clearWp {ctx a} (h : s.Inv) : (s.clearWp ctx a).Inv := h.setXent
theorem State.Inv.setWp {ctx a} (h : s.Inv) : (s.setWp ctx a).Inv := h.setXent

theorem State.Inv.writePieces {ps b} (h : s.Inv) : (s.writePieces ps b).Inv := by
  induction ps generalizing s b with
  | nil => exact h
  | cons p rest ih => exact ih (.ite h.write h)

theorem State.Inv.writeRange {sp a b} (h : s.Inv) : Answers id (s.writeRange sp a b) := Answers.map fun _ _ => h.writePieces
theorem State.Inv.sendPart {c off b} (h : s.Inv) : (s.sendPart c off b).Inv := .ite h.tell h.writeWindow
theorem State.Inv.setCap {c} (h : s.Inv) : (s.setCap c).Inv := .update h
theorem State.Inv.copyGranule {c a} (h : s.Inv) : (s.copyGranule c a).Inv := h.sendPart.clearWp.setCap

theorem State.Inv.touchCopy {ctx a n} (h : s.Inv) : (s.touchCopy ctx a n).Inv := by
  unfold State.touchCopy
  refine h.foldl fun hu => ?_
  split
  exacts [.ite (.update hu.copyGranule) hu, hu]

theorem State.Inv.writeCtx {ctx a b} (h : s.Inv) : (s.writeCtx ctx a b).Inv := by
  unfold State.writeCtx
  split
  · rename_i s' heq
    exact (h.touchCopy.writeRange.of_some heq)
  · exact h

theorem State.Inv.writeOwned {ctx a b} (h : s.Inv) : (s.writeOwned ctx a b).Inv := by
  unfold State.writeOwned
  split
  exacts [h.touchCopy.writePieces, h]

theorem State.Inv.zeroOwned {ctx a n} (h : s.Inv) : (s.zeroOwned ctx a n).Inv := by
  unfold State.zeroOwned
  split
  · exact h.touchCopy.foldl fun hu => .ite (.update (memWf_zeroRange hu _ _)) hu
  · exact h

/-! ### The Ethernet port -/

theorem State.Inv.dropBad (h : s.Inv) : s.dropBad.Inv := .update h
theorem State.Inv.dropUnmatched (h : s.Inv) : s.dropUnmatched.Inv := .update h

theorem State.Inv.onPacket {hd k} (h : s.Inv) (hk : ∀ {t a}, State.Inv t → (k t a).Inv) : (s.onPacket hd k).Inv := by
  unfold State.onPacket
  refine .ite h.dropBad ?_
  split
  exacts [h.dropUnmatched, .ite h (hk h)]

theorem State.Inv.doorbell {mb body} (h : s.Inv) : (s.doorbell mb body).Inv :=
  .ite h.stopMailbox (.ite (.ite h.setMailbox.flush h) (.ite h.stopMailbox h.setMailbox.flush.settle))

theorem execDoorbell_keeps {hd body} (h : s.Inv) : Keeps (execDoorbell hd body s) := by
  unfold execDoorbell
  refine State.Inv.onPacket h fun hu => ?_
  extract_lets +onlyGivenNames s1
  have hs1 : s1.Inv := hu.touchRegion.transmit
  exact State.Inv.ite (.ite (.update hs1) hs1.doorbell) hs1

theorem State.Inv.onCarrier {src mb binds k} (h : s.Inv) (hk : ∀ {t}, State.Inv t → (k t).Inv) :
    (s.onCarrier src mb binds k).Inv := by
  unfold State.onCarrier
  extract_lets +onlyGivenNames _
  refine .ite h.dropUnmatched ?_
  split
  exacts [.ite (hk h) h.dropUnmatched, .ite (hk h.setMailbox) h]

theorem execUdpSubmit_keeps {src sumOk datagram} (h : s.Inv) : Keeps (execUdpSubmit src sumOk datagram s) := by
  unfold execUdpSubmit
  refine State.Inv.ite h.dropBad ?_
  refine State.Inv.ite h ?_
  extract_lets +onlyGivenNames _
  refine State.Inv.onCarrier h.touchRegion fun hu => ?_
  extract_lets +onlyGivenNames _ _ s1
  have hs1 : s1.Inv := hu.setMailbox.settle.flush
  exact hs1.transmit

theorem execUdpPoll_keeps {src sumOk datagram} (h : s.Inv) : Keeps (execUdpPoll src sumOk datagram s) := by
  unfold execUdpPoll
  refine State.Inv.ite h.dropBad ?_
  refine State.Inv.ite h ?_
  extract_lets +onlyGivenNames _
  refine State.Inv.onCarrier h.touchRegion fun hu => ?_
  extract_lets +onlyGivenNames _ s1
  have hs1 : s1.Inv := hu.setMailbox.flush
  exact hs1.transmit

theorem execRdmaWriteInbound_keeps {hd addr rkey data} (h : s.Inv) : Keeps (execRdmaWriteInbound hd addr rkey data s) := by
  unfold execRdmaWriteInbound
  refine State.Inv.onPacket h fun hu => ?_
  refine State.Inv.ite hu.touchRegion.setMailbox.transmit ?_
  refine State.Inv.ite hu ?_
  refine State.Inv.ite hu.transmit ?_
  split
  · exact hu.transmit
  · split
    · exact hu.transmit
    · rename_i s' heq
      exact State.Inv.ite (.update hu) ((hu.writeRange.of_some heq).transmit)

theorem execRateRecoverExpiry_keeps {qpn} (h : s.Inv) : Keeps (execRateRecoverExpiry qpn s) := by
  unfold execRateRecoverExpiry
  split
  exacts [h, State.Inv.ite h.setQp h]

theorem State.Inv.resend {n q} (h : s.Inv) : (s.resend n q).Inv := h.setQp.foldl fun hu => hu.transmit

theorem execRoceAckReceived_keeps {qpn psn nak} (h : s.Inv) : Keeps (execRoceAckReceived qpn psn nak s) := by
  unfold execRoceAckReceived
  split
  exacts [h, State.Inv.ite h (.pump (.ite h.resend h.setQp))]

theorem execRoceAckTimeout_keeps {qpn} (h : s.Inv) : Keeps (execRoceAckTimeout qpn s) := by
  unfold execRoceAckTimeout
  split
  exacts [h, State.Inv.ite h h.resend]

/-! ### Memory tiers -/

theorem State.Inv.mapGranule {ctx a g readonly} (h : s.Inv) : (s.mapGranule ctx a g readonly).Inv := h.changeXent
theorem State.Inv.zero {lo hi} (h : s.Inv) : (s.zero lo hi).Inv := .update (memWf_zeroRange h lo hi)
theorem State.Inv.retireLp {g} (h : s.Inv) : (s.retireLp g).Inv := .report (.update h)
theorem State.Inv.withdrawSram {g} (h : s.Inv) : (s.withdrawSram g).Inv := .report (.update h)
theorem State.Inv.swapMappings {d g} (h : s.Inv) : (s.swapMappings d g).Inv := h.foldl fun hu => hu.changeXent
theorem State.Inv.carrySpills {src dst n} (h : s.Inv) : (s.carrySpills src dst n).Inv := .update h
theorem State.Inv.copyBytes {src dst n} (h : s.Inv) : (s.copyBytes src dst n).Inv := (h.zero.foldl (fun hu => hu.write)).carrySpills
theorem State.Inv.useGranule {d g} (h : s.Inv) : (s.useGranule d g).Inv := .ite (.update h) (.update h)
theorem State.Inv.retireGranule {d} (h : s.Inv) : (s.retireGranule d).Inv := .ite h.withdrawSram h.retireLp

theorem State.Inv.moveTaken {d g} (h : s.Inv) : (s.moveTaken d g).Inv := by
  unfold State.moveTaken
  extract_lets +onlyGivenNames _ s1 _
  have hs1 : s1.Inv := h.copyBytes.useGranule
  exact .update hs1

theorem State.Inv.markGranule {d} (h : s.Inv) : (s.markGranule d).Inv := by
  unfold State.markGranule
  extract_lets +onlyGivenNames _ _ _ _ _
  refine .ite h ?_
  refine .ite (.update h) ?_
  refine .ite h.retireGranule ?_
  split
  exacts [h.moveTaken.retireGranule, .update h]

theorem State.Inv.retireMarked {busy d} (h : s.Inv) : (s.retireMarked busy d).Inv := by
  unfold State.retireMarked
  extract_lets +onlyGivenNames _ _ _
  refine .ite h ?_
  split
  exacts [h, .retireGranule (.useGranule (.swapMappings (.copyBytes (.update h))))]

theorem State.Inv.retireAll {busy} (h : s.Inv) : (s.retireAll busy).Inv := h.foldl fun hu => hu.retireMarked

theorem State.Inv.freeGranule {d} (h : s.Inv) : (s.freeGranule d).Inv :=
  .ite (.retireGranule (.update h)) (.ite (.update h.zero) (.update h.zero))

theorem State.Inv.unmap {ctx a} (h : s.Inv) : (s.unmap ctx a).Inv := by
  unfold State.unmap
  extract_lets +onlyGivenNames _
  refine .ite h ?_
  extract_lets +onlyGivenNames _ _ s1
  have hs1 : s1.Inv := h.touchCopy.changeXent
  exact .ite hs1.freeGranule hs1

theorem State.Inv.retireDue (h : s.Inv) : s.retireDue.Inv := h.retireAll
theorem State.Inv.memCorrected {d} (h : s.Inv) : (s.memCorrected d).Inv := .report (.update h)

theorem State.Inv.damagePages {ctx a} (h : s.Inv) : (s.damagePages ctx a).Inv := by
  unfold State.damagePages
  split
  exacts [h, .ite h h.setCtx]

theorem State.Inv.memUncorrectable {d scrub ctx} (h : s.Inv) : (s.memUncorrectable d scrub ctx).Inv := by
  unfold State.memUncorrectable
  extract_lets +onlyGivenNames _ _ _ _ s3 _ _ _
  have hs3 : s3.Inv := .eventAdmin (.report (.update h))
  exact (((hs3.foldl (fun hu => hu.eventTo)).foldl (fun hu => hu.damagePages)).markGranule).retireDue

theorem State.Inv.readCorrected {d} (h : s.Inv) : (s.readCorrected d).Inv := by
  unfold State.readCorrected
  extract_lets +onlyGivenNames _ _ _ _ s2
  have hs2 : s2.Inv := .update h.memCorrected
  exact .ite hs2.markGranule.retireDue hs2

theorem State.Inv.readErrors {ps ctx m} (h : s.Inv) : (s.readErrors ps ctx m).1.Inv := by
  unfold State.readErrors
  extract_lets +onlyGivenNames _ _
  split
  exacts [h.memUncorrectable, .update h, h.readCorrected, h.memUncorrectable]

theorem State.Inv.keeperRead {ps m} (h : s.Inv) : (s.keeperRead ps m).Inv := h.readErrors

theorem execRdmaReadInbound_keeps {r addr rkey len} (h : s.Inv) : Keeps (execRdmaReadInbound r addr rkey len s) := by
  unfold execRdmaReadInbound
  extract_lets +onlyGivenNames _
  refine State.Inv.onPacket h fun hu => ?_
  refine State.Inv.ite hu ?_
  refine State.Inv.ite hu.transmit ?_
  split
  · exact hu.transmit
  · split
    · exact hu.transmit
    · extract_lets +onlyGivenNames d
      split
      · rename_i s1 heq
        exact (State.Inv.of_fst hu.readErrors heq).transmit
      · rename_i s1 heq
        exact State.Inv.transmit (.update (State.Inv.of_fst hu.readErrors heq))

theorem execMemInval_keeps {v} (h : s.Inv) : Keeps (execMemInval v s) := State.Inv.update h

theorem execMemZero_keeps {v} (h : s.Inv) : Keeps (execMemZero v s) := by
  unfold execMemZero
  extract_lets +onlyGivenNames _ _ _
  refine State.Inv.ite (.ite h (.update h)) ?_
  split
  · exact h.ignored
  · extract_lets +onlyGivenNames stop
    refine State.Inv.ite h.ignored ?_
    extract_lets +onlyGivenNames _ s1
    have hs1 : s1.Inv := (h.foldl (fun hu => hu.foldl (fun hv => hv.touchCopy))).zero
    exact State.Inv.update hs1

theorem State.Inv.scrubAdvance {u} (h : s.Inv) : (s.scrubAdvance u).Inv := .update h

theorem execScrubRead_keeps {lp n m raced} (h : s.Inv) : Keeps (execScrubRead lp n m raced s) := by
  unfold execScrubRead
  extract_lets +onlyGivenNames _ _
  refine State.Inv.ite h ?_
  extract_lets +onlyGivenNames _
  split
  · exact h.scrubAdvance.memUncorrectable
  · exact State.Inv.update h.scrubAdvance
  · extract_lets +onlyGivenNames hard s2
    have hs2 : s2.Inv := h.scrubAdvance.readCorrected
    exact State.Inv.ite hs2 (.update hs2)
  · exact h.scrubAdvance.memUncorrectable

end Sys2Proof.Machine
end

section
/-! SUPPORT. Canonical memory through frames, KV pages, generation steps and their commit. -/

namespace Sys2Proof.Machine

open Sys2Proof.Laws

variable {s : State}

/-! ### Frames -/

theorem State.Inv.bumpFree (h : s.Inv) : s.bumpFree.Inv := .update h

/-! ### The sequencer -/

theorem State.Inv.startCore {p} (h : s.Inv) : (s.startCore p).Inv := by
  unfold State.startCore
  extract_lets +onlyGivenNames _ _ s2
  have hs2 : s2.Inv := .ite h.setCore.raiseUnplaced (.ite h.setCore h.setCore.raiseUnplaced)
  exact .ite hs2 hs2.raiseUnplaced

theorem execCoreStart_keeps {w} (h : s.Inv) : Keeps (execCoreStart w s) := State.Inv.ite h.startCore h.ignored
theorem execCoreAbort_keeps {w} (h : s.Inv) : Keeps (execCoreAbort w s) := h.setCore

theorem State.Inv.fillRead {src n m} (h : s.Inv) : (s.fillRead src n m).Inv := by
  unfold State.fillRead
  extract_lets +onlyGivenNames _ s2
  have hs2 : s2.Inv := .ite h.keeperRead h.keeperRead.ignored
  exact .update hs2

theorem execFrameStoreFill_keeps {f} (h : s.Inv) : Keeps (execFrameStoreFill f s) := State.Inv.ite h.ignored h.setCore.fillRead
theorem execVeuFill_keeps {f} (h : s.Inv) : Keeps (execVeuFill f s) := State.Inv.ite h.setCore.fillRead h.ignored
theorem execCoreTokenWrite_keeps {w n v} (h : s.Inv) : Keeps (execCoreTokenWrite w n v s) := State.Inv.ite h.setCore h.ignored

theorem State.Inv.applySignal {p x on k inc} (h : s.Inv) : (s.applySignal p x on k inc).Inv := by
  unfold State.applySignal
  refine .ite h ?_
  split
  exacts [h.setCore, h.raiseFault]

theorem State.Inv.ownSignals {p x complete} (h : s.Inv) : (s.ownSignals p x complete).Inv := h.applySignal.applySignal

theorem execFrameDispatch_keeps {p} (h : s.Inv) : Keeps (execFrameDispatch p s) := by
  unfold execFrameDispatch
  extract_lets +onlyGivenNames _ _
  refine State.Inv.ite h ?_
  refine State.Inv.ite h.raiseFault ?_
  refine State.Inv.ite ?_ (.ite h h.setCore)
  refine State.Inv.ite h ?_
  split
  · exact h.raiseFault
  · extract_lets +onlyGivenNames s1 s2
    have hs2 : s2.Inv := h.setCore.ownSignals
    exact hs2.setCore

theorem State.Inv.faultHead {p e q veu bit} (h : s.Inv) : (s.faultHead p e q veu bit).Inv := h.setCore.raiseFault

theorem State.Inv.remoteSignal {logical ctr inc stamp} (h : s.Inv) : Answers id (s.remoteSignal logical ctr inc stamp) := by
  unfold State.remoteSignal
  extract_lets +onlyGivenNames _ _
  refine Answers.ite ?_ trivial
  split
  exacts [h.setCore, h.raiseUnplaced]

theorem State.Inv.enterWatch {p x} (h : s.Inv) : (s.enterWatch p x).Inv := by
  unfold State.enterWatch
  split
  · exact h
  · split
    exacts [h.setCore, h.raiseFault]

theorem State.Inv.remotePart {p x} (h : s.Inv) : (s.remotePart p x).1.Inv := by
  unfold State.remotePart
  extract_lets +onlyGivenNames _ _
  refine .ite_fst ?_ h
  split
  · rename_i s' heq
    exact (h.remoteSignal.of_some heq)
  · exact h.raiseFault

theorem execFrameComplete_keeps {p e} (h : s.Inv) : Keeps (execFrameComplete p e s) := by
  unfold execFrameComplete
  extract_lets +onlyGivenNames _ _
  split
  · exact h
  · refine State.Inv.ite h ?_
    extract_lets +onlyGivenNames _ r _
    have hr : r.1.Inv := h.setCore.enterWatch.remotePart
    exact hr.ownSignals.setCore

theorem execWaitTimeout_keeps {p e} (h : s.Inv) : Keeps (execWaitTimeout p e s) := by
  unfold execWaitTimeout
  extract_lets +onlyGivenNames _ _
  split
  exacts [h, State.Inv.ite h.raiseFault h]

/-! ### LOAD, STORE and COPY -/

theorem State.Inv.countReserved {addrs} (h : s.Inv) : (s.countReserved addrs).Inv := h.foldl fun hu => hu.ignored

theorem State.Inv.startFrame {p e q r} (h : s.Inv) (k : Succeeds Prod.fst r) : (s.startFrame p e q r).Inv := by
  cases r with
  | error bit => exact h.faultHead
  | ok x => exact .setCore (.countReserved k)

theorem State.Inv.pieceWrite {ps o b} (h : s.Inv) : (s.pieceWrite ps o b).Inv := by
  induction b generalizing s o with
  | nil => exact h
  | cons b rest ih => exact ih (.ite (.update (memWf_set h _ _)) h)

theorem State.Inv.loadTile {p q} (h : s.Inv) : Succeeds Prod.fst (s.loadTile p q) := by
  unfold State.loadTile
  extract_lets +onlyGivenNames _ _
  split
  exacts [trivial, Succeeds.ite trivial h.setCore.bumpFree]

theorem State.Inv.loadGather {p q} (h : s.Inv) : Succeeds Prod.fst (s.loadGather p q) := by
  unfold State.loadGather
  extract_lets +onlyGivenNames _ _ _ _ _ _
  split
  · exact trivial
  · split
    exacts [trivial, h.setCore.bumpFree]

theorem State.Inv.loadLinear {p q} (h : s.Inv) : Succeeds Prod.fst (s.loadLinear p q) := by
  unfold State.loadLinear
  extract_lets +onlyGivenNames _ _
  split
  exacts [trivial, h.setCore.bumpFree]

theorem State.Inv.readOutcome {p e q m} (h : s.Inv) : (s.readOutcome p e q m).1.Inv := by
  unfold State.readOutcome
  split
  · rename_i s1 heq
    exact (State.Inv.of_fst h.readErrors heq)
  · rename_i s1 heq
    exact (State.Inv.of_fst h.readErrors heq).faultHead

theorem State.Inv.startHead {p e op m k} (h : s.Inv) (hk : ∀ {t q}, State.Inv t → Succeeds Prod.fst (k t q)) :
    (s.startHead p e op m k).Inv := by
  obtain ⟨-, e⟩ | ⟨q, -, ⟨-, e⟩ | ⟨-, -, e⟩ | ⟨-, -, e⟩⟩ := startHead_cases s p e op m k <;> rw [e]
  exacts [h, h, h.readOutcome, h.readOutcome.startFrame (hk h.readOutcome)]

theorem State.Inv.writeCells {ps cells} (h : s.Inv) : (s.writeCells ps cells).Inv := h.foldl fun hu => hu.pieceWrite

theorem State.Inv.writeRow {ps fmt r o} (h : s.Inv) : (s.writeRow ps fmt r o).Inv := by
  unfold State.writeRow
  extract_lets +onlyGivenNames _ s2
  have hs2 : s2.Inv := h.writeCells.writeCells
  exact .ite hs2.pieceWrite hs2

theorem State.Inv.storeRange {p q o off n align write} (h : s.Inv) : Settled (fun _ => s) (s.storeRange p q o off n align write) := by
  unfold State.storeRange
  split <;> exact h

theorem State.Inv.spillRange {p q off n} (h : s.Inv) : Settled (fun _ => s) (s.spillRange p q off n) :=
  .ite h h.storeRange

theorem State.Inv.writeWide {p q ps fmt r o} (h : s.Inv) : Settled id (s.writeWide p q ps fmt r o) := by
  unfold State.writeWide
  split
  · rename_i heq
    exact h.spillRange.of_error heq
  · split
    · exact h.memUncorrectable
    · extract_lets _ s1
      have hs1 : s1.Inv := h.pieceWrite
      refine .ite hs1 ?_
      split
      · rename_i heq
        exact hs1.spillRange.of_error heq
      · exact State.Inv.update hs1.pieceWrite.writeCells.pieceWrite.pieceWrite

theorem State.Inv.storeRowAt {p q ps r dr} (h : s.Inv) : Settled Prod.fst (s.storeRowAt p q ps r dr) := by
  unfold State.storeRowAt
  extract_lets _ _ _ _ _ _
  refine .ite ?_ h.writeRow
  split
  · rename_i heq
    exact h.writeWide.of_error heq
  · rename_i heq
    exact h.writeWide.of_ok heq

theorem State.Inv.storeRows {p q ps r n w} (h : s.Inv) : Settled Prod.fst (s.storeRows p q ps r n w) := by
  induction n generalizing s r w with
  | zero => exact h
  | succ n ih =>
    unfold State.storeRows
    split
    · rename_i heq
      exact h.storeRowAt.of_error heq
    · rename_i heq
      exact ih (h.storeRowAt.of_ok heq)

theorem State.Inv.storeTile {p q} (h : s.Inv) : Settled Prod.fst (s.storeTile p q) := by
  unfold State.storeTile
  extract_lets _
  split
  · rename_i heq
    exact h.storeRange.of_error heq
  · extract_lets s0
    have hs0 : s0.Inv := h.foldl fun hu => hu.zero
    split
    · rename_i heq
      exact hs0.storeRows.of_error heq
    · rename_i heq
      exact hs0.storeRows.of_ok heq

theorem State.Inv.scatterRows {p q ixs i n w} (h : s.Inv) : Settled Prod.fst (s.scatterRows p q ixs i n w) := by
  induction n generalizing s i w with
  | zero => exact h
  | succ n ih =>
    refine Settled.ite (ih h) ?_
    split
    · rename_i heq
      exact h.storeRange.of_error heq
    · split
      · rename_i heq
        exact h.storeRowAt.of_error heq
      · rename_i heq
        exact ih (h.storeRowAt.of_ok heq)

theorem State.Inv.storeScatter {p q} (h : s.Inv) : Settled Prod.fst (s.storeScatter p q) := by
  unfold State.storeScatter
  extract_lets
  split
  · rename_i heq
    exact h.storeRange.of_error heq
  · split
    · rename_i heq
      exact h.scatterRows.of_error heq
    · rename_i heq
      exact h.scatterRows.of_ok heq

theorem State.Inv.addRow {ps r c vs} (h : s.Inv) : (s.addRow ps r c vs).Inv := by
  induction vs generalizing s c with
  | nil => exact h
  | cons v rest ih => exact ih h.pieceWrite

theorem State.Inv.scatterAddRows {p q ixs i n w} (h : s.Inv) : Settled Prod.fst (s.scatterAddRows p q ixs i n w) := by
  induction n generalizing s i w with
  | zero => exact h
  | succ n ih =>
    refine Settled.ite (ih h) ?_
    split
    · rename_i heq
      exact h.storeRange.of_error heq
    · exact ih h.addRow

theorem State.Inv.storeScatterAdd {p q} (h : s.Inv) : Settled Prod.fst (s.storeScatterAdd p q) := by
  unfold State.storeScatterAdd
  extract_lets
  split
  · rename_i heq
    exact h.storeRange.of_error heq
  · split
    · rename_i heq
      exact h.scatterAddRows.of_error heq
    · rename_i heq
      exact h.scatterAddRows.of_ok heq

theorem State.Inv.storeLinear {p q} (h : s.Inv) : Settled Prod.fst (s.storeLinear p q) := by
  unfold State.storeLinear
  extract_lets
  split
  · rename_i heq
    exact h.storeRange.of_error heq
  · exact h.writePieces

theorem State.Inv.fingerprint {c a b} (h : s.Inv) : (s.fingerprint c a b).Inv := .ite h (.update (State.Inv.update h))

theorem State.Inv.fingerprintFrame {p q} (h : s.Inv) : (s.fingerprintFrame p q).Inv := by
  unfold State.fingerprintFrame
  extract_lets +onlyGivenNames _
  split
  exacts [h.foldl (fun hu => hu.fingerprint), h]

theorem State.Inv.endStore {p q r} (h : s.Inv) (k : Settled Prod.fst r) : (s.endStore p q r).Inv := by
  cases r with
  | error x => exact .ite h (State.Inv.bumpFree (.faultHead k))
  | ok x =>
    have hf : (x.1.fingerprintFrame p q).Inv := .fingerprintFrame k
    exact (hf.startFrame (r := .ok (_, x.2)) hf).bumpFree

theorem State.Inv.startStore {p op m k} (h : s.Inv) (hk : ∀ {t q}, State.Inv t → Settled Prod.fst (k t q)) :
    (s.startStore p op m k).Inv := by
  unfold State.startStore
  split
  · exact h
  · refine .ite h ?_
    split
    · rename_i s1 heq
      exact .of_fst h.readOutcome heq
    · rename_i s1 heq
      exact h.endStore (hk (.of_fst h.readOutcome heq))

theorem State.Inv.moveSpills {src dst n} (h : s.Inv) : (s.moveSpills src dst n).Inv := .update h

theorem State.Inv.copyFrame {p q} (h : s.Inv) : Succeeds Prod.fst (s.copyFrame p q) := by
  unfold State.copyFrame
  extract_lets +onlyGivenNames _
  split
  · exact trivial
  · split
    exacts [trivial, h.writePieces.moveSpills]

theorem execCopy_keeps {p m} (h : s.Inv) : Keeps (execCopy p m s) := by
  unfold execCopy
  split
  exacts [h, State.Inv.ite h (h.startHead (fun hu => hu.copyFrame))]

/-! ### Matrix engines -/

theorem State.Inv.mmaFrame {p q} (h : s.Inv) : Succeeds Prod.fst (s.mmaFrame p q) := .ite trivial h.setCore
theorem State.Inv.finFrame {p q} (h : s.Inv) : Succeeds Prod.fst (s.finFrame p q) := h.setCore

/-! ### The vector engine -/

theorem State.Inv.chainFrame {p q} (h : s.Inv) : Succeeds Prod.fst (s.chainFrame p q) := by
  unfold State.chainFrame
  extract_lets f c d
  clear_value f c d
  exact .ite trivial (.ite trivial (.ite trivial h.setCore))

theorem execChain_keeps {p} (h : s.Inv) : Keeps (execChain p s) := by
  unfold execChain
  split
  · exact h
  · split
    · exact h.faultHead
    · rename_i r heq
      have hr : r.1.Inv := h.chainFrame.of_ok heq
      exact (h.startFrame (r := .ok r) hr).bumpFree.bumpFree

/-! ### KV pages -/

theorem State.Inv.setPool {c p} (h : s.Inv) : (s.setPool c p).Inv := by
  unfold State.setPool
  split
  exacts [h.setCtx, h]

theorem State.Inv.setEntry {c m i g} (h : s.Inv) : (s.setEntry c m i g).Inv := .ite h.setPool h.setPool.writeOwned

theorem State.Inv.dropEntry {c m i busy} (h : s.Inv) : (s.dropEntry c m i busy).Inv := by
  unfold State.dropEntry
  split
  exacts [h, h.setEntry.setPool]

theorem State.Inv.dropEntries {c m busy which} (h : s.Inv) : (s.dropEntries c m busy which).Inv := h.foldl fun hu => hu.dropEntry
theorem State.Inv.takeList {c m} (h : s.Inv) : (s.takeList c m).Inv := h.setPool
theorem State.Inv.releaseList {c m busy} (h : s.Inv) : (s.releaseList c m busy).Inv := h.dropEntries.setPool
theorem State.Inv.copyPage {c src dst} (h : s.Inv) : (s.copyPage c src dst).Inv := h.foldl fun hu => hu.writeCtx

theorem State.Inv.copyFails {c m d} (h : s.Inv) : (s.copyFails c m d).Inv := by
  unfold State.copyFails
  extract_lets +onlyGivenNames s1 _
  have hs1 : s1.Inv := h.memUncorrectable
  exact .update hs1

theorem State.Inv.applyGrant {c g} (h : s.Inv) : (s.applyGrant c g).Inv := by
  unfold State.applyGrant
  split
  · exact h.setEntry
  · extract_lets +onlyGivenNames s0 s1 p e _ p1 s2 s3
    have hs0 : s0.Inv := by
      dsimp only [s0]
      split
      exacts [h.copyFails, h]
    have hs2 : s2.Inv := hs0.copyPage.setPool.setEntry
    exact .update hs2.setPool

theorem State.Inv.insertBlocks {c m kvlen} (h : s.Inv) : (s.insertBlocks c m kvlen).Inv := by
  unfold State.insertBlocks
  split
  · exact h
  · extract_lets +onlyGivenNames r n
    refine .ite h ?_
    extract_lets +onlyGivenNames _ _
    split
    exacts [h, h.setPool]

theorem State.Inv.registerHandle {c src n} (h : s.Inv) : Answers Prod.snd (s.registerHandle c src n) := by
  unfold State.registerHandle
  extract_lets +onlyGivenNames _
  split
  · extract_lets +onlyGivenNames gs s1 serial q
    have hs1 : s1.Inv := h.takeList.foldl fun hu => hu.setEntry.setPool
    exact hs1.setPool
  · exact trivial

theorem State.Inv.releaseHandle {c i} (h : s.Inv) : (s.releaseHandle c i).Inv := by
  unfold State.releaseHandle
  split
  exacts [h, h.releaseList.setPool]

/-! ### Slots -/

theorem State.Inv.setSuper {c e} (h : s.Inv) : (s.setSuper c e).Inv := by
  unfold State.setSuper
  split
  exacts [h, h.setCtx.writeCtx]

theorem State.Inv.reserveSuper {c start n e} (h : s.Inv) : (s.reserveSuper c start n e).2.Inv := by
  unfold State.reserveSuper
  extract_lets _ _ _
  split
  · exact h
  · extract_lets s1
    have hs1 : s1.Inv := h.setCtx.setCreg
    dsimp only
    exact hs1.writeCtx

theorem State.Inv.moveTail {c} (h : s.Inv) : (s.moveTail c).Inv := by
  unfold State.moveTail
  split
  exacts [h, h.setCtx.setCreg]

theorem State.Inv.ringWrite {i rec'} (h : s.Inv) : (s.ringWrite i rec').Inv := by
  unfold State.ringWrite
  extract_lets +onlyGivenNames _
  refine .ite h ?_
  extract_lets +onlyGivenNames _ _ _ s2
  have hs2 : s2.Inv := h.setSlot.write
  split
  exacts [hs2, hs2.postOp]

theorem State.Inv.recordToken {i t} (h : s.Inv) : (s.recordToken i t).Inv := by
  unfold State.recordToken
  extract_lets +onlyGivenNames _ _
  split
  · exact h.ringWrite
  · refine .ite h.ringWrite ?_
    extract_lets +onlyGivenNames _ _
    split
    exacts [h.ringWrite, h.ringWrite.setCtx.writeCtx]

theorem State.Inv.syncSuper {i} (h : s.Inv) : (s.syncSuper i).Inv := by
  unfold State.syncSuper
  extract_lets +onlyGivenNames _
  split
  exacts [h, .ite h h.setSuper]

theorem State.Inv.closeSlot {i status} (h : s.Inv) : (s.closeSlot i status).Inv := by
  unfold State.closeSlot
  extract_lets +onlyGivenNames _
  refine .ite h ?_
  extract_lets +onlyGivenNames s1
  have hs1 : s1.Inv := h.setSlot.ringWrite
  split
  exacts [hs1, .ite hs1 hs1.setSuper]

theorem State.Inv.postSequence {i origin fault} (h : s.Inv) : (s.postSequence i origin fault).Inv := h.answer

theorem State.Inv.freeSlot {i origin fault} (h : s.Inv) : (s.freeSlot i origin fault).Inv := by
  unfold State.freeSlot
  extract_lets +onlyGivenNames _
  refine .ite h ?_
  extract_lets +onlyGivenNames _ _ s2 s3
  have hs2 : s2.Inv := by
    dsimp only [s2]
    split
    exacts [h.postSequence.releaseList, h.postSequence]
  have hs3 : s3.Inv := hs2.foldl fun hu => hu.setPool
  exact .update hs3

theorem State.Inv.endSlot {i status} (h : s.Inv) : (s.endSlot i status).Inv := h.closeSlot.freeSlot
theorem State.Inv.endSlots {is status} (h : s.Inv) : (s.endSlots is status).Inv := h.foldl fun hu => hu.endSlot
theorem State.Inv.endDamagedSlot {i} (h : s.Inv) : (s.endDamagedSlot i).Inv := .ite h.endSlot h
theorem State.Inv.endDamaged {c} (h : s.Inv) : (s.endDamaged c).Inv := h.foldl fun hu => hu.endDamagedSlot

theorem State.Inv.adoptPages {c m k gs} (h : s.Inv) : (s.adoptPages c m k gs).Inv := by
  induction gs generalizing s k with
  | nil => exact h
  | cons g rest ih => exact ih h.setEntry

theorem State.Inv.settleMarked {i} (h : s.Inv) : (s.settleMarked i).Inv := .ite h (.ite h.endSlot (.ite h.endSlot h))

theorem State.Inv.bindSlot {i} (h : s.Inv) : (s.bindSlot i).Inv := by
  unfold State.bindSlot
  extract_lets +onlyGivenNames _ _ _
  split
  · refine .ite h ?_
    extract_lets +onlyGivenNames _ _ _ _ _ _ _ _ _ s2 _ _ s3 _ _ s4 _
    have hs2 : s2.Inv := h.setSlot.adoptPages.foldl fun hu => hu.setPool
    have hs3 : s3.Inv := hs2.setPool.adoptPages
    have hs4 : s4.Inv := hs3.setSlot.syncSuper
    exact hs4.setPool.endDamagedSlot
  · exact h

theorem State.Inv.bindWaiting {c} (h : s.Inv) : (s.bindWaiting c).Inv := .ite (h.foldl (fun hu => hu.bindSlot)) h

/-! ### Samplers -/

theorem State.Inv.setStep {t} (h : s.Inv) : (s.setStep t).Inv := .update h

theorem State.Inv.takeRow {t p w k} (h : s.Inv) : (s.takeRow t p w k).Inv := by
  unfold State.takeRow
  extract_lets +onlyGivenNames _ _ _ _ _ _ _ _ _ s2
  have hs2 : s2.Inv := .update h.setStep
  exact .ite hs2.setSlot hs2

theorem execSampleRow_keeps {sampler slot row} (h : s.Inv) : Keeps (execSampleRow sampler slot row s) := by
  unfold execSampleRow
  split
  · exact h
  · split
    exacts [State.Inv.ite h.takeRow h, h]

/-! ### The share window -/

theorem State.Inv.rollShare (h : s.Inv) : s.rollShare.Inv := .ite (.update h) h

/-! ### The builder -/

theorem State.Inv.countStep {c x key due items} (h : s.Inv) : (s.countStep c x key due items).Inv :=
  h.setCtx.foldl fun hu => hu.setSlot

theorem State.Inv.makeStep {c x key mask due b} (h : s.Inv) : (s.makeStep c x key mask due b).Inv := by
  unfold State.makeStep
  extract_lets +onlyGivenNames _ _ _ _ s1 _ _ s3
  have hs1 : s1.Inv := h.countStep.setPool
  have hs3 : s3.Inv := .foldl (.foldl (.update hs1) (fun hu => hu.applyGrant)) fun hu => hu.setSlot
  exact .update hs3

theorem State.Inv.buildFor {mask n} (h : s.Inv) : (s.buildFor mask n).Inv := by
  induction n generalizing s with
  | zero => exact h
  | succ n ih =>
    unfold State.buildFor
    split
    · exact h
    · split
      · exact h
      · split
        · exact h
        · split
          · exact h
          · refine .ite h.makeStep (.ite h ?_)
            split
            exacts [h, ih (.update h.endSlot)]

/-! ### Runs of a step -/

theorem State.Inv.putScalars {k step f} (h : s.Inv) : (s.putScalars k step f).Inv := .update h

theorem State.Inv.startRun {p ctx mask index k stamp desc step scalar scale} (h : s.Inv) :
    (s.startRun p ctx mask index k stamp desc step scalar scale).Inv :=
  (h.foldl (fun hu => hu.putScalars)).foldl fun hu => .ite hu.setCore.startCore hu

theorem State.Inv.startGenRun {t} (h : s.Inv) : (s.startGenRun t).Inv := by
  unfold State.startGenRun
  split
  exacts [h, .startRun (.update h.setStep)]

theorem State.Inv.clearCores {cores} (h : s.Inv) : (s.clearCores cores).Inv := h.foldl fun hu => .ite hu hu.setCore
theorem State.Inv.suspect {p} (h : s.Inv) : (s.suspect p).Inv := .ite h (.report (.update h))
theorem State.Inv.suspectRun {ctx r} (h : s.Inv) : (s.suspectRun ctx r).Inv := (h.foldl (fun hu => hu.suspect)).tellAll
theorem State.Inv.countMinority {run ctx} (h : s.Inv) : (s.countMinority run ctx).Inv := .report (.update h)
theorem State.Inv.countNoMajority {ctx} (h : s.Inv) : (s.countNoMajority ctx).Inv := .report (.update h)

theorem State.Inv.damageVersions {c tags} (h : s.Inv) : (s.damageVersions c tags).Inv := by
  unfold State.damageVersions
  split
  exacts [h, h.setCtx]

theorem State.Inv.failStep {t status} (h : s.Inv) : (s.failStep t status).Inv := h.setStep

theorem State.Inv.rerun {t} (h : s.Inv) : (s.rerun t).Inv := by
  unfold State.rerun
  extract_lets +onlyGivenNames _ _ s1
  have hs1 : s1.Inv := .learnStamp (.update h)
  exact .ite hs1.failStep ((hs1.foldl (fun hu => hu.setSlot)).setStep)

theorem State.Inv.decideRun {t r} (h : s.Inv) : (s.decideRun t r).Inv := by
  unfold State.decideRun
  extract_lets +onlyGivenNames _ _ _ _ _ _ _
  split
  · exact h.clearCores.failStep
  · extract_lets +onlyGivenNames own mem places tags lost ends s1' s2 t2 needs agree
    have hs1' : s1'.Inv := h.clearCores.damageVersions
    have hs2 : s2.Inv := .ite hs1'.suspectRun hs1'
    refine .ite hs2.setStep ?_
    refine .ite ?_ (.ite (((hs2.foldl (fun hu => hu.suspectRun)).countNoMajority).failStep) hs2.rerun)
    extract_lets +onlyGivenNames _ s3 s4
    have hs3 : s3.Inv := hs2.foldl fun hu => hu.suspectRun
    have hs4 : s4.Inv := by
      dsimp only [s4]
      split
      exacts [hs3.countMinority, hs3]
    exact hs4.setStep

theorem execGenerationGuardDecision_keeps {ctx} (h : s.Inv) : Keeps (execGenerationGuardDecision ctx s) := by
  unfold execGenerationGuardDecision
  split
  exacts [h, State.Inv.ite h.decideRun h]

/-! ### The commit -/

theorem State.Inv.commitPosition {i tag pos token} (h : s.Inv) : (s.commitPosition i tag pos token).Inv := by
  unfold State.commitPosition
  extract_lets +onlyGivenNames _
  split
  exacts [h, h.setPool]

theorem State.Inv.commitPositions {i tag pos toks} (h : s.Inv) : (s.commitPositions i tag pos toks).Inv := by
  induction toks generalizing s pos with
  | nil => exact h
  | cons tok rest ih => exact ih h.commitPosition

theorem State.Inv.appendToken {i version x token} (h : s.Inv) : (s.appendToken i version x token).1.Inv := h.recordToken.setSlot

theorem State.Inv.appendTokens {i version xs} (h : s.Inv) : (s.appendTokens i version xs).1.Inv := by
  induction xs generalizing s with
  | nil => exact h
  | cons x rest ih =>
    unfold State.appendTokens
    split
    · rename_i heq
      exact .of_fst h.appendToken heq
    · rename_i heq
      exact ih (.of_fst h.appendToken heq)

theorem State.Inv.giveReward {t i row} (h : s.Inv) : (s.giveReward t i row).Inv := by
  unfold State.giveReward
  extract_lets +onlyGivenNames _
  split
  exacts [.ite h.setSuper h, h]

theorem State.Inv.moveVersion {i t} (h : s.Inv) : (s.moveVersion i t).Inv := .ite h h.setSlot.syncSuper

theorem State.Inv.settleSlot {i ended nonfinite} (h : s.Inv) : (s.settleSlot i ended nonfinite).Inv := by
  unfold State.settleSlot
  extract_lets +onlyGivenNames _
  split
  exacts [h.closeSlot, .ite h.closeSlot (.ite h.closeSlot (.ite h.closeSlot (.ite h.setSlot h)))]

theorem State.Inv.commitItem {t n w} (h : s.Inv) : (s.commitItem t n w).Inv := by
  unfold State.commitItem
  extract_lets +onlyGivenNames _
  refine .ite h ?_
  extract_lets +onlyGivenNames _ _ _ s0 _ _
  have hs0 : s0.Inv := h.moveVersion.setSlot
  refine .ite ?_ ?_
  · extract_lets +onlyGivenNames a taken inputs
    have ha : a.1.Inv := hs0.appendTokens
    exact ha.commitPositions.settleSlot
  · extract_lets +onlyGivenNames s1 _ s2
    have hs1 : s1.Inv := hs0.commitPositions
    refine .ite hs1.setSlot.settleSlot ?_
    refine .ite hs1.setSlot.giveReward.settleSlot ?_
    extract_lets +onlyGivenNames _ a
    have ha : a.1.Inv := hs1.setSlot.setSlot.appendTokens
    exact ha.settleSlot

theorem State.Inv.commitItems {t n ws} (h : s.Inv) : (s.commitItems t n ws).Inv := by
  induction ws generalizing s n with
  | nil => exact h
  | cons w rest ih => exact ih h.commitItem

theorem execStepCommit_keeps {ctx} (h : s.Inv) : Keeps (execStepCommit ctx s) := by
  unfold execStepCommit
  split
  exacts [h, State.Inv.ite ((h.commitItems.foldl (fun hu => hu.closeSlot)).setStep) h]

theorem State.Inv.takeConsumer {i c} (h : s.Inv) : (s.takeConsumer i c).Inv := by
  unfold State.takeConsumer
  extract_lets +onlyGivenNames _ _
  refine .ite h ?_
  split
  exacts [h.setSlot, .ite h.setSlot.report (.ite h.setSlot.endDamagedSlot h.setSlot)]

theorem State.Inv.readConsumer {i} (h : s.Inv) : (s.readConsumer i).Inv := by
  unfold State.readConsumer
  extract_lets +onlyGivenNames _
  split
  exacts [h, h.setSlot.postOp]

end Sys2Proof.Machine
end

section
/-! SUPPORT. Canonical memory through admin commands, the weight store, versions, loads and turns. -/

namespace Sys2Proof.Machine

open Sys2Proof.Laws

variable {s : State}

/-! ### Admin commands -/

theorem State.Inv.attestWith {t m nonce} (h : s.Inv) : (s.attestWith t m nonce).Inv := h.writeWindow.writeWindow.finish

theorem State.Inv.takeIdentify {m t} (h : s.Inv) : (s.takeIdentify m t).Inv := by
  unfold State.takeIdentify
  refine .ite ?_ (.ite (.ite h.finish h.readWindow) (.ite h.writeWindow.finish h.finish))
  split
  exacts [h.transmit.finish, h.finish]

theorem State.Inv.takeNetConfig {m t} (h : s.Inv) : (s.takeNetConfig m t).Inv := .update h.finish

theorem State.Inv.takeQpCreate {m t} (h : s.Inv) : (s.takeQpCreate m t).Inv := by
  unfold State.takeQpCreate
  refine .ite h.finish ?_
  extract_lets +onlyGivenNames _ b _
  have hb : b.2.Inv := h.pickNumber.fresh
  exact hb.setQp.finish

theorem State.Inv.eraseQp {n} (h : s.Inv) : (s.eraseQp n).Inv := .update h
theorem State.Inv.takeQpDestroy {m t} (h : s.Inv) : (s.takeQpDestroy m t).Inv := .ite h.finish (.ite h.finish h.eraseQp.finish)

theorem State.Inv.takeMboxBind {m t} (h : s.Inv) : (s.takeMboxBind m t).Inv := by
  unfold State.takeMboxBind
  extract_lets +onlyGivenNames _
  split
  exacts [h.finish, .ite h.finish (.ite h.finish (.ite h.finish h.setMailbox.flush.finish))]

theorem State.Inv.takeMemRegister {m t} (h : s.Inv) : (s.takeMemRegister m t).Inv := by
  unfold State.takeMemRegister
  extract_lets +onlyGivenNames _ _
  split
  exacts [h.finish, .ite h.finish (.ite h.finish (.finish (.update h.pickNumber)))]

theorem State.Inv.takeMemDeregister {m t} (h : s.Inv) : (s.takeMemDeregister m t).Inv :=
  .ite h.finish (.ite h.finish (.finish (.update h)))

theorem State.Inv.setLocks {v} (h : s.Inv) : (s.setLocks v).Inv := .update h
theorem State.Inv.takeLock {m t} (h : s.Inv) : (s.takeLock m t).Inv := h.setLocks.finish
theorem State.Inv.takeCtxSet {m t} (h : s.Inv) : (s.takeCtxSet m t).Inv := h.setCreg.finish
theorem State.Inv.takeShareMode {m t} (h : s.Inv) : (s.takeShareMode m t).Inv := .finish (.update h)

/-! ### The Ethernet link -/

theorem State.Inv.ethFault {bit} (h : s.Inv) : (s.ethFault bit).Inv := .update h

theorem State.Inv.ethDown (h : s.Inv) : s.ethDown.Inv := by
  unfold State.ethDown
  extract_lets +onlyGivenNames _ s1
  have hs1 : s1.Inv := h.report.ethFault
  exact .update hs1

theorem State.Inv.writeEthCtrl {v} (h : s.Inv) : (s.writeEthCtrl v).Inv := by
  unfold State.writeEthCtrl
  refine .ite h.ignored ?_
  extract_lets +onlyGivenNames s1
  have hs1 : s1.Inv := .ite h.ethDown h
  exact .update hs1

/-! ### What arrives on the links -/

theorem State.Inv.linkCopyFrame {p q} (h : s.Inv) : Succeeds Prod.fst (s.linkCopyFrame p q) := by
  unfold State.linkCopyFrame
  extract_lets +onlyGivenNames _ _
  split
  · exact trivial
  · extract_lets +onlyGivenNames k dst
    refine Succeeds.ite trivial ?_
    extract_lets +onlyGivenNames _ _ _ _ _ _ _ _ s1 _ s2 _ _
    have hs1 : s1.Inv := h.foldl fun hu => hu.originate
    have hs2 : s2.Inv := .ite hs1.originate hs1
    exact State.Inv.update hs2

theorem State.Inv.dlFault {bit} (h : s.Inv) : (s.dlFault bit).Inv := .update h
theorem State.Inv.answerStale {b} (h : s.Inv) : (s.answerStale b).Inv := h.replyTo.dlFault

theorem State.Inv.forward {k b} (h : s.Inv) : (s.forward k b).Inv := by
  unfold State.forward
  split
  exacts [h, .ite h.sendOn (.ite h.answerDone h)]

theorem State.Inv.receive {k b ty f} (h : s.Inv) (hf : ∀ {t}, State.Inv t → (f t).Inv) : (s.receive k b ty f).Inv := by
  unfold State.receive
  extract_lets _ _ s1
  have hs1 : s1.Inv := h.setLink.sendLack
  refine .ite h (.ite h.sendLack (.ite h ?_))
  exact .ite (hf hs1) (.ite hs1.answerStale (.ite hs1.forward (.ite hs1.answerStale (hf hs1))))

theorem State.Inv.deliverData {b} (h : s.Inv) : (s.deliverData b).Inv := by
  unfold State.deliverData
  extract_lets +onlyGivenNames _
  split
  · exact h.answerDone
  · rename_i s' heq
    exact .ite (.update h) (.ite ((h.writeRange.of_some heq).answerDone) (h.writeRange.of_some heq))

theorem State.Inv.deliverSignal {b} (h : s.Inv) : (s.deliverSignal b).Inv := by
  unfold State.deliverSignal
  extract_lets +onlyGivenNames _
  split
  · rename_i s' heq
    exact (h.remoteSignal.of_some heq).answerDone
  · exact h.answerDone

theorem State.Inv.byStamp {k b deliver} (h : s.Inv) (hk : ∀ {t}, State.Inv t → (deliver t).Inv) : (s.byStamp k b deliver).Inv :=
  .ite (hk h) (.ite (.ite (.dlFault (.update h)) (.update h)) h.answerStale)

theorem State.Inv.releaseHeld (h : s.Inv) : s.releaseHeld.Inv :=
  .foldl (.foldl (.update h) (fun hu => hu.sendLack)) fun hu => .ite hu.deliverData hu.deliverSignal

theorem State.Inv.startStamp {stamp} (h : s.Inv) : (s.startStamp stamp).Inv := .update h

theorem State.Inv.endTransfer {tag result} (h : s.Inv) : (s.endTransfer tag result).Inv := by
  unfold State.endTransfer
  split
  · exact h
  · extract_lets +onlyGivenNames _ s1 c mine
    refine .ite (.setCore (.update h)) ?_
    split
    exacts [.update h, .raiseFault (.setCore (.update h))]

/-! ### The weight store -/

theorem State.Inv.packWindow {t num d} (h : s.Inv) : (s.packWindow t num d).Inv := by
  unfold State.packWindow
  refine .ite h.finish ?_
  refine .ite h.finish ?_
  extract_lets +onlyGivenNames _
  split
  exacts [h.finish, .update h]

theorem State.Inv.takePackWrite {m t} (h : s.Inv) : (s.takePackWrite m t).Inv := h.readWindow

theorem execPackWriteComplete_keeps {packId} (h : s.Inv) : Keeps (execPackWriteComplete packId s) := by
  unfold execPackWriteComplete
  split
  exacts [h, State.Inv.finish (.update h)]

theorem State.Inv.removePack {num} (h : s.Inv) : (s.removePack num).Inv := by
  unfold State.removePack
  split
  exacts [h, .foldl (.update h) (fun hu => hu.finish)]

theorem State.Inv.settleDeletes {num} (h : s.Inv) : (s.settleDeletes num).Inv := .ite h.removePack h

theorem State.Inv.takePackDelete {m t} (h : s.Inv) : (s.takePackDelete m t).Inv := by
  unfold State.takePackDelete
  extract_lets +onlyGivenNames _
  split
  exacts [h.finish, .settleDeletes (.update h)]

theorem State.Inv.takePackQuery {m t} (h : s.Inv) : (s.takePackQuery m t).Inv := by
  unfold State.takePackQuery
  split <;> exact h.finish

theorem State.Inv.relocate {e} (h : s.Inv) : (s.relocate e).Inv := by
  unfold State.relocate
  extract_lets +onlyGivenNames _
  refine .ite h ?_
  split
  exacts [h, .update h]

theorem State.Inv.extentRead {e o} (h : s.Inv) : (s.extentRead e o).Inv := by
  unfold State.extentRead
  extract_lets +onlyGivenNames _ _ _ _ s3
  have hs3 : s3.Inv := .foldl (.foldl (.update h) (fun hu => hu.report)) fun hu => hu.report
  exact .ite hs3.relocate hs3

theorem execRelocationDone_keeps {extent} (h : s.Inv) : Keeps (execRelocationDone extent s) := by
  unfold execRelocationDone
  split
  exacts [h, State.Inv.report (.update h)]

/-! ### Versions and adapters -/

theorem State.Inv.setVersions {c k vs} (h : s.Inv) : (s.setVersions c k vs).Inv := by
  unfold State.setVersions
  split
  · split
    exacts [h.setCtx, h]
  · split
    exacts [.update h, h]

theorem State.Inv.putVersion {c k v} (h : s.Inv) : (s.putVersion c k v).Inv := h.setVersions

theorem State.Inv.giveTag {c k} (h : s.Inv) : (s.giveTag c k).2.Inv := by
  unfold State.giveTag
  extract_lets +onlyGivenNames _ _
  split
  · split
    exacts [h.setCtx, h]
  · split
    exacts [.update h, h]

theorem State.Inv.takeGranule {c a staging} (h : s.Inv) : Answers Prod.snd (s.takeGranule c a staging) :=
  .ite (Answers.map fun _ _ => State.Inv.update h) (Answers.map fun _ _ => State.Inv.update h)

theorem State.Inv.takeGranules {c staging as} (h : s.Inv) : Answers Prod.snd (s.takeGranules c staging as) := by
  induction as generalizing s with
  | nil => exact h
  | cons a rest ih =>
    unfold State.takeGranules
    split
    · trivial
    · rename_i g s1 heq
      have hs1 : s1.Inv := h.takeGranule.of_some heq
      split
      · trivial
      · rename_i heq'
        exact ((ih hs1).of_some heq' :)

theorem State.Inv.dropGranule {a g} (h : s.Inv) : (s.dropGranule a g).Inv := h.freeGranule
theorem State.Inv.dropGranules {gs} (h : s.Inv) : (s.dropGranules gs).Inv := h.foldl fun hu => hu.dropGranule

theorem State.Inv.writeGrans {gs a b} (h : s.Inv) : (s.writeGrans gs a b).Inv := by
  unfold State.writeGrans
  refine h.foldl fun hu => ?_
  split
  exacts [hu.write, hu]

theorem State.Inv.mapGrans {c readonly gs} (h : s.Inv) : (s.mapGrans c readonly gs).Inv := h.foldl fun hu => hu.mapGranule
theorem State.Inv.copyCtx {c src dst n} (h : s.Inv) : (s.copyCtx c src dst n).Inv := h.writeOwned

theorem State.Inv.refill {c a} (h : s.Inv) : (s.refill c a).Inv := by
  unfold State.refill
  split
  · rename_i g s1 heq
    exact (h.takeGranule.of_some heq).mapGranule
  · exact h

theorem State.Inv.moveMapping {c src dst} (h : s.Inv) : (s.moveMapping c src dst).Inv := h.unmap.changeXent.changeXent

theorem State.Inv.shelve {c k v at'} (h : s.Inv) : (s.shelve c k v at').Inv := by
  unfold State.shelve
  extract_lets +onlyGivenNames _ _ _ _ _ _ _ _ s4
  have hs4 : s4.Inv := (((h.foldl (fun hu => hu.copyCtx)).foldl (fun hu => hu.unmap)).foldl (fun hu => hu.moveMapping)).putVersion
  exact .ite (.update hs4) hs4

theorem State.Inv.clearShelf {c v} (h : s.Inv) : (s.clearShelf c v).Inv := .foldl (.ite h h.writeOwned) fun hu => hu.refill

theorem State.Inv.restore {c k v} (h : s.Inv) : Answers id (s.restore c k v) := by
  unfold State.restore
  refine Answers.ite h ?_
  extract_lets +onlyGivenNames _
  split
  · exact trivial
  · rename_i gs s1 heq
    exact (((((h.takeGranules.of_some heq).mapGrans).foldl (fun hu => hu.copyCtx)).foldl (fun hu =>
        hu.moveMapping)).clearShelf).putVersion

theorem State.Inv.releaseVersion {c v} (h : s.Inv) : (s.releaseVersion c v).Inv :=
  .ite h.dropGranules (.ite ((h.foldl (fun hu => hu.unmap)).clearShelf) (h.foldl (fun hu => hu.unmap)))

theorem State.Inv.markReadonly {c v ro} (h : s.Inv) : (s.markReadonly c v ro).Inv := h.foldl fun hu => .ite hu.changeXent hu

theorem State.Inv.removeVersion {c k tag} (h : s.Inv) : (s.removeVersion c k tag).Inv := by
  unfold State.removeVersion
  split
  · exact h
  · extract_lets +onlyGivenNames busy s1 s2 s3
    have hs2 : s2.Inv := h.setPool.releaseVersion
    have hs3 : s3.Inv := hs2.setVersions
    split
    · exact hs3
    · refine .ite hs3 ?_
      split
      exacts [hs3, hs3.putVersion.markReadonly]

theorem State.Inv.sweepKin {c k} (h : s.Inv) : (s.sweepKin c k).Inv := h.foldl fun hu => .ite hu hu.removeVersion
theorem State.Inv.sweepVersions {c} (h : s.Inv) : (s.sweepVersions c).Inv := .ite h (h.sweepKin.foldl (fun hu => hu.sweepKin))

theorem State.Inv.displace {c k v room} (h : s.Inv) : (s.displace c k v room).Inv := by
  unfold State.displace
  refine .ite h.removeVersion ?_
  extract_lets +onlyGivenNames s1
  have hs1 : s1.Inv := by
    dsimp only [s1]
    refine .ite h ?_
    split
    · exact h.shelve
    · split
      exacts [h.shelve, h]
  split
  exacts [hs1.putVersion, hs1]

theorem State.Inv.switchTo {c k tag package places scales gs room} (h : s.Inv) :
    (s.switchTo c k tag package places scales gs room).Inv := by
  unfold State.switchTo
  extract_lets +onlyGivenNames s1 _ _
  have hs1 : s1.Inv := by
    dsimp only [s1]
    split
    exacts [h.displace, h]
  split
  exacts [hs1.mapGrans, hs1.mapGrans.putVersion.sweepVersions]

theorem State.Inv.goneSlots {c k tag} (h : s.Inv) : (s.goneSlots c k tag).Inv := .update h.endSlots

theorem State.Inv.takeVersionRetire {m t} (h : s.Inv) : (s.takeVersionRetire m t).Inv := by
  unfold State.takeVersionRetire
  extract_lets +onlyGivenNames _ _ _
  split
  · exact h.finish
  · refine .ite h.finish ?_
    refine .ite h.finish ?_
    extract_lets +onlyGivenNames s1
    have hs1 : s1.Inv := h.goneSlots.tellAll
    exact .finish (.ite hs1 hs1.removeVersion)

theorem State.Inv.awaitBoundary {t m} (h : s.Inv) : (s.awaitBoundary t m).Inv := .update h

theorem State.Inv.takeVersionGrant {m t} (h : s.Inv) : (s.takeVersionGrant m t).Inv := by
  unfold State.takeVersionGrant
  extract_lets +onlyGivenNames _ _
  split
  · split
    · exact h.finish
    · split
      · exact h.finish
      · refine .ite h.finish ?_
        refine .ite h.finish ?_
        refine .ite h.awaitBoundary ?_
        extract_lets +onlyGivenNames _ s1 _ _ _
        have hs1 : s1.Inv := h.giveTag.putVersion.markReadonly
        exact (((hs1.setVersions.foldl (fun hu => hu.changeXent)).tellAll).bindWaiting).finish
  · exact h.finish

theorem State.Inv.takeVersionRevoke {m t} (h : s.Inv) : (s.takeVersionRevoke m t).Inv := by
  unfold State.takeVersionRevoke
  extract_lets +onlyGivenNames _ _ _
  split
  · exact h.finish
  · refine .ite h.finish ?_
    extract_lets +onlyGivenNames s1
    have hs1 : s1.Inv := h.goneSlots.tellAll
    exact .finish (.ite hs1.putVersion hs1.removeVersion)

theorem State.Inv.takeAdapterRelease {m t} (h : s.Inv) : (s.takeAdapterRelease m t).Inv := by
  unfold State.takeAdapterRelease
  extract_lets +onlyGivenNames _ _
  split
  · exact h.finish
  · refine .ite h.finish ?_
    refine .ite h.finish ?_
    refine .ite h.awaitBoundary ?_
    extract_lets +onlyGivenNames s1
    have hs1 : s1.Inv := h.foldl fun hu => hu.removeVersion
    exact .finish (.tellAll (.update hs1))

theorem State.Inv.retryWaits (h : s.Inv) : s.retryWaits.Inv :=
  .foldl (.update h) fun hu => .ite hu.takeVersionGrant hu.takeAdapterRelease

/-! ### Loads -/

theorem State.Inv.writeFate {c report p source peer started} (h : s.Inv) : (s.writeFate c report p source peer started).Inv := by
  unfold State.writeFate
  extract_lets +onlyGivenNames _ s1
  have hs1 : s1.Inv := .ite h.writeCtx h.tell
  exact .ite (.update hs1) hs1

theorem State.Inv.setLoad {l} (h : s.Inv) : (s.setLoad l).Inv := .update h
theorem State.Inv.eraseLoad {l} (h : s.Inv) : (s.eraseLoad l).Inv := .update h
theorem State.Inv.endRequests {num shard} (h : s.Inv) : (s.endRequests num shard).Inv := .update h
theorem State.Inv.askHost {num shard} (h : s.Inv) : (s.askHost num shard).Inv := .eventAdmin (.update h)

theorem State.Inv.failLoad {l status} (h : s.Inv) : (s.failLoad l status).Inv := by
  unfold State.failLoad
  extract_lets +onlyGivenNames _ _ _ s2 s3 s4
  have hs2 : s2.Inv := .endRequests (.dropGranules (.eraseLoad (.ite (h.foldl (fun hu => hu.writeFate)) h)))
  have hs3 : s3.Inv := .ite hs2 hs2.setVersions
  have hs4 : s4.Inv := by
    dsimp only [s4]
    split
    exacts [.ite (.update hs3) hs3, hs3]
  exact hs4.settleDeletes.tellEnd.finish

theorem State.Inv.deliverShard {gs places shard b} (h : s.Inv) : (s.deliverShard gs places shard b).Inv := by
  unfold State.deliverShard
  split
  exacts [.ite h.writeGrans h, h]

theorem State.Inv.storeReads {num p d reads} (h : s.Inv) : (s.storeReads num p d reads).Inv := by
  unfold State.storeReads
  split
  exacts [h.foldl (fun hu => hu.extentRead), h]

theorem State.Inv.loadShard {l shard d b} (h : s.Inv) : (s.loadShard l shard d b).Inv := by
  unfold State.loadShard
  split
  · extract_lets +onlyGivenNames own
    refine .ite h ?_
    extract_lets +onlyGivenNames _ _ _ s2 _ s3
    have hs2 : s2.Inv := by
      dsimp only [s2]
      split
      exacts [h.setLoad.deliverShard, h.setLoad]
    have hs3 : s3.Inv := .ite (.update hs2) hs2
    split
    exacts [.endRequests (.ite hs3 hs3.writeFate), .ite hs3.askHost hs3]
  · exact h

theorem State.Inv.readShard {l shard d reads} (h : s.Inv) : (s.readShard l shard d reads).Inv := by
  unfold State.readShard
  split
  exacts [.ite h.storeReads.loadShard h.loadShard, h]

theorem execHostWaitExpiry_keeps {request} (h : s.Inv) : Keeps (execHostWaitExpiry request s) := by
  unfold execHostWaitExpiry
  split
  · exact h
  · refine State.Inv.ite ?_ h
    split
    exacts [h.endRequests.loadShard, h.endRequests]

theorem State.Inv.finishTransfer {t r status} (h : s.Inv) : (s.finishTransfer t r status).Inv := h.answer

theorem State.Inv.takeShardSupply {m t} (h : s.Inv) : (s.takeShardSupply m t).Inv := by
  unfold State.takeShardSupply
  split
  · exact h.reject
  · refine .ite h.finishTransfer ?_
    split
    exacts [h.finishTransfer, .ite h.endRequests.loadShard.finishTransfer (.ite h.reject (.ite h.readWindow h.finishTransfer))]

theorem State.Inv.supplyWindow {t m data} (h : s.Inv) : (s.supplyWindow t m data).Inv := by
  unfold State.supplyWindow
  split
  · exact h
  · refine .ite h.finishTransfer ?_
    split
    exacts [h.loadShard.finishTransfer, h.endRequests.loadShard.finishTransfer, h.finishTransfer]

theorem State.Inv.supplyCorrupt {num shard} (h : s.Inv) : (s.supplyCorrupt num shard).Inv := by
  unfold State.supplyCorrupt
  split
  · exact h
  · split
    · exact h
    · split
      · exact h
      · rename_i m s1 heq
        exact ((h.endReading.of_some heq).finishTransfer).settle

theorem State.Inv.shelfFull (h : s.Inv) : s.shelfFull.Inv := .update h

theorem State.Inv.acceptLoad {t m mf c k kind} (h : s.Inv) : (s.acceptLoad t m mf c k kind).Inv := by
  unfold State.acceptLoad
  extract_lets +onlyGivenNames _ _ _
  split
  · exact h.finish
  · extract_lets +onlyGivenNames kin s1
    have hs1 : s1.Inv := by
      dsimp only [s1]
      split
      exacts [.ite h (.update h), h]
    refine .ite h.finish ?_
    split
    · exact h.finish
    · rename_i gs s2 heq
      split
      · exact h.shelfFull.finish
      · extract_lets +onlyGivenNames g shared s3 load
        have hg : g.2.Inv := .ite_snd (hs1.takeGranules.of_some heq) ((hs1.takeGranules.of_some heq).giveTag)
        have hs3 : s3.Inv := .ite hg hg.setVersions
        exact .tellAll (.wake (.update hs3))

theorem State.Inv.takeLoad {m t} (h : s.Inv) : (s.takeLoad m t).Inv := by
  unfold State.takeLoad
  extract_lets +onlyGivenNames _ _
  refine .ite h.finish ?_
  split
  · refine .ite h.finish ?_
    split
    exacts [h.finish, .ite h.finish (.ite h.finish h.acceptLoad)]
  · exact h.finish

theorem State.Inv.applyMaster {l} (h : s.Inv) : (s.applyMaster l).Inv := by
  unfold State.applyMaster
  extract_lets +onlyGivenNames _ _ _ package s0 _ _ s1
  have hs0 : s0.Inv := by
    dsimp only [s0]
    dsimp only [package]
    split
    exacts [h.foldl (fun hu => .ite hu (.ite hu.zero hu)), h]
  have hs1 : s1.Inv := by
    dsimp only [s1]
    exact .update ((hs0.foldl (fun hu => hu.unmap)).mapGrans)
  split
  exacts [hs1, hs1.setCtx]

theorem State.Inv.switchLoads {c} (h : s.Inv) : (s.switchLoads c).Inv :=
  .ite h ((h.foldl (fun hu => .ite hu.eraseLoad.applyMaster hu.eraseLoad.switchTo)).bindWaiting)

theorem State.Inv.doneLoad {l} (h : s.Inv) : (s.doneLoad l).Inv := h.setLoad.settleDeletes.switchLoads
theorem State.Inv.cancelLoad {c num} (h : s.Inv) : Answers id (s.cancelLoad c num) := Answers.map fun _ _ => h.failLoad

/-! ### Turns -/

theorem State.Inv.parkSlots (h : s.Inv) : s.parkSlots.Inv := .update h

theorem State.Inv.reenter (h : s.Inv) : s.reenter.Inv := by
  unfold State.reenter
  extract_lets +onlyGivenNames _ _ s2
  have hs2 : s2.Inv := .foldl (.update h) fun hu => hu.switchLoads
  exact hs2.foldl fun hu => hu.endDamaged

theorem State.Inv.makeRoom {c need done vs} (h : s.Inv) : (s.makeRoom c need done vs).1.Inv := by
  induction vs generalizing s done with
  | nil => exact h
  | cons v rest ih =>
    refine .ite_fst h (.ite_fst (ih h) (.ite_fst h ?_))
    split
    exacts [h.shelfFull, ih h.shelve]

theorem State.Inv.unshelve {c tags} (h : s.Inv) : (s.unshelve c tags).Inv := by
  refine .foldl h fun hu => ?_
  split
  exacts [hu.restore.getD hu, hu]

theorem State.Inv.dropLearnSram {c k} (h : s.Inv) : (s.dropLearnSram c k).Inv := by
  unfold State.dropLearnSram
  split
  exacts [h.foldl (fun hu => hu.unmap), h]

theorem State.Inv.mapLearnSram {c k} (h : s.Inv) : (s.mapLearnSram c k).Inv := by
  unfold State.mapLearnSram
  split
  · split
    · rename_i gs s1 heq
      exact (h.takeGranules.of_some heq).mapGrans
    · exact h
  · exact h

theorem State.Inv.setTurn {t} (h : s.Inv) : (s.setTurn t).Inv := .update h
theorem State.Inv.endTurn {t status v0} (h : s.Inv) : (s.endTurn t status v0).Inv := .finish (.tellEnd (.update h))

theorem State.Inv.undoLearn {t status} (h : s.Inv) : (s.undoLearn t status).Inv :=
  .ite h.dropLearnSram.unshelve.reenter.endTurn h.endTurn

theorem State.Inv.undoGen {t status} (h : s.Inv) : (s.undoGen t status).Inv := by
  unfold State.undoGen
  extract_lets +onlyGivenNames _ _ s2 s3 _ _
  have hs2 : s2.Inv := .ite h.dropGranules h.dropGranules.setVersions
  have hs3 : s3.Inv := by
    dsimp only [s3]
    split
    exacts [hs2.mapLearnSram, hs2]
  exact .endTurn (.ite (hs3.foldl (fun hu => hu.writeFate)) hs3)

theorem State.Inv.undoTurn {t status} (h : s.Inv) : (s.undoTurn t status).Inv := .ite h.undoLearn h.undoGen

theorem State.Inv.beginLearn {t} (h : s.Inv) : (s.beginLearn t).Inv := by
  unfold State.beginLearn
  extract_lets +onlyGivenNames _ _ _ _ s1 _ _
  have hs1 : s1.Inv := .update h.parkSlots
  refine .ite ?_ hs1.makeRoom.undoLearn
  extract_lets +onlyGivenNames s2
  have hs2 : s2.Inv := hs1.makeRoom.mapLearnSram.setTurn
  exact .ite hs2 hs2.tell

theorem State.Inv.turnGranules {t places} (h : s.Inv) : Answers Prod.snd (s.turnGranules t places) := by
  unfold State.turnGranules
  extract_lets _ s1
  have hs1 : s1.Inv := by
    dsimp only [s1]
    split
    exacts [h.dropLearnSram, h]
  split
  · trivial
  · rename_i heq
    exact Answers.ite (hs1.takeGranules.of_some heq) trivial

theorem State.Inv.beginGen {t} (h : s.Inv) : (s.beginGen t).Inv := by
  unfold State.beginGen
  extract_lets +onlyGivenNames _
  refine .ite h.undoGen ?_
  extract_lets +onlyGivenNames _
  split
  · exact h.undoGen
  · rename_i gs s1 heq
    extract_lets +onlyGivenNames _ s2
    have hs2 : s2.Inv := (h.turnGranules.of_some heq).setTurn
    exact .ite hs2.tellAll hs2

theorem State.Inv.takeScales {es} (h : s.Inv) : (s.takeScales es).Inv := by
  unfold State.takeScales
  split
  exacts [.ite h h.setTurn, h]

theorem State.Inv.applyMode {continue'} (h : s.Inv) : (s.applyMode continue').Inv := .foldl (.update h) fun hu => hu.sweepVersions

theorem State.Inv.settleTurns (h : s.Inv) : s.settleTurns.Inv := by
  unfold State.settleTurns
  extract_lets _ s1
  have hs1 : s1.Inv := by
    dsimp only [s1]
    split
    exacts [.finish (.applyMode (.update h)), h]
  split
  exacts [hs1, .ite hs1 (.ite hs1.beginLearn hs1.beginGen)]

theorem State.Inv.settleIdle (h : s.Inv) : s.settleIdle.Inv := .ite h.settleTurns h

theorem State.Inv.takeTurnLearn {m t} (h : s.Inv) : (s.takeTurnLearn m t).Inv := by
  unfold State.takeTurnLearn
  extract_lets +onlyGivenNames _ _
  split
  exacts [h.finish, .ite h.finish (.ite h.finish h.wake.setTurn.tellAll.settleIdle)]

theorem State.Inv.acceptTurn {t m b} (h : s.Inv) : (s.acceptTurn t m b).Inv := by
  unfold State.acceptTurn
  extract_lets +onlyGivenNames _ _ _
  refine .ite h.finish ?_
  split
  exacts [h.shelfFull.finish, h.giveTag.setVersions.wake.setTurn.tellAll]

theorem State.Inv.takeTurnGen {m t} (h : s.Inv) : (s.takeTurnGen m t).Inv := by
  unfold State.takeTurnGen
  extract_lets +onlyGivenNames _ _
  refine .ite h.finish ?_
  refine .ite h.wake.setTurn.tellAll.settleIdle ?_
  extract_lets +onlyGivenNames _
  split
  · exact h.finish
  · split
    exacts [h.finish, .ite h.finish h.acceptTurn.settleIdle]

theorem State.Inv.doneLearn {t} (h : s.Inv) : (s.doneLearn t).Inv := .endTurn (.update h)

theorem execTurnMemberReady_keeps {pos} (h : s.Inv) : Keeps (execTurnMemberReady pos s) := by
  unfold execTurnMemberReady
  split
  exacts [h, State.Inv.ite h (.ite h.setTurn h.doneLearn)]

theorem State.Inv.writeRun {gs p off r} (h : s.Inv) : (s.writeRun gs p off r).Inv :=
  .ite (h.writeGrans.foldl (fun hu => hu.writeGrans)) h.writeGrans

theorem State.Inv.writeMove {gs p j lc lp m} (h : s.Inv) : (s.writeMove gs p j lc lp m).Inv := by
  unfold State.writeMove
  split
  exacts [h, h.foldl (fun hu => .ite hu.writeRun hu)]

theorem State.Inv.writeTurnShard {t p} (h : s.Inv) : (s.writeTurnShard t p).Inv := by
  unfold State.writeTurnShard
  split
  exacts [h, h.foldl (fun hu => hu.writeMove)]

theorem State.Inv.turnShard {t shard d} (h : s.Inv) : (s.turnShard t shard d).Inv := by
  unfold State.turnShard
  split
  · extract_lets +onlyGivenNames own
    refine .ite h ?_
    extract_lets +onlyGivenNames _ _ _ s2 _ s3 s4
    have hs2 : s2.Inv := .ite h.setTurn.writeTurnShard h.setTurn
    have hs3 : s3.Inv := .ite (.update hs2) hs2
    have hs4 : s4.Inv := .ite hs3.writeFate hs3
    refine .ite ?_ hs4
    split
    exacts [hs4.undoGen, hs4]
  · exact h

theorem execShardEnd_keeps {packId shard x} (h : s.Inv) : Keeps (execShardEnd packId shard x s) := by
  unfold execShardEnd
  extract_lets +onlyGivenNames d
  refine State.Inv.ite ?_ ?_
  · split
    exacts [State.Inv.ite h.turnShard h, h]
  · split
    · exact h
    · extract_lets +onlyGivenNames s1
      dsimp only [d]
      split
      exacts [h.readShard.supplyCorrupt, h.readShard]

theorem State.Inv.restoreAll {c vs} (h : s.Inv) : (s.restoreAll c vs).Inv := by
  induction vs generalizing s with
  | nil => exact h
  | cons v rest ih => exact ih (h.restore.getD h)

theorem State.Inv.switchTurn {t} (h : s.Inv) : (s.switchTurn t).Inv := by
  unfold State.switchTurn
  extract_lets +onlyGivenNames _ _ _ s2 _ _
  have hs2 : s2.Inv := .ite h.restoreAll h.restoreAll.switchTo
  exact .reenter (.endTurn (.update hs2))

theorem execTurnShardsPresent_keeps (h : s.Inv) : Keeps (execTurnShardsPresent s) := by
  unfold execTurnShardsPresent
  split
  exacts [h, State.Inv.ite h h.switchTurn]

theorem State.Inv.takeSwitchMode {m t} (h : s.Inv) : (s.takeSwitchMode m t).Inv := .ite h.finish (.settleIdle (.tellAll (.update h)))
theorem execTrnModeWrite_keeps {v} (h : s.Inv) : Keeps (execTrnModeWrite v s) := State.Inv.ite h.ignored h.applyMode

/-! ### Releases -/

theorem State.Inv.wipeStores {c} (h : s.Inv) : (s.wipeStores c).Inv := .update h
theorem State.Inv.wipePackage {c num} (h : s.Inv) : (s.wipePackage c num).Inv := .update h

theorem State.Inv.rejectWaiting {mb status n} (h : s.Inv) : (s.rejectWaiting mb status n).Inv := by
  induction n generalizing s with
  | zero => exact h
  | succ n ih => exact .ite h (.ite h.stopMailbox (.ite h (ih h.consume.reject)))

theorem State.Inv.closeMailbox {mb} (h : s.Inv) : (s.closeMailbox mb).Inv := h.setMailbox.flush

theorem State.Inv.dropVersions {c} (h : s.Inv) : (s.dropVersions c).Inv := by
  unfold State.dropVersions
  extract_lets +onlyGivenNames _ _ s1 _
  have hs1 : s1.Inv := h.foldl (fun hu => hu.foldl (fun hv => hv.removeVersion))
  exact .foldl (.update hs1) fun hu => hu.removeVersion

theorem State.Inv.eraseCtx {c} (h : s.Inv) : (s.eraseCtx c).Inv := by
  unfold State.eraseCtx
  extract_lets +onlyGivenNames _ _ s2 _ s4 _
  have hs2 : s2.Inv := (h.foldl (fun hu => hu.eraseLoad.dropGranules)).dropVersions
  have hs4 : s4.Inv := (hs2.foldl (fun hu => hu.unmap)).wipeStores
  exact .ite (.reenter (.update hs4)) (.update hs4)

theorem State.Inv.settleRelease {c} (h : s.Inv) : (s.settleRelease c).Inv := by
  unfold State.settleRelease
  split
  exacts [h, .ite h.eraseCtx.finish.closeMailbox h]

theorem State.Inv.settleReleases (h : s.Inv) : s.settleReleases.Inv := h.foldl fun hu => hu.settleRelease

end Sys2Proof.Machine
end

section
/-! SUPPORT. Canonical memory through learning steps, admission, contexts and step boundaries. -/

namespace Sys2Proof.Machine

open Sys2Proof.Laws

variable {s : State}

/-! ### Learning steps -/

theorem State.Inv.sendInput {pos c addr b} (h : s.Inv) : (s.sendInput pos c addr b).Inv := h.foldl fun hu => hu.tell

theorem State.Inv.sendInputs {c x p base} (h : s.Inv) : (s.sendInputs c x p base).Inv := by
  unfold State.sendInputs
  refine h.foldl fun hu => ?_
  refine hu.foldl_snd fun hv => ?_
  split
  exacts [hv.sendInput, hv]

theorem State.Inv.writeInputs {c x p base} (h : s.Inv) : (s.writeInputs c x p base).Inv := by
  unfold State.writeInputs
  refine h.foldl_snd fun hu => ?_
  split
  exacts [hu.writeOwned, hu]

theorem State.Inv.writeLogp {c p pos logps} (h : s.Inv) : (s.writeLogp c p pos logps).Inv := by
  unfold State.writeLogp
  refine .ite ?_ h
  refine h.foldl fun hu => ?_
  split
  exacts [hu.writeCtx, hu]

theorem State.Inv.setLearn {t} (h : s.Inv) : (s.setLearn t).Inv := .update h
theorem State.Inv.eraseLearn {c} (h : s.Inv) : (s.eraseLearn c).Inv := .update h

theorem State.Inv.setLearner {c f} (h : s.Inv) : (s.setLearner c f).Inv := by
  unfold State.setLearner
  split
  exacts [h.setCtx, h]

theorem State.Inv.mapUnit {c u} (h : s.Inv) : Answers id (s.mapUnit c u) :=
  .map fun _ e => (h.takeGranules.of_some e).mapGrans

theorem State.Inv.mapStash {c p} (h : s.Inv) : (s.mapStash c p).2.Inv := by
  unfold State.mapStash
  refine h.foldl_snd fun hu => ?_
  split
  · rename_i t heq
    exact (hu.mapUnit.of_some heq)
  · exact hu

theorem State.Inv.sendReplayInput {pos c g b} (h : s.Inv) : (s.sendReplayInput pos c g b).Inv := h.foldl fun hu => hu.tell
theorem State.Inv.orderReplay {t g k} (h : s.Inv) : (s.orderReplay t g k).1.Inv := .ite_fst h h.tell.sendReplayInput
theorem State.Inv.orderReplays {t gs} (h : s.Inv) : (s.orderReplays t gs).1.Inv := h.foldl_fst fun hu => hu.orderReplay
theorem State.Inv.suspectMicroRun {t g k} (h : s.Inv) : (s.suspectMicroRun t g k).Inv := .ite (h.foldl (fun hu => hu.suspect)) h.tell

theorem State.Inv.writeRing {c base size count rs} (h : s.Inv) : (s.writeRing c base size count rs).2.Inv := by
  unfold State.writeRing
  refine .ite_snd h ?_
  extract_lets +onlyGivenNames r
  have hr : r.2.Inv := h.foldl_snd fun hu => hu.writeCtx
  exact hr.writeCtx

theorem State.Inv.reportCount {code n c} (h : s.Inv) : (s.reportCount code n c).Inv := .ite h h.report

theorem State.Inv.writeWatch {c step ws} (h : s.Inv) : (s.writeWatch c step ws).Inv := by
  unfold State.writeWatch
  extract_lets +onlyGivenNames _ s1
  have hs1 : s1.Inv := h.reportCount.reportCount.reportCount.reportCount
  split
  · exact hs1
  · extract_lets +onlyGivenNames r
    split
    exacts [hs1.writeRing.setCtx, hs1.writeRing]

theorem State.Inv.writeNorms {t} (h : s.Inv) : (s.writeNorms t).Inv := by
  unfold State.writeNorms
  split
  · exact h
  · extract_lets +onlyGivenNames factor ns all clipped rs r
    split
    exacts [h.writeRing.setCtx, h.writeRing]

theorem State.Inv.completeLearn {t status} (h : s.Inv) : (s.completeLearn t status).Inv := (h.foldl (fun hu => hu.answer)).answer
theorem State.Inv.applyCommit {t maxima masters} (h : s.Inv) : (s.applyCommit t maxima masters).Inv := h.setLearner

theorem State.Inv.releaseSupers {c p} (h : s.Inv) : (s.releaseSupers c p).Inv := by
  unfold State.releaseSupers
  refine .moveTail ?_
  refine h.foldl fun hu => ?_
  split
  exacts [hu.setSuper, hu]

theorem State.Inv.finishCommit {t} (h : s.Inv) : (s.finishCommit t).Inv := by
  unfold State.finishCommit
  extract_lets +onlyGivenNames s1 s2 _ _
  have hs1 : s1.Inv := h.writeWatch.writeNorms
  have hs2 : s2.Inv := .ite hs1.releaseSupers hs1
  exact .settleReleases (.settleIdle (.retireDue (.sweepVersions (.switchLoads (.eraseLearn (.completeLearn (.update hs2)))))))

theorem State.Inv.stopLearn {t} (h : s.Inv) : (s.stopLearn t).Inv := .ite h.clearCores h

theorem State.Inv.rollBack {t status} (h : s.Inv) : (s.rollBack t status).Inv :=
  h.stopLearn.tellAll.writeWatch.completeLearn.eraseLearn.switchLoads.sweepVersions.retireDue.settleIdle.settleReleases

theorem State.Inv.failLearn {t status} (h : s.Inv) : (s.failLearn t status).Inv := .ite h.rollBack h.stopLearn.setLearn
theorem State.Inv.loseLearned {c ds} (h : s.Inv) : (s.loseLearned c ds).1.Inv := .ite_fst h.setLearner (.ite_fst h h)

theorem State.Inv.endLost {c is} (h : s.Inv) : (s.endLost c is).Inv := by
  unfold State.endLost
  refine h.foldl fun hu => ?_
  refine .ite hu.endSlot ?_
  split
  exacts [.ite hu.closeSlot hu.setStep, hu]

theorem State.Inv.loseCtx {c ds} (h : s.Inv) : (s.loseCtx c ds).Inv := by
  unfold State.loseCtx
  extract_lets +onlyGivenNames _ _
  refine .ite h ?_
  extract_lets +onlyGivenNames _ r
  have hr : r.1.Inv := h.damageVersions.endLost.loseLearned
  split
  exacts [.ite hr (.ite hr.failLearn hr.setLearn), hr]

theorem State.Inv.loseData {ds} (h : s.Inv) : (s.loseData ds).Inv := h.foldl fun hu => hu.loseCtx

theorem State.Inv.resendInputs {t} (h : s.Inv) : (s.resendInputs t).Inv := by
  unfold State.resendInputs
  split
  exacts [h.writeInputs.sendInputs, h]

theorem State.Inv.redoLearn {t} (h : s.Inv) : (s.redoLearn t).Inv := by
  unfold State.redoLearn
  refine .ite h.failLearn ?_
  extract_lets +onlyGivenNames _ s0 _ _ _ _ _ r
  have hs0 : s0.Inv := h.stopLearn.tellAll.writeWatch
  have hr : r.1.Inv := .orderReplays (.resendInputs (.tellAll (.learnStamp (.update hs0))))
  exact hr.setLearn

/-! ### Steps across the group -/

theorem State.Inv.acceptLearn {t x p lp m} (h : s.Inv) : (s.acceptLearn t x p lp m).Inv := by
  unfold State.acceptLearn
  extract_lets +onlyGivenNames _ _ _ _ _
  refine .ite h.completeLearn ?_
  extract_lets +onlyGivenNames _ s0 s1 _ r _
  have hs0 : s0.Inv := h.mapStash.setLearner
  have hs1 : s1.Inv := .writeInputs (.learnStamp (.update hs0))
  have hr : r.1.Inv := hs1.tellAll.sendInputs.orderReplays
  exact .update hr

theorem State.Inv.takeLearnStep {m t} (h : s.Inv) : (s.takeLearnStep m t).Inv := by
  unfold State.takeLearnStep
  split
  · exact h.reject
  · extract_lets +onlyGivenNames a
    split
    · exact h.answer
    · split
      exacts [h.wake.acceptLearn, h.reject]

theorem State.Inv.sendCommit {t} (h : s.Inv) : (s.sendCommit t).Inv := by
  unfold State.sendCommit
  extract_lets +onlyGivenNames _ _ _ _ s1
  have hs1 : s1.Inv := .applyCommit (.setLearn (.tellAll (.update h)))
  exact .ite hs1.finishCommit hs1

theorem State.Inv.takeClean {t ds} (h : s.Inv) : (s.takeClean t ds).1.Inv := by
  unfold State.takeClean
  refine h.foldl_fst fun hu => ?_
  split
  · extract_lets +onlyGivenNames s1
    have hs1 : s1.Inv := hu.foldl fun hv => hv.suspectMicroRun
    exact .ite hs1 hs1.countMinority
  · exact hu

theorem State.Inv.decideLearn {t} (h : s.Inv) : (s.decideLearn t).Inv := by
  unfold State.decideLearn
  extract_lets +onlyGivenNames _ _ _ _ _
  refine .ite ((h.takeClean.foldl (fun hu => (hu.foldl (fun hv => hv.suspectMicroRun)).countNoMajority)).failLearn) ?_
  refine .ite ((h.takeClean.foldl (fun hu => hu.suspectMicroRun.countMinority)).redoLearn) ?_
  refine .ite (.ite h.takeClean.failLearn h.takeClean.sendCommit) ?_
  extract_lets +onlyGivenNames o
  have ho : o.1.Inv := h.takeClean.orderReplays
  exact ho.setLearn

theorem State.Inv.guardLearn {t} (h : s.Inv) : (s.guardLearn t).Inv :=
  .ite h.setLearn (.ite h.failLearn (.ite (.ite h.rollBack h.setLearn) (.ite h.failLearn (.ite (.ite h.redoLearn h.setLearn)
      (.ite h.setLearn (.ite h.redoLearn h.decideLearn))))))

theorem execStaged_keeps {pos epoch ctx step r} (h : s.Inv) : Keeps (execStaged pos epoch ctx step r s) := by
  unfold execStaged
  split
  exacts [h, State.Inv.ite (.guardLearn (.writeLogp (.ite h.setLearner h))) h]

theorem State.Inv.takeReplay {t g k run} (h : s.Inv) : (s.takeReplay t g k run).Inv := .guardLearn (.ite h.suspectMicroRun h)

theorem execReplayResult_keeps {pos epoch ctx micro run faulted fp flags} (h : s.Inv) :
    Keeps (execReplayResult pos epoch ctx micro run faulted fp flags s) := by
  unfold execReplayResult
  split
  exacts [h, State.Inv.ite h.takeReplay h]

theorem execClipFactor_keeps {ctx gSumsq} (h : s.Inv) : Keeps (execClipFactor ctx gSumsq s) := by
  unfold execClipFactor
  split
  exacts [h, State.Inv.ite h.setLearn.tellAll h]

theorem execAck_keeps {pos epoch ctx step} (h : s.Inv) : Keeps (execAck pos epoch ctx step s) := by
  unfold execAck
  split
  exacts [h, State.Inv.ite (.ite h.setLearn.finishCommit h.setLearn) h]

theorem execReplay_keeps {epoch ctx micro run} (h : s.Inv) : Keeps (execReplay epoch ctx micro run s) := by
  unfold execReplay
  split
  exacts [h, State.Inv.ite h.setLearn h]

theorem State.Inv.refuseCommit {ctx step} (h : s.Inv) : (s.refuseCommit ctx step).Inv := h.tell

theorem execCommit_keeps {epoch ctx step base} (h : s.Inv) : Keeps (execCommit epoch ctx step base s) := by
  unfold execCommit
  refine State.Inv.ite h ?_
  split
  exacts [h.refuseCommit, State.Inv.ite h.applyCommit.eraseLearn.tell.sweepVersions.retireDue.settleReleases h.refuseCommit]

theorem execRollback_keeps {epoch ctx step base} (h : s.Inv) : Keeps (execRollback epoch ctx step base s) := by
  unfold execRollback
  refine State.Inv.ite h ?_
  split
  exacts [h.refuseCommit, State.Inv.ite h.stopLearn.eraseLearn.tell.sweepVersions.retireDue.settleReleases h.refuseCommit]

theorem State.Inv.reportStaged {t} (h : s.Inv) : (s.reportStaged t).Inv := .ite h.setLearn.tell h.setLearn

theorem State.Inv.runLearn {t p index k stamp desc} (h : s.Inv) : (s.runLearn t p index k stamp desc).Inv := by
  unfold State.runLearn
  extract_lets +onlyGivenNames _ _ _ _ _ _ s2 _
  have hs2 : s2.Inv := .startStamp (.update h.setLearn)
  exact .releaseHeld (.startRun (.ite hs2.learnStamp hs2))

theorem State.Inv.firstPass {t p} (h : s.Inv) : (s.firstPass t p).Inv := .setLearner (.ite h.zeroOwned h)

theorem State.Inv.startLearn {t p} (h : s.Inv) : (s.startLearn t p).Inv := by
  unfold State.startLearn
  refine .ite ?_ ?_
  · refine .ite h ?_
    extract_lets +onlyGivenNames s1
    have hs1 : s1.Inv := .ite h.firstPass h
    exact hs1.runLearn
  · split
    exacts [h, .ite h (.runLearn (.writeOwned (.update h)))]

theorem execStepStart_keeps {ctx} (h : s.Inv) : Keeps (execStepStart ctx s) := by
  unfold execStepStart
  refine State.Inv.ite h ?_
  split
  · exact State.Inv.ite h.startStamp.tellAll.startGenRun.releaseHeld h
  · split
    · exact h
    · split
      exacts [h, State.Inv.ite h h.startLearn]

theorem State.Inv.passFault {t r} (h : s.Inv) : (s.passFault t r).1.Inv := by
  unfold State.passFault
  split
  · exact h
  · split
    · exact h.loseLearned
    · dsimp only
      exact h.foldl fun hu => hu.suspect

theorem State.Inv.learnFault {t r} (h : s.Inv) : (s.learnFault t r).Inv := .ite h.passFault.guardLearn h.passFault.failLearn
theorem State.Inv.memberFault {t r} (h : s.Inv) : (s.memberFault t r).Inv := h.passFault.reportStaged

theorem State.Inv.finishElem {c p cur x} (h : s.Inv) : (s.finishElem c p cur x).Inv := by
  unfold State.finishElem
  extract_lets +onlyGivenNames _ _ _
  refine .ite (.ite h.writeOwned.writeOwned h) ?_
  extract_lets +onlyGivenNames s1
  have hs1 : s1.Inv := h.writeOwned.writeOwned
  exact .ite hs1.writeOwned hs1

theorem State.Inv.finishOptimizer {t} (h : s.Inv) : (s.finishOptimizer t).Inv := by
  unfold State.finishOptimizer
  split
  exacts [h, h.foldl (fun hu => hu.finishElem)]

theorem State.Inv.learnDone {t r} (h : s.Inv) : (s.learnDone t r).Inv := by
  unfold State.learnDone
  extract_lets +onlyGivenNames _ s1 _
  have hs1 : s1.Inv := .ite h.clearCores h
  split
  · exact .ite hs1.takeReplay (.reportStaged (.tell (.ite (hs1.foldl (fun hu => hu.suspect)) hs1)))
  · exact .ite (.ite hs1.learnFault hs1.memberFault) (.reportStaged (.ite hs1.finishOptimizer hs1))

theorem execStepCoresDone_keeps {ctx} (h : s.Inv) : Keeps (execStepCoresDone ctx s) := by
  unfold execStepCoresDone
  split
  · extract_lets +onlyGivenNames cores
    refine State.Inv.ite ?_ h
    extract_lets +onlyGivenNames _ _
    refine State.Inv.ite h.setStep ?_
    extract_lets +onlyGivenNames _ s2
    have hs2 : s2.Inv := .ite (h.setStep.foldl (fun hu => hu.suspect)) h.setStep
    exact State.Inv.tell (.ite hs2.clearCores hs2)
  · split
    exacts [h, State.Inv.ite h.learnDone h]

theorem execStepEnd_keeps {pos epoch stamp r} (h : s.Inv) : Keeps (execStepEnd pos epoch stamp r s) := by
  unfold execStepEnd
  split
  exacts [h, State.Inv.ite h.setStep h]

theorem State.Inv.trimList {i} (h : s.Inv) : (s.trimList i).Inv := by
  unfold State.trimList
  extract_lets +onlyGivenNames _
  split
  exacts [h, h.dropEntries]

theorem State.Inv.dropStep {t} (h : s.Inv) : (s.dropStep t).Inv := by
  unfold State.dropStep
  extract_lets +onlyGivenNames _ s0 _
  have hs0 : s0.Inv := h.foldl fun hu => hu.trimList
  exact .foldl (.setPool (.update hs0)) fun hu => hu.settleMarked

theorem State.Inv.applyOrder {c o} (h : s.Inv) : (s.applyOrder c o).Inv := by
  unfold State.applyOrder
  split
  exacts [h.dropEntry, .applyGrant (.ite h.setPool h.setPool)]

theorem State.Inv.memberStart {ctx stamp lc run package version items rows tables pages} (h : s.Inv) :
    (s.memberStart ctx stamp lc run package version items rows tables pages).Inv := by
  unfold State.memberStart
  extract_lets +onlyGivenNames s1 s2 _ _ _ _ _
  have hs1 : s1.Inv := by
    dsimp only [s1]
    split
    exacts [h.dropStep, h]
  have hs2 : s2.Inv := hs1.foldl fun hu => hu.applyOrder
  exact .releaseHeld (.startGenRun (.startStamp (.update hs2.setPool)))

theorem State.Inv.memberLearn {ctx base lc p lp} (h : s.Inv) : (s.memberLearn ctx base lc p lp).Inv := by
  unfold State.memberLearn
  extract_lets +onlyGivenNames _ _ _ _ _ s1 _ _
  have hs1 : s1.Inv := .setLearner (.ite h h.mapStash)
  exact .ite (.reportStaged (.update hs1)) (.update hs1)

theorem execStepStartMessage_keeps {epoch stamp ctx order} (h : s.Inv) : Keeps (execStepStartMessage epoch stamp ctx order s) := by
  unfold execStepStartMessage
  refine State.Inv.ite h ?_
  split
  · exact State.Inv.ite h h.wake.memberStart
  · extract_lets +onlyGivenNames p
    split
    exacts [h, State.Inv.ite h h.wake.memberLearn]

/-! ### Admission -/

theorem State.Inv.takeRead {n} (h : s.Inv) : Answers Prod.snd (s.takeRead n) := by
  unfold State.takeRead
  split
  · exact trivial
  · split
    · exact trivial
    · split
      exacts [trivial, h.setQp.pump]

theorem State.Inv.acceptAdmit {c m t given} (h : s.Inv) : (s.acceptAdmit c m t given).Inv := by
  unfold State.acceptAdmit
  split
  · extract_lets +onlyGivenNames e s1 s2 r s3
    have hs2 : s2.Inv := h.takeList.foldl fun hu => hu.setPool
    have hr : r.2.Inv := .ite_snd hs2 hs2.reserveSuper
    exact .ite hr.setSlot.wake.bindSlot hr.setSlot.wake
  · exact h

theorem State.Inv.enroll {mb m given} (h : s.Inv) : (s.enroll mb m given).Inv := by
  unfold State.enroll
  split
  exacts [h.reject, h.acceptAdmit]

theorem State.Inv.readPrompt {mb m} (h : s.Inv) : (s.readPrompt mb m).Inv := by
  unfold State.readPrompt
  split
  exacts [h.reject, .ite (.postOp (.update h.setMailbox)) h.reject]

theorem State.Inv.takeAdmit {m t} (h : s.Inv) : (s.takeAdmit m t).Inv := by
  unfold State.takeAdmit
  refine .ite h.enroll ?_
  split
  exacts [h.reject, .ite h.enroll h.readPrompt]

theorem State.Inv.takePrompt {mb data} (h : s.Inv) : (s.takePrompt mb data).Inv := by
  unfold State.takePrompt
  split
  · exact h
  · rename_i m s1 heq
    split
    exacts [((h.endReading.of_some heq).reject).settle, ((h.endReading.of_some heq).enroll).settle]

theorem execPromptReadComplete_keeps {qpn data} (h : s.Inv) : Keeps (execPromptReadComplete qpn data s) := by
  unfold execPromptReadComplete
  split
  · rename_i mb s1 heq
    exact (h.takeRead.of_some heq).takePrompt
  · exact h

theorem State.Inv.applyHandle {c w} (h : s.Inv) : (s.applyHandle c w).Inv := by
  unfold State.applyHandle
  split
  · exact h.finish
  · split
    · exact h.finish
    · refine .ite h.finish ?_
      split
      · exact h.finish
      · rename_i h' s1 heq
        exact (h.registerHandle.of_some heq).finish

theorem State.Inv.applyHandles {c} (h : s.Inv) : (s.applyHandles c).Inv := h.setPool.foldl fun hu => hu.applyHandle

theorem State.Inv.takeHandleRegister {m t} (h : s.Inv) : (s.takeHandleRegister m t).Inv := by
  unfold State.takeHandleRegister
  extract_lets +onlyGivenNames _ _ _
  split
  · exact h.finish
  · extract_lets +onlyGivenNames e
    refine .ite h.finish ?_
    refine .ite h.finish ?_
    split
    exacts [h.finish, .ite h.finish (.ite h.finish (.ite h.setPool h.applyHandle))]

theorem State.Inv.takeHandleRelease {m t} (h : s.Inv) : (s.takeHandleRelease m t).Inv := by
  unfold State.takeHandleRelease
  extract_lets +onlyGivenNames _ _
  refine .ite h.finish ?_
  split
  exacts [h.finish, h.releaseHandle.finish]

theorem State.Inv.takeSetReward {m t} (h : s.Inv) : (s.takeSetReward m t).Inv := by
  unfold State.takeSetReward
  extract_lets +onlyGivenNames _
  split
  exacts [h.finish, .ite h.finish h.setSuper.finish]

theorem State.Inv.takeSuperRelease {m t} (h : s.Inv) : (s.takeSuperRelease m t).Inv := by
  unfold State.takeSuperRelease
  extract_lets +onlyGivenNames _
  split
  exacts [h.finish, .ite h.finish h.setSuper.moveTail.finish]

theorem State.Inv.takeSlotQuery {m t} (h : s.Inv) : (s.takeSlotQuery m t).Inv := by
  unfold State.takeSlotQuery
  extract_lets +onlyGivenNames _
  split
  exacts [h.finish, .ite h.writeWindow.finish h.finish]

/-! ### Contexts and packages -/

theorem State.Inv.mapData {c r gs} (h : s.Inv) : (s.mapData c r gs).Inv := h.foldl fun hu => hu.mapGranule
theorem State.Inv.createCtx {c m gs mc} (h : s.Inv) : (s.createCtx c m gs mc).Inv := .mapData (.setCreg (.update h.fresh))

theorem State.Inv.takeCtxCreate {m t} (h : s.Inv) : (s.takeCtxCreate m t).Inv := by
  unfold State.takeCtxCreate
  extract_lets +onlyGivenNames _
  refine .ite h.finish ?_
  refine .ite h.finish ?_
  split
  exacts [h.finish, h.createCtx.finish]

theorem State.Inv.cancelSlot {i} (h : s.Inv) : (s.cancelSlot i).Inv := .ite h.setSlot h.endSlot
theorem State.Inv.cancelLearn {t} (h : s.Inv) : (s.cancelLearn t).Inv := .ite h h.failLearn

theorem State.Inv.cancelTarget {c kind num} (h : s.Inv) : Answers id (s.cancelTarget c kind num) := by
  unfold State.cancelTarget
  split
  exacts [.bind fun _ _ => .ite trivial h.cancelSlot, .map fun _ _ => h.cancelLearn, .map fun _ _ => h.undoTurn, h.cancelLoad]

theorem State.Inv.takeCancel {m t} (h : s.Inv) : (s.takeCancel m t).Inv := by
  unfold State.takeCancel
  refine .ite h.finish ?_
  split
  · rename_i s1 heq
    exact (((h.cancelTarget.of_some heq).settleIdle).finish).settleReleases
  · exact h.finish

theorem State.Inv.dropReading {mb status} (h : s.Inv) : (s.dropReading mb status).Inv := by
  unfold State.dropReading
  split
  · rename_i m s1 heq
    exact ((h.endReading.of_some heq).abandonReads).reject
  · exact h

theorem State.Inv.endWaits {c status} (h : s.Inv) : (s.endWaits c status).Inv := by
  unfold State.endWaits
  extract_lets +onlyGivenNames _ _ s2
  have hs2 : s2.Inv := h.dropReading.setPool.foldl fun hu => hu.finish
  split
  exacts [hs2, hs2.setCtx.foldl (fun hu => hu.finish)]

theorem State.Inv.endWork {c status} (h : s.Inv) : (s.endWork c status).Inv := by
  unfold State.endWork
  extract_lets +onlyGivenNames s1 s2
  have hs1 : s1.Inv := by
    dsimp only [s1]
    split
    exacts [.ite h.undoTurn h, h]
  have hs2 : s2.Inv := hs1.foldl fun hu => hu.failLoad
  split
  exacts [.ite hs2 hs2.failLearn, hs2]

theorem State.Inv.endItems {c status} (h : s.Inv) : (s.endItems c status).Inv :=
  (h.endWork.foldl (fun hu => .ite hu.setSlot hu.endSlot)).endWaits

theorem State.Inv.beginRelease {c t} (h : s.Inv) : (s.beginRelease c t).Inv := by
  unfold State.beginRelease
  extract_lets +onlyGivenNames s1
  have hs1 : s1.Inv := by
    dsimp only [s1]
    split
    exacts [h.setCtx, h]
  exact hs1.endItems.rejectWaiting.settleIdle.settleReleases

theorem State.Inv.takeCtxRelease {m t} (h : s.Inv) : (s.takeCtxRelease m t).Inv := h.beginRelease

theorem State.Inv.packageWindow {t m d} (h : s.Inv) : (s.packageWindow t m d).Inv := by
  unfold State.packageWindow
  extract_lets +onlyGivenNames _ _
  split
  · exact h.finish
  · exact h.finish
  · exact h.finish
  · exact h.finish
  · refine .ite h.finish ?_
    refine .ite h.finish ?_
    split
    · exact h.finish
    · rename_i gs s1 heq
      extract_lets +onlyGivenNames s2
      have hs2 : s2.Inv := (h.takeGranules.of_some heq).mapGrans
      refine .finish ?_
      split
      exacts [hs2.setCtx, hs2]

theorem State.Inv.takePackageLoad {m t} (h : s.Inv) : (s.takePackageLoad m t).Inv := h.readWindow

theorem State.Inv.removePackage {c k t} (h : s.Inv) : (s.removePackage c k t).Inv := by
  unfold State.removePackage
  split
  · exact h.finish
  · extract_lets +onlyGivenNames s1 s2 s3
    have hs2 : s2.Inv := (h.foldl (fun hu => hu.removeVersion)).foldl fun hu => hu.unmap
    have hs3 : s3.Inv := by
      dsimp only [s3]
      split
      exacts [hs2.setCtx, hs2]
    exact hs3.wipePackage.finish

theorem State.Inv.takePackageUnload {m t} (h : s.Inv) : (s.takePackageUnload m t).Inv := by
  unfold State.takePackageUnload
  extract_lets +onlyGivenNames _ _
  split
  · exact h.finish
  · split
    exacts [h.finish, .ite h.finish (.ite h.setCtx h.removePackage)]

theorem State.Inv.applyUnloads {c} (h : s.Inv) : (s.applyUnloads c).Inv := by
  unfold State.applyUnloads
  split
  exacts [h, h.foldl (fun hu => hu.removePackage)]

/-! ### Step boundaries -/

theorem State.Inv.closeFailed {t} (h : s.Inv) : (s.closeFailed t).Inv :=
  (h.foldl (fun hu => hu.closeSlot)).foldl fun hu => hu.closeSlot

theorem State.Inv.insertSlotBlocks {i} (h : s.Inv) : (s.insertSlotBlocks i).Inv := by
  unfold State.insertSlotBlocks
  extract_lets +onlyGivenNames _
  split
  exacts [h, h.insertBlocks]

theorem State.Inv.freeClosing {t} (h : s.Inv) : (s.freeClosing t).Inv := h.foldl fun hu => hu.freeSlot
theorem State.Inv.tellSuccessor (h : s.Inv) : s.tellSuccessor.Inv := .ite h.tell h

theorem State.Inv.afterStep {c} (h : s.Inv) : (s.afterStep c).Inv :=
  h.applyUnloads.switchLoads.sweepVersions.bindWaiting.endDamaged.retireDue.retryWaits.settleIdle.settleReleases

theorem State.Inv.queenBoundary {t} (h : s.Inv) : (s.queenBoundary t).Inv :=
  .afterStep (.tellSuccessor (.writeWatch (.dropStep (.freeClosing (.applyHandles (.foldl (.foldl (.ite h.closeFailed h) (fun hu =>
      hu.trimList)) (fun hu => hu.insertSlotBlocks)))))))

theorem execStepBoundary_keeps {ctx} (h : s.Inv) : Keeps (execStepBoundary ctx s) := by
  unfold execStepBoundary
  split
  exacts [h, State.Inv.ite h.queenBoundary (.ite h.dropStep.afterStep h)]

end Sys2Proof.Machine
end

section
/-! SUPPORT. Canonical memory through capping, the group, the guard, power, the Keeper, registers and read responses. -/

namespace Sys2Proof.Machine

open Sys2Proof.Laws

variable {s : State}

/-! ### Capping -/

/-- What holding a peer's image `i` leaves, given the granules that are taken for it (R528). -/
def holdWith (s : State) (i : CapImage) : Option (List Nat × MemCtl) → State
  | none => s.tell i.position kmOrderEnd (leBytes 2 i.ctx ++ leBytes 2 stCapacity)
  | some (gs, mc) => { s with memCtl := mc, guard := { s.guard with heldImages := [(i.position, i)], heldGrans := gs } }

theorem holdImage_eq (s : State) (i : CapImage) : s.holdImage i =
    holdWith s.dropHeld i (MemCtl.takeLp MemCtl.freeLp ((imageSize i + 0x1FFFFF) / 0x200000) s.dropHeld.memCtl) := rfl

theorem State.Inv.landHeld {hd} (h : s.Inv) : (s.landHeld hd).Inv := by
  unfold State.landHeld
  split
  · exact h
  · rename_i s1 heq
    extract_lets +onlyGivenNames s2
    have hs2 : s2.Inv := by
      dsimp only [s2]
      split
      exacts [.ite ((h.writeRange.of_some heq).answerDone) (h.writeRange.of_some heq), (h.writeRange.of_some heq)]
    split
    exacts [hs2.transmit, hs2]

theorem State.Inv.settleHeld (h : s.Inv) : s.settleHeld.Inv := .foldl (.update h) fun hu => hu.landHeld

theorem execWpWriteHeld_keeps {w ctx addr data} (h : s.Inv) : Keeps (execWpWriteHeld w ctx addr data s) := by
  unfold execWpWriteHeld
  extract_lets +onlyGivenNames _
  refine State.Inv.ite h ?_
  split
  exacts [h, State.Inv.ite h (.update h), State.Inv.update h]

theorem State.Inv.endCapture {c status} (h : s.Inv) : (s.endCapture c status).Inv := by
  unfold State.endCapture
  extract_lets +onlyGivenNames s1 _ _
  have hs1 : s1.Inv := (h.foldl (fun hu => hu.clearWp)).setCap
  exact .settleReleases (.finish (.tellEnd (.settleHeld (.ite hs1 (.update hs1)))))

theorem State.Inv.takeCapTake {m t} (h : s.Inv) : (s.takeCapTake m t).Inv := .ite h.finish (.ite h.finish h.wake.setCap.tellAll)

theorem State.Inv.protectCtx {c} (h : s.Inv) : (s.protectCtx c).Inv := by
  unfold State.protectCtx
  extract_lets +onlyGivenNames _ _ _ _
  refine .ite h.endCapture ?_
  refine .ite h.endCapture ?_
  extract_lets +onlyGivenNames _ s2 _
  have hs2 : s2.Inv := h.sendPart.foldl fun hu => hu.setWp
  exact .update hs2.setCap

theorem execCapturePoint_keeps (h : s.Inv) : Keeps (execCapturePoint s) := by
  unfold execCapturePoint
  split
  exacts [h, State.Inv.ite h h.protectCtx]

theorem State.Inv.copyDone {c a o} (h : s.Inv) : (s.copyDone c a o).Inv := by
  unfold State.copyDone
  extract_lets +onlyGivenNames x s1
  have hs1 : s1.Inv := by
    dsimp only [s1]
    dsimp only [x]
    split
    exacts [h.memUncorrectable, h]
  split
  exacts [hs1.endCapture, hs1.copyGranule.settleHeld]

theorem execCapGranuleCopyDone_keeps {o} (h : s.Inv) : Keeps (execCapGranuleCopyDone o s) := by
  unfold execCapGranuleCopyDone
  split
  · exact h
  · split
    exacts [h, State.Inv.ite h.copyDone h]

theorem execCapFirstTouchCopyDone_keeps {ctx addr o} (h : s.Inv) : Keeps (execCapFirstTouchCopyDone ctx addr o s) := by
  unfold execCapFirstTouchCopyDone
  split
  exacts [h, State.Inv.ite (.copyDone (.update h)) h]

theorem State.Inv.partDone {c pos finish} (h : s.Inv) (hk : ∀ {t a}, State.Inv t → (finish t a).Inv) :
    (s.partDone c pos finish).Inv :=
  .ite h.setCap.tellEnd (.ite (hk h.setCap) h.setCap)

theorem State.Inv.captureEnd {c pos} (h : s.Inv) : (s.captureEnd c pos).Inv :=
  .ite h (.ite (.ite (h.sendPart.partDone (fun hu => hu.endCapture)) h) (h.partDone (fun hu => hu.endCapture)))

theorem execCaptureEnd_keeps {pos} (h : s.Inv) : Keeps (execCaptureEnd pos s) := by
  unfold execCaptureEnd
  split
  exacts [h, h.captureEnd]

theorem State.Inv.dropHeld (h : s.Inv) : s.dropHeld.Inv := .update h

theorem State.Inv.holdImage {i} (h : s.Inv) : (s.holdImage i).Inv := by
  rw [holdImage_eq]
  generalize MemCtl.takeLp MemCtl.freeLp _ _ = r
  cases r with
  | none => exact h.dropHeld.tell
  | some x => exact .update h.dropHeld

theorem State.Inv.returnImage (h : s.Inv) : s.returnImage.Inv := by
  unfold State.returnImage
  split
  exacts [h, h.tell.dropHeld]

theorem State.Inv.takeCapRestore {m t} (h : s.Inv) : (s.takeCapRestore m t).Inv := by
  unfold State.takeCapRestore
  extract_lets +onlyGivenNames _
  refine .ite h.finish ?_
  refine .ite h.finish ?_
  refine .ite h.finish ?_
  extract_lets +onlyGivenNames _ s1
  have hs1 : s1.Inv := h.setCap.tellAll
  refine .ite hs1.returnImage ?_
  extract_lets +onlyGivenNames _
  split
  exacts [hs1.setCap.tellEnd.finish, .ite hs1.postOp hs1.setCap.tellEnd.finish]

theorem State.Inv.endArrivals {k status} (h : s.Inv) : (s.endArrivals k status).Inv := h.endSlots.foldl fun hu => hu.finish

theorem State.Inv.emptyCtx {c mapped} (h : s.Inv) : (s.emptyCtx c mapped).Inv := by
  unfold State.emptyCtx
  extract_lets +onlyGivenNames _ s1 _ _ s4 _ _
  have hs1 : s1.Inv := h.foldl fun hu => hu.eraseLoad.dropGranules
  have hs4 : s4.Inv := .foldl (.dropVersions (.setPool (.update hs1))) fun hu => hu.unmap
  split
  exacts [hs4.setCreg.setCtx, hs4.setCreg]

theorem State.Inv.endRestore {c status} (h : s.Inv) : (s.endRestore c status).Inv :=
  .settleReleases (.finish (.tellEnd (.abandonReads (.setCap (.ite h.endArrivals.emptyCtx h)))))

theorem State.Inv.reconcile {c n} (h : s.Inv) : (s.reconcile c n).Inv := .ite h (.report (.update h))

theorem State.Inv.restoreSlot {c e} (h : s.Inv) : (s.restoreSlot c e).Inv := by
  unfold State.restoreSlot
  split
  · exact h
  · extract_lets +onlyGivenNames e1 s1
    have hs1 : s1.Inv := h.setSlot.reconcile
    exact .ite hs1.readConsumer hs1

theorem State.Inv.restoreLearner {c l} (h : s.Inv) : (s.restoreLearner c l).Inv := by
  unfold State.restoreLearner
  split
  exacts [h.setCtx.reconcile, h]

theorem State.Inv.mapShared {c v} (h : s.Inv) : (s.mapShared c v).Inv := by
  unfold State.mapShared
  split
  · exact h
  · split
    exacts [h, h.putVersion.markReadonly.foldl (fun hu => hu.changeXent)]

theorem State.Inv.restoreRecords {c i} (h : s.Inv) : (s.restoreRecords c i).Inv := by
  unfold State.restoreRecords
  extract_lets +onlyGivenNames _ _ _ s2 _ _ _ _
  have hs2 : s2.Inv := by
    dsimp only [s2]
    split
    exacts [h.setPool.setCtx, h.setPool]
  exact .restoreLearner (.foldl (.foldl (.update hs2.setCreg) (fun hu => hu.mapShared)) (fun hu => hu.restoreSlot))

theorem State.Inv.zeroRegions {c} (h : s.Inv) : (s.zeroRegions c).Inv := by
  unfold State.zeroRegions
  split
  exacts [h, h.foldl (fun hu => .ite hu.zero hu)]

theorem State.Inv.applyImage {k i} (h : s.Inv) : Succeeds Prod.fst (s.applyImage k i) := by
  unfold State.applyImage
  extract_lets +onlyGivenNames _ _ _
  refine Succeeds.ite trivial ?_
  split
  · exact trivial
  · rename_i gs s1 heq
    extract_lets +onlyGivenNames _ _ _ _ s4 _ _
    have hs4 : s4.Inv := ((((h.takeGranules.of_some heq).mapGrans).zeroRegions).foldl (fun hu => hu.writeOwned)).restoreRecords
    exact State.Inv.update hs4

theorem State.Inv.takeImage {d} (h : s.Inv) : (s.takeImage d).Inv := by
  unfold State.takeImage
  split
  · exact h
  · refine .ite h ?_
    split
    · exact h.endRestore
    · refine .ite h.endRestore ?_
      split
      · exact h.endRestore
      · rename_i s1 k1 heq
        exact ((h.applyImage.of_ok heq).wake).setCap
    · exact h.endRestore

theorem State.Inv.restoreEnd {k pos} (h : s.Inv) : (s.restoreEnd k pos).Inv := .ite h (.ite h (h.partDone (fun hu => hu.endRestore)))

theorem execRestoreEnd_keeps {pos} (h : s.Inv) : Keeps (execRestoreEnd pos s) := by
  unfold execRestoreEnd
  split
  exacts [h, h.restoreEnd]

theorem State.Inv.endReload {l} (h : s.Inv) : (s.endReload l).Inv := by
  unfold State.endReload
  split
  · split
    exacts [h.endRestore, h.eraseLoad]
  · exact h.eraseLoad.mapGrans

theorem execLoadEnd_keeps {packId} (h : s.Inv) : Keeps (execLoadEnd packId s) := by
  unfold execLoadEnd
  split
  · exact h
  · refine State.Inv.ite h.endReload ?_
    refine State.Inv.ite h ?_
    split
    exacts [h.failLoad, h.doneLoad.tellEnd.finish]

/-! ### The group -/

theorem State.Inv.groupEvent {lost} (h : s.Inv) : (s.groupEvent lost).Inv := h.eventAdmin
theorem State.Inv.setGroup {g} (h : s.Inv) : (s.setGroup g).Inv := .update h
theorem State.Inv.leaveGroup (h : s.Inv) : s.leaveGroup.Inv := .update h

theorem State.Inv.activate (h : s.Inv) : s.activate.Inv := by
  unfold State.activate
  extract_lets +onlyGivenNames _ _ s2
  have hs2 : s2.Inv := by
    dsimp only [s2]
    split
    exacts [.finish (.update h), .update h]
  exact hs2.groupEvent

theorem State.Inv.settleForming (h : s.Inv) : s.settleForming.Inv := .ite h.tellAll.activate h
theorem State.Inv.settleReady (h : s.Inv) : s.settleReady.Inv := .ite (.ite (.settleForming (.update h)) h.tell) h

theorem State.Inv.takeGroupForm {m t} (h : s.Inv) : (s.takeGroupForm m t).Inv :=
  .ite h.finish (.ite h.finish (.settleReady (.groupEvent (.update h))))

theorem execFormWaitExpiry_keeps (h : s.Inv) : Keeps (execFormWaitExpiry s) := by
  unfold execFormWaitExpiry
  refine State.Inv.ite ?_ h
  extract_lets +onlyGivenNames s1
  have hs1 : s1.Inv := by
    dsimp only [s1]
    split
    exacts [h.leaveGroup.finish, h.leaveGroup]
  exact hs1.groupEvent

theorem State.Inv.takeHello {k b} (h : s.Inv) : (s.takeHello k b).Inv := .ite h.setLink.settleReady h.setLink.dlFault

theorem State.Inv.takeQueenMove {m t} (h : s.Inv) : (s.takeQueenMove m t).Inv :=
  .ite h.finish (.ite h.finish (.ite h.finish (.finish (.groupEvent (.update h)))))

theorem State.Inv.endCapping {status} (h : s.Inv) : (s.endCapping status).Inv := by
  unfold State.endCapping
  split
  exacts [h, .ite h.endCapture h.endRestore]

theorem State.Inv.endGroupItems (h : s.Inv) : s.endGroupItems.Inv := h.endCapping.foldl fun hu => hu.endItems

theorem State.Inv.takeGroupDissolve {x t} (h : s.Inv) : (s.takeGroupDissolve x t).Inv :=
  .ite h.finish (.settleReleases (.settleIdle (.finish (.groupEvent (.leaveGroup (.ite h.endGroupItems h))))))

theorem State.Inv.loseGenStep {t} (h : s.Inv) : (s.loseGenStep t).Inv := by
  unfold State.loseGenStep
  refine .ite h ?_
  extract_lets +onlyGivenNames s1
  have hs1 : s1.Inv := .ite h.clearCores h
  exact .ite hs1.dropStep hs1.failStep

theorem State.Inv.loseLearnStep {t pos} (h : s.Inv) : (s.loseLearnStep t pos).Inv :=
  .ite h.stopLearn.eraseLearn (.ite (.ite h.finishCommit h) h.rollBack)

theorem State.Inv.loseMoves (h : s.Inv) : s.loseMoves.Inv := by
  unfold State.loseMoves
  extract_lets +onlyGivenNames s1 _
  have hs1 : s1.Inv := by
    dsimp only [s1]
    split
    exacts [h.undoTurn, h]
  exact (hs1.foldl (fun hu => hu.failLoad)).endCapping

theorem State.Inv.reportSet {es items} (h : s.Inv) : (s.reportSet es items).Inv :=
  (h.foldl (fun hu => hu.post)).foldl fun hu => hu.post

theorem State.Inv.takeLost {pos} (h : s.Inv) : (s.takeLost pos).Inv := by
  unfold State.takeLost
  refine .ite h ?_
  extract_lets +onlyGivenNames _ _ s2 s3 _ s5
  have hs2 : s2.Inv := .groupEvent (.dlFault (.update h))
  have hs3 : s3.Inv := hs2.foldl fun hu => hu.loseLearnStep
  have hs5 : s5.Inv := (hs3.foldl (fun hu => hu.loseGenStep)).loseMoves
  exact .ite hs5 (.ite hs5.reportSet hs5.reportSet)

theorem State.Inv.noteDown {p k} (h : s.Inv) : (s.noteDown p k).Inv := by
  unfold State.noteDown
  extract_lets +onlyGivenNames _ _
  split
  exacts [.ite (.takeLost (.update h)) (.update h), .update h]

theorem State.Inv.fenceGroup (h : s.Inv) : s.fenceGroup.Inv := by
  unfold State.fenceGroup
  refine .ite h ?_
  extract_lets +onlyGivenNames s1
  have hs1 : s1.Inv := h.setGroup.groupEvent
  exact .ite (hs1.foldl (fun hu => hu.failLearn)) hs1

theorem State.Inv.fenceLink {k cause} (h : s.Inv) : (s.fenceLink k cause).Inv := by
  unfold State.fenceLink
  extract_lets +onlyGivenNames _
  refine .ite h ?_
  extract_lets +onlyGivenNames _ _ _ _ _ _ _ s3 _
  have hs3 : s3.Inv := (h.setLink.report.eventAdmin.foldl (fun hu => hu.answerDone)).foldl fun hu => hu.endTransfer
  exact .fenceGroup (.ite hs3.noteDown hs3.tell)

theorem execDlFence_keeps (h : s.Inv) : Keeps (execDlFence s) := h.foldl fun hu => hu.fenceLink

theorem State.Inv.obey {m body} (h : s.Inv) : (s.obey m body).Inv := by
  unfold State.obey
  extract_lets +onlyGivenNames _ _
  split
  · split
    exacts [h.acceptLoad, h]
  · exact .ite h h.setTurn.settleIdle
  · exact .ite h (.ite h.setTurn.settleIdle h.acceptTurn.settleIdle)
  · exact h.takeSwitchMode
  · exact h.takeVersionRetire
  · exact h.takeVersionGrant
  · exact h.takeVersionRevoke
  · exact h.takeAdapterRelease
  · exact h.takeCapTake
  · exact h.takeCapRestore
  · exact h

theorem State.Inv.orderEnds {tag command c status} (h : s.Inv) : (s.orderEnds tag command c status).Inv := by
  unfold State.orderEnds
  extract_lets +onlyGivenNames s1 s2
  have hs1 : s1.Inv := by
    dsimp only [s1]
    split
    exacts [.ite (.ite h.undoTurn (.ite h.doneLearn h.switchTurn)) h, h]
  have hs2 : s2.Inv := by
    dsimp only [s2]
    split
    exacts [.ite hs1 (.ite hs1.doneLoad hs1.failLoad), hs1]
  split
  exacts [.ite (.ite hs2.endCapture hs2.endRestore) hs2, hs2]

theorem State.Inv.memberEnds {pos tag command c status} (h : s.Inv) : (s.memberEnds pos tag command c status).Inv := by
  unfold State.memberEnds
  split
  exacts [.ite (.ite h.captureEnd h.restoreEnd) (.ite h h.orderEnds), .ite h h.orderEnds]

theorem State.Inv.takeClip {c f} (h : s.Inv) : (s.takeClip c f).Inv := by
  unfold State.takeClip
  split
  exacts [h.setLearn, h]

theorem State.Inv.takeInputs {c a b} (h : s.Inv) : (s.takeInputs c a b).Inv := by
  unfold State.takeInputs
  split
  exacts [h.writeOwned.setLearn, h]

theorem State.Inv.takeReplayInput {c g o b} (h : s.Inv) : (s.takeReplayInput c g o b).Inv := by
  unfold State.takeReplayInput
  split
  exacts [h.setLearn, h]

theorem State.Inv.takeControl {p kind} (h : s.Inv) : (s.takeControl p kind).Inv := by
  unfold State.takeControl
  split
  · exact .ite (.fenceGroup (.noteDown (.ite h.tellAll h))) h.fenceGroup
  · exact .ite (h.foldl (fun hu => hu.fenceLink)) h
  · exact .ite h.obey h
  · exact .ite (h.foldl (fun hu => hu.suspect)) h
  · exact .ite h.memberEnds (.ite h.orderEnds h)
  · exact .ite (.update h) h
  · exact h.holdImage
  · exact h.takeImage
  · exact .ite h.takeClip h
  · exact .ite h.takeScales h
  · exact .ite h.takeInputs h
  · exact .ite h.takeReplayInput h
  · exact h
  · exact h
  · exact h
  · exact h
  · exact h
  · exact h
  · exact h
  · exact h
  · exact h
  · exact h
  · exact h
  · exact h

theorem State.Inv.staleStep {c} (h : s.Inv) : (s.staleStep c).Inv := by
  unfold State.staleStep
  split
  · refine .ite h ?_
    extract_lets +onlyGivenNames s1
    have hs1 : s1.Inv := .ite h.clearCores h
    exact .ite hs1.failStep hs1.dropStep
  · split
    exacts [.ite h.stopLearn.eraseLearn (.ite h h.failLearn), h]

theorem State.Inv.takeStale {tag} (h : s.Inv) : (s.takeStale tag).Inv := by
  unfold State.takeStale
  extract_lets +onlyGivenNames _
  refine .ite h.dlFault.endTransfer ?_
  split
  exacts [.staleStep (.update h.dlFault), h.dlFault]

/-! ### The guard -/

theorem State.Inv.takeGuardSet {m t} (h : s.Inv) : (s.takeGuardSet m t).Inv := h.setCreg.finish

theorem State.Inv.refuseRedo {t} (h : s.Inv) : (s.refuseRedo t).Inv :=
  h.completeLearn.eraseLearn.sweepVersions.settleIdle.settleReleases

theorem State.Inv.degrade (h : s.Inv) : s.degrade.Inv := .eventAdmin (.update h)
theorem State.Inv.copySlice {c lost} (h : s.Inv) : (s.copySlice c lost).Inv := h.loseData.foldl fun hu => hu.memUncorrectable

theorem State.Inv.failCore {p lost} (h : s.Inv) : (s.failCore p lost).Inv := by
  unfold State.failCore
  extract_lets +onlyGivenNames _ _ _ _ s1 _
  have hs1 : s1.Inv := by
    dsimp only [s1]
    exact .update h.setCore.report
  split
  · exact .update hs1
  · exact .ite (.copySlice (.update (State.Inv.update hs1))) (.degrade (.foldl (.update hs1) (fun hu => hu.refuseRedo)))

theorem State.Inv.markCfg {b} (h : s.Inv) : (s.markCfg b).Inv := by
  unfold State.markCfg
  split
  · exact h.raiseUnplaced
  · exact h.raiseUnplaced
  · exact .update h
  · exact .update h
  · exact .update h
  · exact h.dlFault
  · exact .update h
  · exact .update h
  · exact .update h
  · exact h
  · exact .update h

theorem execCfgMismatch_keeps {addr} (h : s.Inv) : Keeps (execCfgMismatch addr s) := by
  unfold execCfgMismatch
  split
  exacts [h, State.Inv.report (.update h.markCfg)]

theorem State.Inv.abortAll (h : s.Inv) : s.abortAll.Inv := .update h

theorem State.Inv.endGenStep {t status} (h : s.Inv) : (s.endGenStep t status).Inv :=
  .ite h.dropStep (.ite h.queenBoundary h.queenBoundary)

theorem State.Inv.endRunning {status} (h : s.Inv) : (s.endRunning status).Inv := by
  unfold State.endRunning
  extract_lets +onlyGivenNames s1
  have hs1 : s1.Inv := h.foldl fun hu => hu.endGenStep
  exact hs1.endCapping.foldl fun hu => hu.endItems

theorem execCfgLost_keeps {addr} (h : s.Inv) : Keeps (execCfgLost addr s) := by
  unfold execCfgLost
  refine State.Inv.ite h ?_
  extract_lets +onlyGivenNames _ _ _ _ f
  have hf : f.2.Inv := .fresh (.foldl (.endRunning (.abortAll (.update h.report))) (fun hu => hu.fenceLink))
  exact hf.eventAdmin

/-! ### Power -/

theorem State.Inv.powerEvent {cause unit} (h : s.Inv) : (s.powerEvent cause unit).Inv := .report (.eventAdmin (.update h))
theorem State.Inv.drawAlert (h : s.Inv) : s.drawAlert.Inv := .update h

theorem State.Inv.setCeiling {code cause unit} (h : s.Inv) : (s.setCeiling code cause unit).Inv :=
  .ite h (.powerEvent (.drawAlert (.update h)))

theorem execPgdWindowEnd_keeps {r} (h : s.Inv) : Keeps (execPgdWindowEnd r s) := by
  unfold execPgdWindowEnd
  refine State.Inv.ite h ?_
  extract_lets +onlyGivenNames _ _ _ _ s2
  have hs2 : s2.Inv := .ite (.setCeiling (.update h)) (.setCeiling (.update h))
  exact State.Inv.update hs2

theorem State.Inv.applyFloor (h : s.Inv) : s.applyFloor.Inv := .ite h.setCeiling h

theorem execVcoreReached_keeps {mv} (h : s.Inv) : Keeps (execVcoreReached mv s) := by
  unfold execVcoreReached
  refine State.Inv.ite h ?_
  extract_lets +onlyGivenNames _ _
  split
  exacts [State.Inv.applyFloor (.update h), State.Inv.ite (.update h) (.applyFloor (.update h))]

theorem State.Inv.writeDvfs {v} (h : s.Inv) : (s.writeDvfs v).Inv := .update h
theorem State.Inv.enterPower {n} (h : s.Inv) : (s.enterPower n).Inv := .ite h (.ite (.update (State.Inv.update h)) (.update h))
theorem State.Inv.takePowerSet {m t} (h : s.Inv) : (s.takePowerSet m t).Inv := .ite h.finish (.finish (.enterPower (.update h)))

/-! ### The Keeper -/

theorem State.Inv.rejectSignature (h : s.Inv) : s.rejectSignature.Inv := .report (.update h)

theorem State.Inv.checkImage {b} (h : s.Inv) : (s.checkImage b).1.Inv := by
  unfold State.checkImage
  refine .ite_fst h ?_
  split
  exacts [h.rejectSignature, .ite_fst h h]

theorem State.Inv.becomeActive {i} (h : s.Inv) : (s.becomeActive i).Inv := .report (.update h)
theorem State.Inv.endFwLoad {t status} (h : s.Inv) : (s.endFwLoad t status).Inv := .finish (.update h)

theorem State.Inv.takeFirmware {t d} (h : s.Inv) : (s.takeFirmware t d).Inv := by
  unfold State.takeFirmware
  split
  · exact h.endFwLoad
  · exact h.endFwLoad
  · exact h.endFwLoad
  · extract_lets +onlyGivenNames r
    split
    · exact h.checkImage.endFwLoad
    · refine .ite ?_ ?_
      · extract_lets +onlyGivenNames s1
        have hs1 : s1.Inv := h.checkImage.write.becomeActive
        exact .update hs1
      · extract_lets +onlyGivenNames s1
        have hs1 : s1.Inv := h.checkImage.write
        exact .endFwLoad (.update hs1)

theorem State.Inv.openBootRead {mb m} (h : s.Inv) : (s.openBootRead mb m).Inv := by
  unfold State.openBootRead
  split
  · exact h
  · extract_lets +onlyGivenNames a f
    have hf : f.2.Inv := h.pickNumber.fresh
    exact hf.setQp.postOp

theorem State.Inv.closeBootRead (h : s.Inv) : s.closeBootRead.Inv := .update h
theorem State.Inv.holdReading {mb m} (h : s.Inv) : (s.holdReading mb m).Inv := .update h.setMailbox

theorem State.Inv.takeFwLoad {m t} (h : s.Inv) : (s.takeFwLoad m t).Inv := by
  unfold State.takeFwLoad
  refine .ite ?_ (.ite h.finish (.ite (.update h.readWindow) h.readWindow))
  extract_lets +onlyGivenNames _ _ s2
  have hs2 : s2.Inv := .update h.holdReading
  exact .ite hs2 hs2.openBootRead

theorem State.Inv.failStart {code unit} (h : s.Inv) : (s.failStart code unit).Inv := .report (.update h)
theorem State.Inv.endStep {n} (h : s.Inv) : (s.endStep n).Inv := .update h
theorem State.Inv.enterCores {ps} (h : s.Inv) : (s.enterCores ps).Inv := h.foldl (fun hu => .report (.update hu))
theorem State.Inv.enterRows {rows} (h : s.Inv) : (s.enterRows rows).1.Inv := h.foldl_fst fun hu => .update hu.report

theorem State.Inv.withdrawRow {p row} (h : s.Inv) : (s.withdrawRow p row).Inv := by
  unfold State.withdrawRow
  split
  exacts [h, .ite h h.withdrawSram]

theorem State.Inv.repair (h : s.Inv) : s.repair.Inv := by
  unfold State.repair
  extract_lets +onlyGivenNames _ s2 _ _
  have hs2 : s2.Inv := .foldl (.update h) fun hu => hu.setCore
  exact .foldl (.update hs2) (fun hu => hu.foldl (fun hv => hv.withdrawRow))

theorem execBuiltInSelfTest_keeps {r} (h : s.Inv) : Keeps (execBuiltInSelfTest r s) := by
  unfold execBuiltInSelfTest
  refine State.Inv.ite ?_ h
  extract_lets +onlyGivenNames a s1 _ s2
  have ha : a.1.Inv := h.enterCores.enterRows
  have hs1 : s1.Inv := ha.repair.foldl fun hu => hu.withdrawRow
  have hs2 : s2.Inv := .endStep (.update hs1)
  split
  exacts [hs2.failStart, hs2]

theorem execLpddr5xTraining_keeps {fail9600 fail8533} (h : s.Inv) : Keeps (execLpddr5xTraining fail9600 fail8533 s) := by
  unfold execLpddr5xTraining
  refine State.Inv.ite ?_ h
  split
  · exact h.endStep
  · extract_lets +onlyGivenNames s1
    have hs1 : s1.Inv := h.report.endStep
    split
    exacts [State.Inv.update hs1, hs1.failStart]

theorem State.Inv.layOut {g} (h : s.Inv) : (s.layOut g).Inv := .update h

theorem execDirectoryRead_keeps (h : s.Inv) : Keeps (execDirectoryRead s) := by
  unfold execDirectoryRead
  refine State.Inv.ite ?_ h
  extract_lets _ _ _ _ _ _ s2
  have hs2 : s2.Inv := State.Inv.endStep (.layOut (.update memWf_nil))
  split
  exacts [State.Inv.openBootRead (.update hs2), hs2]

theorem State.Inv.settleAll (h : s.Inv) : s.settleAll.Inv := h.foldl fun hu => hu.settle
theorem State.Inv.runFirmware (h : s.Inv) : s.runFirmware.Inv := .update h
theorem State.Inv.releaseAll (h : s.Inv) : s.releaseAll.Inv := h.foldl fun hu => hu.eraseCtx.closeMailbox

theorem execFirmwareEntry_keeps (h : s.Inv) : Keeps (execFirmwareEntry s) := by
  unfold execFirmwareEntry
  split
  exacts [h, State.Inv.ite h.releaseAll.runFirmware.setLocks.endFwLoad.settleAll h]

theorem State.Inv.noteRestart {cause core} (h : s.Inv) : (s.noteRestart cause core).Inv := .report (.update h)
theorem State.Inv.markStreak (h : s.Inv) : s.markStreak.Inv := .ite (.update h) h

theorem State.Inv.abortSteps (h : s.Inv) : s.abortSteps.Inv := by
  unfold State.abortSteps
  extract_lets +onlyGivenNames s1
  have hs1 : s1.Inv := h.foldl (fun hu => .ite hu (.dropStep (.ite hu.clearCores hu)))
  exact hs1.foldl fun hu => .ite hu.stopLearn.setLearn hu

theorem State.Inv.restartBoot (h : s.Inv) : s.restartBoot.Inv := by
  unfold State.restartBoot
  extract_lets _ _ s0 s1 _
  have hs0 : s0.Inv := .update h.closeBootRead
  have hs1 : s1.Inv := by
    dsimp only [s1]
    split
    exacts [h, .ite hs0.dropReading hs0.finish]
  exact .update hs1

theorem State.Inv.endConsumed {status} (h : s.Inv) : (s.endConsumed status).Inv := by
  unfold State.endConsumed
  extract_lets +onlyGivenNames s1 _ _ _ _ _ _
  have hs1 : s1.Inv := h.foldl fun hu => hu.dropReading
  exact .foldl (.update hs1) fun hu => hu.finish

theorem State.Inv.endShardRequests {status} (h : s.Inv) : (s.endShardRequests status).Inv := by
  unfold State.endShardRequests
  extract_lets +onlyGivenNames s1
  have hs1 : s1.Inv := h.foldl (fun hu => hu.foldl (fun hv => hv.post))
  exact .update hs1

theorem State.Inv.endForming {status} (h : s.Inv) : (s.endForming status).Inv := by
  unfold State.endForming
  refine .ite ?_ h
  extract_lets +onlyGivenNames s1
  have hs1 : s1.Inv := by
    dsimp only [s1]
    split
    exacts [h.leaveGroup.finish, h.leaveGroup]
  exact hs1.groupEvent

theorem State.Inv.restartLearn {t} (h : s.Inv) : (s.restartLearn t).Inv := .ite h (.ite h.failLearn h.failLearn.tell)

theorem State.Inv.endForRestart (h : s.Inv) : s.endForRestart.Inv := by
  unfold State.endForRestart
  extract_lets s1 _ s3 _
  have hs1 : s1.Inv := h.endShardRequests
  have hs3 : s3.Inv := ((hs1.foldl fun hu => hu.restartLearn).endCapping).endForming
  refine .endConsumed (hs3.foldl fun {t c} hu => ?_)
  extract_lets t1 _
  have ht1 : t1.Inv := by
    dsimp only [t1]
    split
    exacts [.ite hu.undoTurn hu, hu]
  exact (ht1.foldl fun hv => hv.failLoad).endWaits

theorem State.Inv.stayInBoot (h : s.Inv) : s.stayInBoot.Inv := by
  unfold State.stayInBoot
  extract_lets +onlyGivenNames s1 _ _ _
  have hs1 : s1.Inv := h.endForRestart.endRunning
  exact .foldl (.update hs1) fun hu => hu.finish

theorem State.Inv.beginRestart {cause core} (h : s.Inv) : (s.beginRestart cause core).Inv := by
  unfold State.beginRestart
  extract_lets +onlyGivenNames s1
  have hs1 : s1.Inv := h.noteRestart.markStreak
  refine .ite hs1.restartBoot ?_
  extract_lets +onlyGivenNames _ _ s3
  have hs3 : s3.Inv := .abortSteps (.update hs1)
  exact .ite hs3.stayInBoot hs3

theorem State.Inv.loadImage {i b} (h : s.Inv) : (s.loadImage i b).Inv := .endStep (.becomeActive (.ite (.update h.write) h))

theorem execKeeperRestart_keeps (h : s.Inv) : Keeps (execKeeperRestart s) := by
  unfold execKeeperRestart
  refine State.Inv.ite ?_ h
  split
  · exact h.stayInBoot
  · extract_lets +onlyGivenNames b r
    split
    exacts [h.checkImage.loadImage, h.checkImage.stayInBoot]

theorem State.Inv.postActivated (h : s.Inv) : s.postActivated.Inv := .foldl (.update h) fun hu => hu.finish
theorem State.Inv.keptDoorbellsNow (h : s.Inv) : s.keptDoorbellsNow.Inv := .foldl (.update h) fun hu => hu.doorbell

theorem execWdogKick_keeps {v} (h : s.Inv) : Keeps (execWdogKick v s) := by
  unfold execWdogKick
  extract_lets +onlyGivenNames _ _
  split
  exacts [h, State.Inv.ite (.update h) (.ite (.update h) h)]

theorem execWdogCfgWrite_keeps {v} (h : s.Inv) : Keeps (execWdogCfgWrite v s) := State.Inv.ite h.ignored (.update h)
theorem State.Inv.activateNow {ts} (h : s.Inv) : (s.activateNow ts).Inv := .beginRestart (.update h)
theorem State.Inv.takeFwActivate {x t} (h : s.Inv) : (s.takeFwActivate x t).Inv := .ite h.finish (.ite (.update h) h.activateNow)

theorem execEmergencyClose_keeps (h : s.Inv) : Keeps (execEmergencyClose s) := by
  unfold execEmergencyClose
  refine State.Inv.ite ?_ h
  extract_lets +onlyGivenNames _ s1
  have hs1 : s1.Inv := .powerEvent (.drawAlert (.update h))
  exact State.Inv.ite hs1.activateNow hs1

theorem State.Inv.copyOut {t w data v0} (h : s.Inv) : (s.copyOut t w data v0).Inv := .ite h.writeWindow.finish h.finish
theorem State.Inv.takeLogRead {m t} (h : s.Inv) : (s.takeLogRead m t).Inv := h.copyOut
theorem State.Inv.takeTraceSet {m t} (h : s.Inv) : (s.takeTraceSet m t).Inv := .finish (.update h)
theorem State.Inv.takeLedgerRead {m t} (h : s.Inv) : (s.takeLedgerRead m t).Inv := h.copyOut

/-! ### Propolis -/

theorem State.Inv.beginWipe {t to'} (h : s.Inv) : (s.beginWipe t to').Inv := .foldl (.update h) fun hu => .ite hu.beginRelease hu
theorem State.Inv.wipeMemory (h : s.Inv) : s.wipeMemory.Inv := .update (memWf_filter h _)
theorem State.Inv.setLifecycle {n} (h : s.Inv) : (s.setLifecycle n).Inv := .report (.update h)

theorem execWipeComplete_keeps (h : s.Inv) : Keeps (execWipeComplete s) := by
  unfold execWipeComplete
  split
  · exact h
  · refine State.Inv.ite h ?_
    extract_lets +onlyGivenNames _ _ s2
    have hs2 : s2.Inv := .update h.wipeMemory
    split
    exacts [State.Inv.update hs2.finish, State.Inv.finish (.setLifecycle (.ite (.update hs2) hs2))]

theorem State.Inv.applyToken {t b} (h : s.Inv) : (s.applyToken t b).Inv := by
  unfold State.applyToken
  extract_lets +onlyGivenNames _ _ s1
  have hs1 : s1.Inv := .report (.update h)
  exact .ite (.ite (.finish (.setLifecycle (.update hs1))) (.ite hs1.setLifecycle.finish hs1.beginWipe)) (.ite (.finish
      (.update hs1)) (.ite hs1.finish hs1.beginWipe))

theorem State.Inv.tokenWindow {t d} (h : s.Inv) : (s.tokenWindow t d).Inv := by
  unfold State.tokenWindow
  split
  · exact h.finish
  · exact h.finish
  · exact h.finish
  · split
    exacts [h.finish, h.rejectSignature.finish, h.wake.applyToken]

theorem State.Inv.takeDebugUnlock {m t} (h : s.Inv) : (s.takeDebugUnlock m t).Inv := h.readWindow

/-! ### Pins -/

theorem State.Inv.resetMain : s.resetMain.Inv := .update (memWf_undefined s.free)
theorem State.Inv.loseMain : s.loseMain.Inv := .update State.Inv.resetMain

theorem execPowerLoss_keeps {cause} (h : s.Inv) : Keeps (execPowerLoss cause s) := by
  unfold execPowerLoss
  refine State.Inv.ite (.ite ?_ h) (.ite (.update State.Inv.loseMain) h)
  extract_lets s1 _ _
  have hs1 : s1.Inv := .ite State.Inv.loseMain h
  exact State.Inv.update hs1

theorem State.Inv.stop {cause unit} : (s.stop cause unit).Inv := .update State.Inv.resetMain
theorem State.Inv.mgmtSend {b} (h : s.Inv) : (s.mgmtSend b).Inv := .update h

/-! ### Registers -/

theorem State.Inv.goesOn {o} (h : s.Inv) (k : Keeps o) : (Sys2Proof.Machine.goesOn s o).Inv := by
  cases o with
  | next t => exact k
  | _ => exact h

theorem State.Inv.unlessLocked {t : State} {i} (h : s.Inv) (ht : t.Inv) : Answers id (s.unlessLocked i t) := State.Inv.ite h ht

theorem State.Inv.writeCoreCtrl {w v} (h : s.Inv) : (s.writeCoreCtrl w v).Inv := by
  unfold State.writeCoreCtrl
  extract_lets +onlyGivenNames s1 s2
  have hs1 : s1.Inv := .ite (h.goesOn (execCoreStart_keeps h)) h
  have hs2 : s2.Inv := .ite (hs1.goesOn (execCoreAbort_keeps hs1)) hs1
  exact .ite (hs2.goesOn (execFrameStoreFill_keeps hs2)) hs2

theorem State.Inv.coreWrite {w off v} (h : s.Inv) : Answers id (s.coreWrite w off v) := by
  unfold State.coreWrite
  extract_lets +onlyGivenNames _ _
  split
  · exact h.writeCoreCtrl
  · exact h.setCore
  · exact h.setCore
  · exact h.setCore
  · exact h.setCore
  · exact h.setCore
  · exact h.setCore
  · exact h.setCore
  · exact h.setCore
  · split
    exacts [h.setCore, h.goesOn (execCoreTokenWrite_keeps h), Answers.map fun _ _ => h]

theorem State.Inv.veuWrite {w off v} (h : s.Inv) : Answers id (s.veuWrite w off v) := by
  unfold State.veuWrite
  extract_lets +onlyGivenNames _ _ _
  split
  · exact h.setCore
  · exact h.setCore
  · exact State.Inv.ite h.setCore h.ignored
  · exact h.setCore
  · exact h.setCore
  · exact h.setCore
  · exact State.Inv.ite (h.goesOn (execVeuFill_keeps h)) h
  · refine Answers.ite h.setCore ?_
    split
    · split
      exacts [State.Inv.ite h.setCore h.ignored, trivial]
    · exact Answers.map fun _ _ => h

theorem State.Inv.writeBrdCtx {n o v} (h : s.Inv) : Answers id (s.writeBrdCtx n o v) := by
  unfold State.writeBrdCtx
  extract_lets +onlyGivenNames _
  split
  exacts [h.unlessLocked h.setCreg, h.unlessLocked (.ite h.setCreg h), h, h, trivial]

theorem State.Inv.writeKvCtx {n o v} (h : s.Inv) : Answers id (s.writeKvCtx n o v) := by
  unfold State.writeKvCtx
  extract_lets +onlyGivenNames _
  split
  · exact h.unlessLocked h.setCreg
  · exact h.unlessLocked h.setCreg
  · exact h.unlessLocked h.setCreg
  · exact h.unlessLocked h.setCreg
  · exact h.unlessLocked h.setCreg
  · exact h.unlessLocked h.setCreg
  · exact h
  · exact h
  · exact trivial

theorem State.Inv.writeSlot {agent i entry} (h : s.Inv) : (s.writeSlot agent i entry).Inv := .ite h.setSlot h.ignored

theorem State.Inv.brdWrite {agent off v} (h : s.Inv) : Answers id (s.brdWrite agent off v) := by
  unfold State.brdWrite
  split
  · exact State.Inv.update h
  · exact State.Inv.update h
  · split
    exacts [h.writeBrdCtx, Answers.ite h.writeSlot trivial, h.writeKvCtx, Answers.map fun _ _ => h]

theorem State.Inv.setSup {n r} (h : s.Inv) : (s.setSup n r).Inv := .ite h.setCreg h

theorem State.Inv.necWrite {off v} (h : s.Inv) : Answers id (s.necWrite off v) := by
  unfold State.necWrite
  split
  · exact State.Inv.update h
  · exact State.Inv.update h
  · split
    exacts [h.setSup, h.setSup, Answers.map fun _ _ => h]

theorem State.Inv.memWriteReg {off v} (h : s.Inv) : Answers id (s.memWriteReg off v) := by
  unfold State.memWriteReg
  extract_lets +onlyGivenNames _
  split
  · exact h.unlessLocked (.update h)
  · exact h.unlessLocked (.update h)
  · exact h.goesOn (execMemInval_keeps h)
  · exact State.Inv.update h
  · exact State.Inv.update h
  · exact State.Inv.update h
  · exact h.goesOn (execMemZero_keeps h)
  · exact Answers.map fun _ _ => h

theorem State.Inv.wstWrite {off v} (h : s.Inv) : Answers id (s.wstWrite off v) := by
  unfold State.wstWrite
  split
  exacts [State.Inv.update h, Answers.map fun _ _ => h]

theorem State.Inv.trnWrite {off v} (h : s.Inv) : Answers id (s.trnWrite off v) := by
  unfold State.trnWrite
  extract_lets +onlyGivenNames _
  split
  · exact h.goesOn (execTrnModeWrite_keeps h)
  · exact h.unlessLocked (.update h)
  · exact h.unlessLocked (.update h)
  · exact State.Inv.update h
  · exact State.Inv.update h
  · exact Answers.map fun _ _ => h

theorem State.Inv.writeDlCtrl {v} (h : s.Inv) : (s.writeDlCtrl v).Inv :=
  .ite (.goesOn (.update h) (execDlFence_keeps (.update h))) (.update h)

theorem State.Inv.dlWrite {off v} (h : s.Inv) : Answers id (s.dlWrite off v) := by
  unfold State.dlWrite
  extract_lets +onlyGivenNames _
  split
  · exact h.writeDlCtrl
  · exact State.Inv.update h
  · exact State.Inv.update h
  · exact State.Inv.update h
  · exact State.Inv.update h
  · exact State.Inv.update h
  · exact Answers.map fun _ _ => h

theorem State.Inv.ethWrite {off v} (h : s.Inv) : Answers id (s.ethWrite off v) := by
  unfold State.ethWrite
  extract_lets +onlyGivenNames _
  split
  · exact h.writeEthCtrl
  · exact State.Inv.ite (.update h) h.ignored
  · exact State.Inv.update h
  · exact State.Inv.update h
  · exact State.Inv.update h
  · exact State.Inv.update h
  · exact Answers.map fun _ _ => h

theorem State.Inv.kprWrite {off v} (h : s.Inv) : Answers id (s.kprWrite off v) := by
  unfold State.kprWrite
  extract_lets +onlyGivenNames _
  split
  · exact h.goesOn (execWdogCfgWrite_keeps h)
  · exact h.goesOn (execWdogKick_keeps h)
  · exact State.Inv.update h
  · split
    exacts [State.Inv.update h, Answers.map fun _ _ => h]

theorem State.Inv.clkWrite {off v} (h : s.Inv) : Answers id (s.clkWrite off v) := by
  unfold State.clkWrite
  split
  exacts [h.writeDvfs, Answers.map fun _ _ => h]

theorem State.Inv.prpWrite {off v} (h : s.Inv) : Answers id (s.prpWrite off v) := by
  unfold State.prpWrite
  split
  exacts [h.setLocks, State.Inv.update h, Answers.map fun _ _ => h]

theorem State.Inv.ldgWrite {off v} (h : s.Inv) : Answers id (s.ldgWrite off v) := by
  unfold State.ldgWrite
  split
  exacts [State.Inv.update h, Answers.map fun _ _ => h]

theorem State.Inv.grdWrite {off v} (h : s.Inv) : Answers id (s.grdWrite off v) := by
  unfold State.grdWrite
  extract_lets +onlyGivenNames _
  split
  · exact State.Inv.update h
  · exact State.Inv.update h
  · split
    exacts [h.setCreg, Answers.map fun _ _ => h]

theorem State.Inv.regWrite {agent a v} (h : s.Inv) : Answers id (s.regWrite agent a v) := by
  unfold State.regWrite
  split
  · exact Answers.ite h.coreWrite h.veuWrite
  · extract_lets +onlyGivenNames off
    split
    · exact Answers.map fun _ _ => State.Inv.update h
    · exact h.brdWrite
    · exact h.necWrite
    · exact h.memWriteReg
    · exact h.wstWrite
    · exact h.trnWrite
    · exact h.dlWrite
    · exact h.ethWrite
    · exact h.kprWrite
    · exact h.clkWrite
    · exact h.prpWrite
    · exact h.ldgWrite
    · exact h.grdWrite
    · exact trivial

theorem execRegisterWrite_keeps {agent addr v} (h : s.Inv) : Keeps (execRegisterWrite agent addr v s) := by
  unfold execRegisterWrite
  refine State.Inv.ite (.ite h.ignored h) ?_
  split
  · rename_i t heq
    exact (h.regWrite.of_some heq)
  · exact h.ignored

theorem State.Inv.debugRead {a} (h : s.Inv) : (s.debugRead a).2.Inv := by
  unfold State.debugRead
  refine .ite_snd h ?_
  split
  exacts [h, h.ignored]

theorem State.Inv.debugWrite {a v} (h : s.Inv) : (s.debugWrite a v).Inv := by
  unfold State.debugWrite
  refine .ite (.ite h h.write) ?_
  split
  · rename_i t heq
    exact (h.regWrite.of_some heq)
  · exact h.ignored

theorem State.Inv.jtagRun {op} (h : s.Inv) : (s.jtagRun op).Inv := by
  unfold State.jtagRun
  split
  exacts [.ite (.update h) h, .ite (.update h) h, .update h.debugRead, h.debugWrite, h]

/-! ### Read responses -/

theorem State.Inv.windowRead {t m d} (h : s.Inv) : (s.windowRead t m d).Inv := by
  unfold State.windowRead
  split
  exacts [h.packageWindow, h.takeFirmware, h.tokenWindow, h.supplyWindow, h.attestWith, h.packWindow, h.finish]

theorem State.Inv.windowDone {mb d} (h : s.Inv) : (s.windowDone mb d).Inv := by
  unfold State.windowDone
  split
  · exact h
  · rename_i m s1 heq
    exact ((h.endReading.of_some heq).windowRead).settle

theorem State.Inv.consumerDone {i d} (h : s.Inv) : (s.consumerDone i d).Inv := by
  unfold State.consumerDone
  refine .ite h ?_
  split
  exacts [h.takeConsumer, h.setSlot]

theorem State.Inv.bootImageDone {n mb d} (h : s.Inv) : (s.bootImageDone n mb d).Inv := .windowDone (.update h)

theorem State.Inv.readDone {n d x} (h : s.Inv) : (s.readDone n d x).Inv := by
  unfold State.readDone
  split
  exacts [h.consumerDone, h.takePrompt, h.windowDone, h.bootImageDone, h.takeImage, h]

theorem execRdmaReadResponse_keeps {qpn d} (h : s.Inv) : Keeps (execRdmaReadResponse qpn d s) := by
  unfold execRdmaReadResponse
  split
  · rename_i why s1 heq
    exact State.Inv.ite ((h.takeRead.of_some heq).readDone) h
  · exact h

theorem State.Inv.keepRecords {n ops} (h : s.Inv) : (s.keepRecords n ops).Inv := .update h
theorem State.Inv.stopMirror {i} (h : s.Inv) : (s.stopMirror i).Inv := .ite h.setSlot h.setSlot.endSlot

theorem State.Inv.stopCapture {n} (h : s.Inv) : (s.stopCapture n).Inv := by
  unfold State.stopCapture
  split
  exacts [h, .ite h.endCapture h]

theorem State.Inv.qpFails {n q} (h : s.Inv) : (s.qpFails n q).Inv := by
  unfold State.qpFails
  extract_lets +onlyGivenNames _ s1 _ _ _ s3 s4 _ _
  have hs1 : s1.Inv := h.setQp.keepRecords
  have hs3 : s3.Inv := .eventAdmin (.update hs1)
  have hs4 : s4.Inv := .ite hs3.eventCtx hs3
  exact ((((hs4.foldl (fun hu => hu.stopMirror)).stopCapture).foldl (fun hu => hu.readDone)).settleIdle).settleReleases

theorem execQpError_keeps {qpn cause} (h : s.Inv) : Keeps (execQpError qpn cause s) := by
  unfold execQpError
  split
  exacts [h, State.Inv.ite h h.qpFails]

end Sys2Proof.Machine
end

section
/-! SUPPORT. Every step keeps memory canonical. -/

namespace Sys2Proof.Machine

open Sys2Proof.Laws

section
variable {s : State}

theorem State.Inv.stageLog {r} (h : s.Inv) : (s.stageLog r).Inv := .update h

theorem State.Inv.flushLog (h : s.Inv) : s.flushLog.Inv := by
  unfold State.flushLog
  split
  · exact h
  · extract_lets +onlyGivenNames t _ u
    have ht : t.Inv := h.write.touchRegion
    exact .ite (.update ht) (.stageLog (.update (State.Inv.update ht)))

theorem State.Inv.logChoice {n code} (h : s.Inv) : (s.logChoice n code).Inv := .ite h.stageLog (.ite h.stageLog h)
theorem State.Inv.flushChoice {n} (h : s.Inv) : (s.flushChoice n).Inv := .ite h.flushLog h

theorem State.Inv.firmwareLogs (h : s.Inv) : s.firmwareLogs.Inv := by
  unfold State.firmwareLogs
  extract_lets +onlyGivenNames t
  have ht : t.Inv := h.logChoice.flushChoice
  exact .update ht

theorem State.Inv.tick (h : s.Inv) : (Sys2Proof.Machine.tick s).Inv := by
  unfold Sys2Proof.Machine.tick
  extract_lets _ _ s1
  have hs1 : s1.Inv := .rollShare (.update (State.Inv.update h))
  exact .ite (.ite hs1.firmwareLogs hs1) (.update h)

/-- Every command that answers a next state keeps memory canonical. -/
theorem exec_keeps {i : Instr} (h : s.Inv) : Keeps (exec i s) := by
  cases i with
  | identify => exact h.serve fun hu => hu.takeIdentify
  | netConfig => exact h.serve fun hu => hu.takeNetConfig
  | qpCreate => exact h.serve fun hu => hu.takeQpCreate
  | qpDestroy => exact h.serve fun hu => hu.takeQpDestroy
  | mboxBind => exact h.serve fun hu => hu.takeMboxBind
  | memRegister => exact h.serve fun hu => hu.takeMemRegister
  | memDeregister => exact h.serve fun hu => hu.takeMemDeregister
  | lock => exact h.serve fun hu => hu.takeLock
  | ctxCreate => exact h.serve fun hu => hu.takeCtxCreate
  | ctxRelease => exact h.serve fun hu => hu.takeCtxRelease
  | ctxSet => exact h.serve fun hu => hu.takeCtxSet
  | shareMode => exact h.serve fun hu => hu.takeShareMode
  | packageLoad => exact h.serve fun hu => hu.takePackageLoad
  | packageUnload => exact h.serve fun hu => hu.takePackageUnload
  | groupForm => exact h.serve fun hu => hu.takeGroupForm
  | queenMove => exact h.serve fun hu => hu.takeQueenMove
  | groupDissolve => exact h.serve fun hu => hu.takeGroupDissolve
  | packWrite => exact h.serve fun hu => hu.takePackWrite
  | packDelete => exact h.serve fun hu => hu.takePackDelete
  | packQuery => exact h.serve fun hu => hu.takePackQuery
  | load => exact h.serve fun hu => hu.takeLoad
  | turnLearn => exact h.serve fun hu => hu.takeTurnLearn
  | turnGen => exact h.serve fun hu => hu.takeTurnGen
  | switchMode => exact h.serve fun hu => hu.takeSwitchMode
  | versionRetire => exact h.serve fun hu => hu.takeVersionRetire
  | versionGrant => exact h.serve fun hu => hu.takeVersionGrant
  | versionRevoke => exact h.serve fun hu => hu.takeVersionRevoke
  | adapterRelease => exact h.serve fun hu => hu.takeAdapterRelease
  | shardSupply => exact h.serve fun hu => hu.takeShardSupply
  | learnStep => exact h.serve fun hu => hu.takeLearnStep
  | cancel => exact h.serve fun hu => hu.takeCancel
  | guardSet => exact h.serve fun hu => hu.takeGuardSet
  | capTake => exact h.serve fun hu => hu.takeCapTake
  | capRestore => exact h.serve fun hu => hu.takeCapRestore
  | fwLoad => exact State.Inv.ite h (h.serve (fun hu => hu.takeFwLoad))
  | fwActivate => exact h.serve fun hu => hu.takeFwActivate
  | powerSet => exact h.serve fun hu => hu.takePowerSet
  | logRead => exact h.serve fun hu => hu.takeLogRead
  | traceSet => exact h.serve fun hu => hu.takeTraceSet
  | ledgerRead => exact h.serve fun hu => hu.takeLedgerRead
  | debugUnlock => exact h.serve fun hu => hu.takeDebugUnlock
  | admission => exact h.serve fun hu => hu.takeAdmit
  | handleRegister => exact h.serve fun hu => hu.takeHandleRegister
  | handleRelease => exact h.serve fun hu => hu.takeHandleRelease
  | setReward => exact h.serve fun hu => hu.takeSetReward
  | superRelease => exact h.serve fun hu => hu.takeSuperRelease
  | slotQuery => exact h.serve fun hu => hu.takeSlotQuery
  | doorbell => exact execDoorbell_keeps h
  | udpSubmit => exact execUdpSubmit_keeps h
  | udpPoll => exact execUdpPoll_keeps h
  | rdmaWriteInbound => exact execRdmaWriteInbound_keeps h
  | rdmaReadInbound => exact execRdmaReadInbound_keeps h
  | ceMarkedPacket => exact h.onPacket fun hu => .ite hu.setQp.transmit hu
  | cnpReceived => exact h.onPacket fun hu => hu.setQp
  | rateRecoverExpiry => exact execRateRecoverExpiry_keeps h
  | roceAckTimeout => exact execRoceAckTimeout_keeps h
  | qpError => exact execQpError_keeps h
  | ethLinkWaitExpiry => exact State.Inv.ite (.update h.ethFault) h
  | ethLinkUp => exact State.Inv.ite (.update h) h
  | ethLinkDown => exact State.Inv.ite h.ethDown h
  | ethCtrlWrite => exact h.writeEthCtrl
  | promptReadComplete => exact execPromptReadComplete_keeps h
  | coreStart => exact execCoreStart_keeps h
  | coreAbort => exact execCoreAbort_keeps h
  | frameStoreFill => exact execFrameStoreFill_keeps h
  | frameStoreFillDone => exact h.setCore
  | coreTokenWrite => exact execCoreTokenWrite_keeps h
  | veuFill => exact execVeuFill_keeps h
  | veuFillDone => exact h.setCore
  | memInval => exact execMemInval_keeps h
  | memInvalDone => exact State.Inv.update h
  | memZero => exact execMemZero_keeps h
  | memZeroDone => exact State.Inv.update h
  | trnModeWrite => exact execTrnModeWrite_keeps h
  | dlFence => exact execDlFence_keeps h
  | dlEnable => exact State.Inv.update h
  | wdogKick => exact execWdogKick_keeps h
  | wdogCfgWrite => exact execWdogCfgWrite_keeps h
  | prpLockWrite => exact h.setLocks
  | brdSlotWrite => exact h.writeSlot
  | clkDvfsWrite => exact h.writeDvfs
  | registerWrite => exact execRegisterWrite_keeps h
  | reservedAddressRead => exact State.Inv.ite h.ignored h
  | frameDispatch => exact execFrameDispatch_keeps h
  | loadTile => exact h.startHead fun hu => hu.loadTile
  | loadGather => exact h.startHead fun hu => hu.loadGather
  | loadLinear => exact h.startHead fun hu => hu.loadLinear
  | storeTile => exact h.startStore fun hu => hu.storeTile
  | storeScatter => exact h.startStore fun hu => hu.storeScatter
  | storeScatterAdd => exact h.startStore fun hu => hu.storeScatterAdd
  | storeLinear => exact h.startStore fun hu => hu.storeLinear
  | copy => exact execCopy_keeps h
  | linkCopy => exact h.startHead fun hu => hu.linkCopyFrame
  | mma => exact State.Inv.ite ((h.startHead (fun hu => hu.mmaFrame)).bumpFree) h
  | fin => exact State.Inv.ite (h.startHead (fun hu => hu.finFrame)) h
  | chain => exact execChain_keeps h
  | frameComplete => exact execFrameComplete_keeps h
  | waitTimeout => exact execWaitTimeout_keeps h
  | stepCoresDone => exact execStepCoresDone_keeps h
  | cfgMismatch => exact execCfgMismatch_keeps h
  | cfgLost => exact execCfgLost_keeps h
  | wpWriteHeld => exact execWpWriteHeld_keeps h
  | capFirstTouchCopyDone => exact execCapFirstTouchCopyDone_keeps h
  | capGranuleCopyDone => exact execCapGranuleCopyDone_keeps h
  | scrubRead => exact execScrubRead_keeps h
  | patrolRead => exact State.Inv.ite (.extentRead (.update h)) h
  | relocationDone => exact execRelocationDone_keeps h
  | shareWindowEnd => exact h.rollShare
  | buildWorkList => exact State.Inv.ite h.buildFor h
  | stepStart => exact execStepStart_keeps h
  | sampleRow => exact execSampleRow_keeps h
  | stepCommit => exact execStepCommit_keeps h
  | stepBoundary => exact execStepBoundary_keeps h
  | consumerPoll => exact State.Inv.ite h.readConsumer h
  | stepStartMessage => exact execStepStartMessage_keeps h
  | stepEnd => exact execStepEnd_keeps h
  | clipFactor => exact execClipFactor_keeps h
  | staged => exact execStaged_keeps h
  | replay => exact execReplay_keeps h
  | replayResult => exact execReplayResult_keeps h
  | commit => exact execCommit_keeps h
  | rollback => exact execRollback_keeps h
  | ack => exact execAck_keeps h
  | generationGuardDecision => exact execGenerationGuardDecision_keeps h
  | coreSelfTest => exact State.Inv.ite (.ite h.failCore (.update h)) h
  | coreSelfTestDone => exact State.Inv.ite h (.ite (.update h) h.failCore)
  | turnMemberReady => exact execTurnMemberReady_keeps h
  | turnShardsPresent => exact execTurnShardsPresent_keeps h
  | shardEnd => exact execShardEnd_keeps h
  | hostWaitExpiry => exact execHostWaitExpiry_keeps h
  | loadEnd => exact execLoadEnd_keeps h
  | capturePoint => exact execCapturePoint_keeps h
  | captureEnd => exact execCaptureEnd_keeps h
  | restoreEnd => exact execRestoreEnd_keeps h
  | data => exact h.receive (fun hu => hu.byStamp (fun hv => hv.deliverData))
  | signal => exact h.receive (fun hu => hu.byStamp (fun hv => hv.deliverSignal))
  | control => exact h.receive fun hu => hu.takeControl
  | done => exact h.receive fun hu => hu.endTransfer
  | stale => exact h.receive fun hu => hu.takeStale
  | hello => exact h.receive fun hu => hu.takeHello
  | lack => exact State.Inv.ite h (.pumpLink (.ite (.report (.update h.setLink)) h.setLink))
  | ready => exact State.Inv.ite (.settleForming (.update h)) h
  | active => exact State.Inv.ite h.activate h
  | formWaitExpiry => exact execFormWaitExpiry_keeps h
  | heartbeat => exact State.Inv.ite (.update h) h
  | heartbeatLoss => exact State.Inv.ite h.takeLost h
  | linkDown => exact h.fenceLink
  | modResetNRelease => exact State.Inv.ite (.update h) h
  | pllLock => exact State.Inv.ite (.update h) h
  | propolisSelfCheck => exact State.Inv.ite (.ite (.update h) (.failStart (.update h))) h
  | builtInSelfTest => exact execBuiltInSelfTest_keeps h
  | lpddr5xTraining => exact execLpddr5xTraining_keeps h
  | directoryRead => exact execDirectoryRead_keeps h
  | firmwareEntry => exact execFirmwareEntry_keeps h
  | watchdogExpiry => exact State.Inv.ite h.beginRestart h
  | keeperCoreException => exact State.Inv.ite h.beginRestart h
  | keeperSramUncorrectable => exact State.Inv.ite h.beginRestart h
  | keeperRestart => exact execKeeperRestart_keeps h
  | keeperResume => exact State.Inv.ite h.runFirmware.endForRestart.postActivated.drawAlert.keptDoorbellsNow.settleAll.settleIdle.settleReleases h
  | pgdWindowEnd => exact execPgdWindowEnd_keeps h
  | railCurrentClamp => exact State.Inv.ite h (.ite (.setCeiling (.update h)) (.ite (.update h) (.powerEvent (.update h))))
  | thermalStop => exact State.Inv.ite (.update State.Inv.stop) h
  | railVoltageStop => exact State.Inv.ite (.update State.Inv.stop) h
  | emergencyClose => exact execEmergencyClose_keeps h
  | vcoreReached => exact execVcoreReached_keeps h
  | dvfsRaiseTimeout => exact State.Inv.ite (.update h) h
  | selfRefreshIdle => exact State.Inv.ite (.update h) h
  | vauxApplied => exact State.Inv.update h
  | pwrGoodRise => exact State.Inv.ite (.update h) h
  | railsInRegulation => exact State.Inv.ite (.update h) h
  | powerLoss => exact execPowerLoss_keeps h
  | modResetNAssert => exact .ite h (.ite (State.Inv.update h) (.ite trivial State.Inv.resetMain))
  | refclkLoss => exact State.Inv.ite h (.ite State.Inv.resetMain (.update h))
  | mctpControl => exact State.Inv.ite h.mgmtSend h
  | pldmRequest => exact State.Inv.ite h.mgmtSend h
  | mgmtLedgerRead => exact State.Inv.ite h.mgmtSend h
  | occurrence => exact State.Inv.update h
  | summaryWindowEnd => exact State.Inv.update h
  | operatingSecond => exact State.Inv.ite (.update h) h
  | operatingMinuteSave => exact State.Inv.ite (.update h) h
  | wipeComplete => exact execWipeComplete_keeps h
  | deviceLinkTrained => exact State.Inv.ite h.setLink.sendOn h
  | packWriteComplete => exact execPackWriteComplete_keeps h
  | heartbeatSend => exact State.Inv.ite h (.ite h.tellAll h.tell)
  | refclkReturn => exact State.Inv.update h
  | railClampRelease => exact State.Inv.ite h (.powerEvent (.update h))
  | pfcPauseFrame => exact State.Inv.update h
  | arpRequest => exact State.Inv.ite h.transmit h
  | neighborSolicitation => exact State.Inv.ite h.transmit h
  | echoRequest => exact State.Inv.ite h.transmit h.dropUnmatched
  | roceAckReceived => exact execRoceAckReceived_keeps h
  | rdmaReadResponse => exact execRdmaReadResponse_keeps h
  | jtagInstruction => exact State.Inv.ite h (.jtagRun (.update h))

end

/-- A step, the tick of an empty queue or the front command, keeps memory canonical. -/
theorem step_keeps {s : State} (h : s.Inv) : Keeps (step s) := by
  unfold step
  split
  · exact h.tick
  · exact exec_keeps (.update h)

end Sys2Proof.Machine

namespace Sys2Proof.Proofs

open Sys2Proof.Machine

/-- Settles O4: the front command and the tick keep memory canonical. -/
theorem stepsKeepMemoryCanonical : Obligations.StepsKeepMemoryCanonical := by
  intro s t h hstep
  exact (step_keeps h).of_next hstep

end Sys2Proof.Proofs
end

section
/-! SUPPORT. The memory commands (R221, R223, R254): a zeroed range, what a Keeper's write asks of a capping, and the START bits. -/

namespace Sys2Proof.Proofs

open Sys2Proof.Machine Sys2Proof.Laws

/-! ### Zeroed ranges -/

theorem memGet_zeroRange_inside (m : List Host.Cell) {lo hi b : Nat} (hlo : lo ≤ b) (hhi : b < hi) :
    memGet (memZeroRange m lo hi) b = 0 := by
  refine memGet_unlisted fun c hc hcb => ?_
  obtain ⟨-, hout⟩ := List.mem_filter.1 hc
  simp only [hcb, Bool.or_eq_true, decide_eq_true_eq] at hout
  omega

theorem memGet_zeroRange_outside (m : List Host.Cell) {lo hi b : Nat} (h : b < lo ∨ hi ≤ b) :
    memGet (memZeroRange m lo hi) b = memGet m b := by
  induction m with
  | nil => rfl
  | cons c rest ih =>
    obtain ⟨j, v⟩ := c
    by_cases hj : j = b
    · subst hj
      simp [memZeroRange, memGet, tgetD, tget, h]
    · by_cases hkeep : j < lo ∨ hi ≤ j
      · simpa [memZeroRange, memGet, tgetD, tget, hkeep, hj] using ih
      · simpa [memZeroRange, memGet, tgetD, tget, hkeep, hj] using ih

/-! ### Capping -/

/-- With no capture or restore under way, a write by the Keeper waits for no copy (R526). -/
theorem touchCopy_uncapped {s : State} (h : s.guard.cap = none) (ctx a n : Nat) : s.touchCopy ctx a n = s := by
  unfold State.touchCopy
  refine List.foldl_fixed' (fun p => ?_) _
  simp only [h]

/-! ### START bits -/

theorem bitAt_and (v m : Word) (i : Nat) : bitAt (v &&& m).toNat i = (bitAt v.toNat i && bitAt m.toNat i) := by
  simp only [bitAt_eq_testBit, BitVec.toNat_and, Nat.testBit_and]

theorem bitAt_and_clear (v : Word) {m : Word} {i : Nat} (hm : bitAt m.toNat i = false) : bitAt (v &&& m).toNat i = false := by
  rw [bitAt_and, hm, Bool.and_false]

/-- A mask of the low bits keeps the field of those bits. -/
theorem bits_and_low (v n : Nat) : bits (v &&& 2 ^ (n + 1) - 1) n 0 = bits v n 0 := by
  simp [bits, Nat.and_two_pow_sub_one_eq_mod]

/-! ### MEM_ZERO -/

section
variable {s : State} {v : Word} {a n u : Nat}

/-- A START that finds a zeroing under way, no granule, or a range beyond its tier has no effect but its count (R223, R254). -/
theorem execMemZero_notPermitted (ha : bits s.memCtl.zeroAddr.toNat 47 0 = a) (hn : bits v.toNat 17 0 = n)
    (hstart : bitAt v.toNat 31 = true) (hu : zeroUnit a = some u)
    (hbad : bitAt s.memCtl.zeroCtrl.toNat 31 = true ∨ n = 0 ∨ (if inSram a = true then sramEnd else lpEnd) < a + n * u) :
    execMemZero v s = .next (s.ignored regMemZeroCtrl none) := by
  have hcond : (bitAt s.memCtl.zeroCtrl.toNat 31 || n == 0 ||
      decide ((if inSram a = true then sramEnd else lpEnd) < a + n * u)) = true := by
    simpa [or_assoc] using hbad
  simp only [execMemZero, ha, hn, hstart, hu, hcond, Bool.not_true, Bool.false_eq_true, if_false, if_true]

/-- A permitted START with no capping under way zeroes its range and leaves START set (R223). -/
theorem execMemZero_permitted (ha : bits s.memCtl.zeroAddr.toNat 47 0 = a) (hn : bits v.toNat 17 0 = n)
    (hstart : bitAt v.toNat 31 = true) (hu : zeroUnit a = some u) (hidle : bitAt s.memCtl.zeroCtrl.toNat 31 = false)
    (hpos : 0 < n) (hlast : a + n * u ≤ if inSram a = true then sramEnd else lpEnd) (hcap : s.guard.cap = none) :
    ∃ c : MemCtl, c.zeroCtrl = v &&& 0x8003FFFF ∧
      execMemZero v s = .next { s with mem := memZeroRange s.mem a (a + n * u), memCtl := c } := by
  have hcond : (bitAt s.memCtl.zeroCtrl.toNat 31 || n == 0 ||
      decide ((if inSram a = true then sramEnd else lpEnd) < a + n * u)) = false := by
    simp only [hidle, Bool.false_or, Bool.or_eq_false_iff, beq_eq_false_iff_ne, decide_eq_false_iff_not]
    omega
  have huncopied : (List.range n).foldl (fun (t : State) k =>
      (t.mappers (a + k * u)).foldl (fun (t : State) x => t.touchCopy x.1 x.2 u) t) s = s := by
    refine List.foldl_fixed' (fun k => ?_) _
    exact List.foldl_fixed' (fun x => touchCopy_uncapped hcap _ _ _) _
  simp only [execMemZero, ha, hn, hstart, hu, hcond, huncopied, Bool.not_true, Bool.false_eq_true, if_false]
  exact ⟨_, rfl, rfl⟩

end

/-- Settles O42: each memory command by its cases, a permitted zeroing through `execMemZero_permitted`. -/
theorem memoryCommandsTakeEffect : Obligations.MemoryCommandsTakeEffect := by
  intro s
  refine ⟨fun v => rfl, ⟨_, rfl, ?_, ?_, rfl⟩, ⟨_, rfl, ?_, ?_, rfl⟩, fun v => ⟨?_, ?_, fun u hstart hu => ⟨?_, ?_⟩⟩⟩
  · exact bitAt_and_clear _ (by decide)
  · exact bits_and_low _ 9
  · exact bitAt_and_clear _ (by decide)
  · exact bits_and_low _ 17
  · intro hstart hidle
    simp [exec, execMemZero, hstart, hidle]
  · intro hstart hu
    simp [exec, execMemZero, hstart, hu]
  · exact fun hbad => execMemZero_notPermitted rfl rfl hstart hu hbad
  · intro hidle hn hlast hcap
    obtain ⟨c, hc, he⟩ := execMemZero_permitted rfl rfl hstart hu hidle hn hlast hcap
    refine ⟨_, he, ?_, fun b hlo hhi => memGet_zeroRange_inside _ hlo hhi, fun b hout _ => memGet_zeroRange_outside _ hout, rfl⟩
    simp only [hc, bitAt_and, hstart, Bool.true_and]
    decide

end Sys2Proof.Proofs
end

section
/-! SUPPORT. The commands of the weight store (R242, R245): a command taken by its mailbox, the delete of a present pack, and what the removal of
a pack leaves. -/

namespace Sys2Proof.Proofs

open Sys2Proof.Machine Sys2Proof.Laws

/-- A command that its mailbox takes runs on the state that has consumed it, and the messages behind it settle. -/
theorem serve_takes {s : State} {mb code : Nat} {m : List Byte} (h : s.takes mb code m) (k : State → List Byte → Ticket → State) :
    s.serve mb code k = (k (s.consume mb m) m (ticketOf mb m)).settle mb := by
  obtain ⟨r, hhead, hcheck⟩ := h
  simp only [State.serve, hhead, hcheck]

theorem mailOnly_store {s t : State} (h : mailOnly s t) : t.store = s.store := by rw [h]

/-! ### PACK_DELETE and PACK_QUERY -/

/-- Where no load reads a pack with deletes waiting on it, they are carried out. -/
theorem settleDeletes_of_deleting {s : State} {id : Nat} {p : Pack} (hp : tget s.store.packs id = some p) (hd : p.deleting ≠ []) :
    s.settleDeletes id = if s.packRead id = true then s else s.removePack id := by
  have hdeleting : s.packDeleting id = true := by
    simpa [State.packDeleting, hp] using hd
  cases hread : s.packRead id <;> simp [State.settleDeletes, hdeleting, hread]

/-- A delete of a present pack waits on the loads that read it, and is carried out at once where none does (R245). -/
theorem takePackDelete_present {u : State} {m : List Byte} {t : Ticket} {p : Pack} (hp : tget u.store.packs (field m 32 8) = some p) :
    let v : State := { u with store := { u.store with
      packs := tset u.store.packs (field m 32 8) { p with deleting := p.deleting ++ [t] } } }
    u.takePackDelete m t = if u.packRead (field m 32 8) = true then v else v.removePack (field m 32 8) := by
  simp only [State.takePackDelete, hp]
  exact settleDeletes_of_deleting (tget_tset_self ..) (by simp)

theorem takePackQuery_eq (u : State) (mb : Nat) (m : List Byte) :
    (u.takePackQuery m (ticketOf mb m)).settle mb = match tget u.store.packs (field m 32 8) with
      | some p => u.ended mb m stDone (mfData p.manifest) (1 + 2 * b2n (mfMirrored p.manifest))
      | none => u.ended mb m stDone 0 0 := by
  unfold State.takePackQuery
  cases tget u.store.packs (field m 32 8) <;> rfl

/-! ### Removal -/

/-- The removal of a present pack takes it from the directory; what else changes is mailboxes. -/
theorem mailOnly_removePack {u : State} {id : Nat} {p : Pack} (hp : tget u.store.packs id = some p) :
    mailOnly { u with store := { u.store with packs := terase u.store.packs id } } (u.removePack id) := by
  simp only [State.removePack, hp]
  exact mailOnly_foldl _ (fun t k => mailOnly_finish t k _ _ _) _ _

theorem removePack_absent {u : State} {id : Nat} (h : tget u.store.packs id = none) : u.removePack id = u := by
  simp only [State.removePack, h]

theorem removePack_frame (u : State) (id : Nat) (hwf : twf u.store.packs = true) :
    tget (u.removePack id).store.packs id = none ∧ (∀ k, k ≠ id → tget (u.removePack id).store.packs k = tget u.store.packs k) ∧
      (u.removePack id).mem = u.mem ∧ (u.removePack id).store.writing = u.store.writing := by
  cases hp : tget u.store.packs id with
  | none =>
    rw [removePack_absent hp]
    exact ⟨hp, fun k _ => rfl, rfl, rfl⟩
  | some p =>
    have hmail := mailOnly_removePack hp
    rw [mailOnly_store hmail, mailOnly_memory hmail]
    exact ⟨tget_terase_self hwf id, fun k hk => tget_terase_other _ hk, rfl, rfl⟩

/-- Settles O15: each command as its mailbox takes it, and the removal by `removePack_frame`. -/
theorem packCommandsTakeEffect : Obligations.PackCommandsTakeEffect := by
  refine ⟨fun s mb m => ⟨fun htakes => ?_, fun htakes => ?_, fun htakes => ?_⟩, removePack_frame⟩
  · exact congrArg Host.Outcome.next (serve_takes htakes _)
  · intro u id p hp
    exact congrArg Host.Outcome.next ((serve_takes htakes _).trans (congrArg (State.settle · mb) (takePackDelete_present hp)))
  · exact congrArg Host.Outcome.next ((serve_takes htakes _).trans (takePackQuery_eq _ mb m))

end Sys2Proof.Proofs
end

section
/-! SUPPORT. Reads in the background: scrub reads, whose errors leave MEM_ERR_ADDR as it was captured, patrol reads and what they relocate, and
finished relocations and pack writes (R226 to R235, R242, R246). -/

namespace Sys2Proof.Proofs

open Sys2Proof.Machine Sys2Proof.Laws

theorem mem_ninsert {l : List Nat} {j k : Nat} : j ∈ ninsert l k ↔ j = k ∨ j ∈ l := by
  induction l with
  | nil => simp [ninsert]
  | cons i rest ih =>
    unfold ninsert
    split
    · simp
    · split
      · simp_all
      · simp [ih, or_left_comm]

/-! ### MEM_ERR_ADDR: retirement and the marks of an error leave it as it is -/

/-- The address that MEM_ERR_ADDR holds. -/
def errAddr (s : State) : Long := s.memCtl.errAddr

theorem errAddr_mail {s t : State} (h : mailOnly s t) : errAddr t = errAddr s := by rw [errAddr, h, errAddr]

theorem errAddr_foldl {β : Type} {f : State → β → State} (h : ∀ t x, errAddr (f t x) = errAddr t) (l : List β) (s : State) :
    errAddr (l.foldl f s) = errAddr s := by
  induction l generalizing s with
  | nil => rfl
  | cons x rest ih => exact (ih (f s x)).trans (h s x)

theorem errAddr_carrySpills (s : State) (src dst n : Nat) : errAddr (s.carrySpills src dst n) = errAddr s := rfl

theorem errAddr_copyBytes (s : State) (src dst n : Nat) : errAddr (s.copyBytes src dst n) = errAddr s := by
  refine (errAddr_carrySpills _ src dst n).trans ((errAddr_foldl ?_ _ _).trans rfl)
  exact fun _ _ => rfl

theorem errAddr_swapMappings (s : State) (d g : Nat) : errAddr (s.swapMappings d g) = errAddr s := by
  refine errAddr_foldl ?_ _ s
  exact fun _ _ => rfl

theorem errAddr_useGranule (s : State) (d g : Nat) : errAddr (s.useGranule d g) = errAddr s := by
  unfold State.useGranule
  split <;> rfl

theorem errAddr_retireGranule (s : State) (d : Nat) : errAddr (s.retireGranule d) = errAddr s := by
  unfold State.retireGranule
  split <;> rfl

theorem errAddr_moveTaken (s : State) (d g : Nat) : errAddr (s.moveTaken d g) = errAddr s :=
  (errAddr_useGranule _ d g).trans (errAddr_copyBytes s d _ _)

theorem errAddr_markGranule (s : State) (d : Nat) : errAddr (s.markGranule d) = errAddr s := by
  unfold State.markGranule
  extract_lets
  split
  · rfl
  · split
    · rfl
    · split
      · exact errAddr_retireGranule s _
      · split
        · exact (errAddr_retireGranule _ _).trans (errAddr_moveTaken s _ _)
        · rfl

theorem errAddr_retireMarked (s : State) (busy : Nat → Bool) (d : Nat) : errAddr (s.retireMarked busy d) = errAddr s := by
  unfold State.retireMarked
  extract_lets _ _ done
  split
  · rfl
  · split
    · rfl
    · exact (errAddr_retireGranule _ d).trans ((errAddr_useGranule _ d _).trans
        ((errAddr_swapMappings _ d _).trans (errAddr_copyBytes done d _ _)))

theorem errAddr_retireDue (s : State) : errAddr s.retireDue = errAddr s :=
  errAddr_foldl (fun t d => errAddr_retireMarked t _ d) _ _

theorem errAddr_damagePages (s : State) (ctx a : Nat) : errAddr (s.damagePages ctx a) = errAddr s := by
  unfold State.damagePages
  split
  · rfl
  · extract_lets
    split <;> rfl

theorem errAddr_pageEvents (s : State) (ms : List (Nat × Nat)) :
    errAddr (ms.foldl (fun t m => t.eventTo (m.1 + 16) 5 m.2 (t.pageValue m.1 m.2) 0 stMem m.1) s) = errAddr s :=
  errAddr_foldl (fun t m => errAddr_mail (mailOnly_eventTo t (m.1 + 16) 5 m.2 (t.pageValue m.1 m.2) 0 stMem m.1)) ms s

theorem errAddr_pageMarks (s : State) (ms : List (Nat × Nat)) (k : Nat) :
    errAddr (ms.foldl (fun t m => t.damagePages m.1 (m.2 + k)) s) = errAddr s :=
  errAddr_foldl (fun t m => errAddr_damagePages t m.1 (m.2 + k)) ms s

/-- An uncorrectable error captures its address where MEM_ERR_INFO holds no capture yet (R227). -/
theorem errAddr_memUncorrectable (s : State) (d : Nat) (scrub : Bool) (ctx : Option Nat) :
    errAddr (s.memUncorrectable d scrub ctx) = if bitAt s.memCtl.errInfo.toNat 0 = true then errAddr s else BitVec.ofNat 64 d := by
  unfold State.memUncorrectable
  extract_lets m arm s1 s2 s3 ms s4 s5
  have hs1 : errAddr s1 = if bitAt s.memCtl.errInfo.toNat 0 = true then errAddr s else BitVec.ofNat 64 d := by
    cases hinfo : bitAt s.memCtl.errInfo.toNat 0 <;> simp [errAddr, s1, arm, m, hinfo]
  have hadmin : errAddr s3 = errAddr s2 := by
    clear_value s2
    exact errAddr_mail (mailOnly_eventAdmin s2 0x0001 d (b2n (!inSram d)))
  calc errAddr ((s5.markGranule d).retireDue)
      = errAddr s5 := (errAddr_retireDue _).trans (errAddr_markGranule s5 d)
    _ = errAddr s4 := errAddr_pageMarks s4 ms (d - (granuleOf d).1)
    _ = errAddr s3 := errAddr_pageEvents s3 ms
    _ = errAddr s2 := hadmin
    _ = errAddr s1 := rfl
    _ = _ := hs1

/-! ### Scrub reads -/

section
variable {s : State} {lp : Bool} {n : Nat}

/-- The address that a scrub unit reads next. -/
abbrev scrubNext (s : State) (lp : Bool) (n : Nat) : Nat := scrubAddr (scrubUnit lp n) (tgetD s.memCtl.scrubAt (scrubUnit lp n) 0)

/-- A scrub unit that exists is due and not paused. -/
structure ScrubDue (s : State) (lp : Bool) (n : Nat) : Prop where
  unit : scrubUnit lp n < 640
  go : s.memCtl.scrubPaused = false
  due : s.scrubDue (scrubUnit lp n) = true

theorem ScrubDue.reads (h : ScrubDue s lp n) :
    (s.memCtl.scrubPaused || !decide (scrubUnit lp n < 640) || !s.scrubDue (scrubUnit lp n)) = false := by
  simp [h.unit, h.go, h.due]

theorem execScrubRead_clean (h : ScrubDue s lp n) (hclean : s.damagedIn [(scrubNext s lp n, scrubStep (scrubUnit lp n))] = none)
    (raced : Bool) : let v := s.scrubAdvance (scrubUnit lp n)
    execScrubRead lp n .ok raced s =
      .next { v with memCtl := { v.memCtl with soft := v.memCtl.soft.filter fun x => x != scrubNext s lp n } } := by
  simp only [execScrubRead, h.reads, hclean, Bool.false_eq_true, if_false]

theorem execScrubRead_corrected (h : ScrubDue s lp n)
    (hclean : s.damagedIn [(scrubNext s lp n, scrubStep (scrubUnit lp n))] = none) (raced : Bool) :
    let w := (s.scrubAdvance (scrubUnit lp n)).readCorrected (scrubNext s lp n)
    execScrubRead lp n .corrected raced s = .next (if raced || s.memCtl.soft.contains (scrubNext s lp n) then w
      else { w with memCtl := { w.memCtl with soft := ninsert w.memCtl.soft (scrubNext s lp n) } }) := by
  simp only [execScrubRead, h.reads, hclean, Bool.false_eq_true, if_false]

theorem execScrubRead_uncorrectable (h : ScrubDue s lp n) (m : ReadCheck) (raced : Bool)
    (hbad : m = .uncorrectable ∨ (s.damagedIn [(scrubNext s lp n, scrubStep (scrubUnit lp n))]).isSome = true) :
    execScrubRead lp n m raced s = .next ((s.scrubAdvance (scrubUnit lp n)).memUncorrectable (scrubNext s lp n) true none) := by
  cases hdamaged : s.damagedIn [(scrubNext s lp n, scrubStep (scrubUnit lp n))] with
  | some w => simp only [execScrubRead, h.reads, hdamaged, Bool.false_eq_true, if_false]
  | none =>
    obtain rfl : m = .uncorrectable := by simpa [hdamaged] using hbad
    simp only [execScrubRead, h.reads, hdamaged, Bool.false_eq_true, if_false]

theorem execScrubRead_rests (m : ReadCheck) (raced : Bool)
    (h : s.memCtl.scrubPaused = true ∨ s.scrubDue (scrubUnit lp n) = false) : execScrubRead lp n m raced s = .next s := by
  rcases h with h | h <;> simp [execScrubRead, h]

/-- The state that has counted and entered a corrected error, and no longer awaits its word's next read. -/
abbrev countedCorrected (s : State) (d : Nat) : State :=
  { s.memCorrected d with memCtl := { (s.memCorrected d).memCtl with soft := s.memCtl.soft.filter fun x => x != codeWord d } }

/-- A corrected word that no scrub read has written back is counted and entered. -/
theorem readCorrected_soft {d : Nat} (h : s.memCtl.soft.contains (codeWord d) = false) : s.readCorrected d = countedCorrected s d := by
  unfold State.readCorrected
  exact if_neg (by simpa using h)

/-- One that a scrub read has written back has a hard error: its granule is marked (R232). -/
theorem readCorrected_hard {d : Nat} (h : s.memCtl.soft.contains (codeWord d) = true) :
    s.readCorrected d = ((countedCorrected s d).markGranule d).retireDue := by
  unfold State.readCorrected
  exact if_pos h

end

/-! ### Patrol reads and relocation -/

/-- Reports change the Ledger only. -/
theorem foldl_report (l : List Nat) (code value unit : Nat) (s : State) :
    ∃ led, l.foldl (fun t _ => t.report code value unit) s = { s with ledger := led } := by
  induction l generalizing s with
  | nil => exact ⟨_, rfl⟩
  | cons x rest ih =>
    obtain ⟨led, h⟩ := ih (s.report code value unit)
    exact ⟨led, h⟩

theorem relocate_frame (s : State) (e : Nat) :
    s.relocate e = { s with store := { s.store with relocating := (s.relocate e).store.relocating } } := by
  unfold State.relocate
  extract_lets
  split
  · rfl
  · split <;> rfl

/-- An extent of a pack that is not being relocated moves to a free extent of its channel (R246). -/
theorem relocate_held {s : State} {e x : Nat} (hheld : s.store.holds e = true)
    (hrests : (s.store.relocating.any fun r => r.1 == e) = false)
    (hfree : gapOnChannel s.store.usedExtents (channelOf e) (s.store.usedExtents.length + 1) = some x) :
    (s.relocate e).store.relocating = s.store.relocating ++ [(e, x)] := by
  simp only [State.relocate, hheld, hrests, hfree, Bool.not_true, Bool.false_or, Bool.false_eq_true, if_false]

/-- The store that has counted an extent's read and what it met. -/
abbrev countedRead (s : State) (e : Nat) (o : FlashRead) : Store :=
  { s.store with
    reads := tset s.store.reads e (tgetD s.store.reads e 0 + 1)
    errCount := addHigh (addLow s.store.errCount o.soft) o.bad }

/-- A read of an extent counts what it meets, reports it, and relocates an extent that needs soft decoding or is worn by reads. -/
theorem extentRead_eq (s : State) (e : Nat) (o : FlashRead) :
    ∃ led, let v : State := { s with store := countedRead s e o, ledger := led }
      s.extentRead e o = if 0 < o.soft ∨ 100000 ≤ tgetD s.store.reads e 0 + 1 then v.relocate e else v := by
  obtain ⟨led, hsoft⟩ := foldl_report (List.range o.soft) 0x0120 1 (channelOf e) { s with store := countedRead s e o }
  obtain ⟨led', hbad⟩ := foldl_report (List.range o.bad) 0x0121 1 (channelOf e) { s with store := countedRead s e o, ledger := led }
  refine ⟨led', ?_⟩
  simp only [State.extentRead, hsoft, hbad, Bool.or_eq_true, decide_eq_true_eq]

/-- A read of an extent changes its counts and the relocations of the store, and the Ledger. -/
theorem extentRead_frame (s : State) (e : Nat) (o : FlashRead) :
    ∃ led, s.extentRead e o = { s with
      store := { countedRead s e o with relocating := (s.extentRead e o).store.relocating }, ledger := led } := by
  obtain ⟨led, h⟩ := extentRead_eq s e o
  refine ⟨led, ?_⟩
  rw [h]
  split
  · exact relocate_frame _ e
  · rfl

theorem extentRead_clean {s : State} {e : Nat} {o : FlashRead} (hsoft : o.soft = 0) (hn : tgetD s.store.reads e 0 + 1 < 100000) :
    (s.extentRead e o).store.relocating = s.store.relocating := by
  obtain ⟨led, h⟩ := extentRead_eq s e o
  rw [h, if_neg (by omega)]

theorem extentRead_worn {s : State} {e x : Nat} {o : FlashRead} (h : 0 < o.soft ∨ 100000 ≤ tgetD s.store.reads e 0 + 1)
    (hheld : s.store.holds e = true) (hrests : (s.store.relocating.any fun r => r.1 == e) = false)
    (hfree : gapOnChannel s.store.usedExtents (channelOf e) (s.store.usedExtents.length + 1) = some x) :
    (s.extentRead e o).store.relocating = s.store.relocating ++ [(e, x)] := by
  obtain ⟨led, heq⟩ := extentRead_eq s e o
  rw [heq, if_pos h]
  exact relocate_held hheld hrests hfree

theorem execPatrolRead_due {s : State} {e : Nat} (o : FlashRead) (hready : s.store.ready = true) (he : e < extentCount) :
    execPatrolRead e o s = .next (if s.patrolDue e = true then
      State.extentRead { s with store := { s.store with patrolled := tset s.store.patrolled e s.ledger.seconds } } e o else s) := by
  simp [execPatrolRead, hready, he]

/-! ### Finished relocations and writes -/

theorem execRelocationDone_found {s : State} {e x : Nat} (h : s.store.relocating.find? (fun r => r.1 == e) = some (e, x)) :
    execRelocationDone e s = .next (({ s with store := { s.store.spend 1 with
      packs := s.store.packs.map fun p => (p.1, p.2.moveExtent e x)
      relocating := s.store.relocating.filter fun y => y.1 != e
      reads := terase (terase s.store.reads e) x } } : State).report 0x0122 1 (channelOf e)) := by
  simp only [execRelocationDone, h]
  rfl

theorem execPackWriteComplete_found {s : State} {id : Nat} {w : PackWriting} (h : s.store.writing.find? (fun x => x.packId == id) = some w) :
    execPackWriteComplete id s = .next (({ s with store := { s.store.spend w.pack.extents.length with
      packs := tset s.store.packs id w.pack
      writing := s.store.writing.filter fun x => x.packId != id
      reads := w.pack.extents.foldl terase s.store.reads } } : State).finish w.ticket stDone 0 0) := by
  simp only [execPackWriteComplete, h]
  rfl

/-- Settles O43: scrub reads by what they meet, patrol reads through `extentRead_frame`, and the two completions. -/
theorem backgroundReadsTakeEffect : Obligations.BackgroundReadsTakeEffect := by
  intro s
  refine ⟨?_, fun lp n m raced h => execScrubRead_rests m raced h, ?_, ?_, ?_⟩
  · intro lp n u hunit hgo hdue d v cleared
    have hscrub : ScrubDue s lp n := ⟨hunit, hgo, hdue⟩
    refine ⟨fun hclean => ⟨fun raced => execScrubRead_clean hscrub hclean raced, fun hsoft hword => ?_, fun hsoft hword => ?_⟩,
      fun m raced hbad => ?_⟩
    · refine ⟨_, execScrubRead_corrected hscrub hclean false, ?_⟩
      rw [if_neg (by simpa using hsoft), readCorrected_soft (s := v) hword]
      exact ⟨rfl, rfl, mem_ninsert.2 (.inl rfl), rfl, rfl⟩
    · refine ⟨countedCorrected v d, rfl, fun raced => (execScrubRead_corrected hscrub hclean raced).trans ?_⟩
      rw [if_pos (by simpa using Or.inr hsoft), readCorrected_hard (s := v) hword]
    · exact ⟨_, execScrubRead_uncorrectable hscrub m raced hbad, rfl, errAddr_memUncorrectable v d true none⟩
  · intro e o hready he n
    refine ⟨fun hdue => (execPatrolRead_due o hready he).trans (congrArg _ (if_neg (by simp [hdue]))), fun hdue => ?_⟩
    refine ⟨_, (execPatrolRead_due o hready he).trans (congrArg _ (if_pos hdue)), ?_⟩
    refine ⟨?_, ?_, ?_, ?_, ?_, fun hsoft hn => extentRead_clean hsoft hn,
      fun hworn hheld hrests x hfree => extentRead_worn hworn hheld hrests hfree⟩
    all_goals
      obtain ⟨led, hframe⟩ := extentRead_frame
        { s with store := { s.store with patrolled := tset s.store.patrolled e s.ledger.seconds } } e o
      rw [hframe]
  · exact fun e x h => ⟨_, execRelocationDone_found h, rfl, rfl, rfl⟩
  · exact fun id w h => ⟨_, execPackWriteComplete_found h, tget_tset_self _ _ _, fun k hk => tget_tset_other _ _ hk, rfl⟩

end Sys2Proof.Proofs
end

section
/-! SUPPORT. The commands of a capture and of a restore under way (R524 to R536): the capture point, the ends of copies, held writes, and the parts
that end them. -/

namespace Sys2Proof.Proofs

open Sys2Proof.Machine Sys2Proof.Laws

section
variable {s : State} {c : Capping} {a : Nat} {o : CopyOutcome}

/-! ### Copies -/

/-- What a copy meets lies in memory and the translation tables: the Guard's registers have no part in it. -/
theorem copyOutcome_guard (s : State) (g : Guard) (c : Capping) (a : Nat) (o : CopyOutcome) :
    State.copyOutcome { s with guard := g } c a o = s.copyOutcome c a o := rfl

/-- A visible copy sends its granule, and the writes that waited for it go on (R526, R527). -/
theorem copyDone_visible (h : s.copyOutcome c a o = .visible) : s.copyDone c a o = (s.copyGranule c a).settleHeld := by
  simp only [State.copyDone, h, copyStatus]

/-- A copy that meets an uncorrectable word reports it, and the capture ends with MEM_ERROR (R228, R531). -/
theorem copyDone_uncorrectable {w : Nat} (h : s.copyOutcome c a o = .uncorrectable w) :
    s.copyDone c a o = (s.memUncorrectable w false (some c.ctx)).endCapture c stMem := by
  simp only [State.copyDone, h, copyStatus]

/-- A copy that fails otherwise ends the capture with its status (R531). -/
theorem copyDone_failed {st : Nat} (hw : ∀ w, s.copyOutcome c a o ≠ .uncorrectable w)
    (hst : copyStatus (s.copyOutcome c a o) = some st) : s.copyDone c a o = s.endCapture c st := by
  unfold State.copyDone
  cases h : s.copyOutcome c a o with
  | uncorrectable w => exact absurd h (hw w)
  | visible => simp [h, copyStatus] at hst
  | linkFailed | deviceLost | tooSmall =>
    rw [h] at hst
    simp only [hst]

section
variable (hcap : s.guard.cap = some c) (hstate : c.state = .capturing)
include hcap hstate

theorem execCapturePoint_rests (hbegun : c.begun = false) (hrun : s.ctxRunning c.ctx = false) (hlearn : s.learningStep c.ctx = false) :
    execCapturePoint s = .next (s.protectCtx c) := by
  simp [execCapturePoint, hcap, hstate, hbegun, hrun, hlearn]

theorem execCapGranuleCopyDone_next (hbegun : c.begun = true) {rest : List Nat} (hleft : c.left = a :: rest) (o : CopyOutcome) :
    execCapGranuleCopyDone o s = .next (s.copyDone c a o) := by
  simp [execCapGranuleCopyDone, hcap, hstate, hbegun, hleft]

/-- A visible first-touch copy is counted and its granule sent (R526). -/
theorem execCapFirstTouchCopyDone_visible {addr : Nat} (hleft : addr / 0x10000 * 0x10000 ∈ c.left)
    (h : s.copyOutcome c (addr / 0x10000 * 0x10000) .visible = .visible) : execCapFirstTouchCopyDone c.ctx addr .visible s =
      .next ((State.copyGranule { s with guard := { s.guard with touch := s.guard.touch + 1 } } c (addr / 0x10000 * 0x10000)).settleHeld) := by
  rw [← copyDone_visible ((copyOutcome_guard s _ c _ _).trans h)]
  simp [execCapFirstTouchCopyDone, hcap, hstate, hleft, h]

/-! ### Parts -/

/-- This module's own part ends a capture with the image's header (R530). -/
theorem execCaptureEnd_own (hbegun : c.begun = true) {pos : Nat} (hpart : s.reportsPart c pos = true) (hpos : pos = s.position)
    (hleft : c.left = []) :
    execCaptureEnd pos s = .next ((s.sendPart c 0 (s.capHeader c)).partDone c pos fun t k => t.endCapture k stDone) := by
  subst hpos
  simp [execCaptureEnd, State.captureEnd, hcap, hstate, hbegun, hpart, hleft]

theorem execCaptureEnd_other (hbegun : c.begun = true) {pos : Nat} (hpart : s.reportsPart c pos = true) (hpos : pos ≠ s.position) :
    execCaptureEnd pos s = .next (s.partDone c pos fun t k => t.endCapture k stDone) := by
  simp [execCaptureEnd, State.captureEnd, hcap, hstate, hbegun, hpart, hpos]

end

theorem execRestoreEnd_part (hcap : s.guard.cap = some c) (hstate : c.state = .restoring) {pos : Nat}
    (hpart : s.reportsPart c pos = true) (hown : pos = s.position → c.begun = true ∧
      (s.turns.loads.any fun l => l.restore && l.ticket.ctx == c.ctx) = false) :
    execRestoreEnd pos s = .next (s.partDone c pos fun t k => t.endRestore k stDone) := by
  have hready : (pos == s.position && (!c.begun || s.turns.loads.any fun l => l.restore && l.ticket.ctx == c.ctx)) = false := by
    by_cases hpos : pos = s.position
    · obtain ⟨hbegun, hloads⟩ := hown hpos
      rw [hbegun, hloads, Bool.not_true, Bool.or_false, Bool.and_false]
    · rw [beq_false_of_ne hpos, Bool.false_and]
  have hstays : (c.state != .restoring || !s.reportsPart c pos) = false := by simp [hstate, hpart]
  simp only [execRestoreEnd, State.restoreEnd, hcap, hstays, Bool.false_eq_true, if_false]
  exact congrArg _ (if_neg (by simpa using hready))

/-- A copied granule is protected no more (R527). -/
theorem copyGranule_left (s : State) (c : Capping) (a : Nat) :
    ((s.copyGranule c a).guard.cap.any fun k => k.left == c.left.filter fun x => x != a) = true :=
  beq_self_eq_true _

end

/-! ### Held writes -/

theorem execWpWriteHeld_keeper {s : State} {n addr : Nat} {data : List Byte} (h : s.rangeHeld (.ctx n) addr data.length = true) :
    execWpWriteHeld .keeper n addr data s = .next { s with guard := { s.guard with
      heldWrites := s.guard.heldWrites ++ [⟨n, addr, data, none, none⟩] } } := by
  simp only [execWpWriteHeld, h, Bool.not_true, Bool.false_eq_true, if_false]

/-- A write of a connection that is not held yet waits for its copies (R526). -/
theorem execWpWriteHeld_rdma {s : State} {n addr q : Nat} {data : List Byte} (h : s.rangeHeld (.ctx n) addr data.length = true)
    (hnew : ∀ x ∈ s.guard.heldWrites, x.ctx = n → x.addr = addr → x.data ≠ data) :
    execWpWriteHeld (.rdma q) n addr data s = .next { s with guard := { s.guard with
      heldWrites := s.guard.heldWrites ++ [⟨n, addr, data, none, some q⟩] } } := by
  have hany : (s.guard.heldWrites.any fun x => x.ctx == n && x.addr == addr && x.data == data) = false := by
    simpa [List.any_eq_false] using hnew
  simp only [execWpWriteHeld, h, hany, Bool.not_true, Bool.false_eq_true, if_false]

/-- Settles O47: each command of a capture or a restore under way, in the cases above. -/
theorem capturesCopyAndEnd : Obligations.CapturesCopyAndEnd := by
  intro s c hcap
  refine ⟨fun hstate hbegun hrun hlearn => execCapturePoint_rests hcap hstate hbegun hrun hlearn,
    fun hstate hbegun a rest hleft => ⟨fun h => ?_, fun o w h => ?_, fun o st hw hst => ?_⟩,
    fun hstate addr hleft h => execCapFirstTouchCopyDone_visible hcap hstate hleft h,
    fun a pos => ⟨copyGranule_left s c a,
      fun hstate hbegun hpart hpos hleft => execCaptureEnd_own hcap hstate hbegun hpart hpos hleft,
      fun hstate hbegun hpart hpos => execCaptureEnd_other hcap hstate hbegun hpart hpos,
      fun hstate hpart hown => execRestoreEnd_part hcap hstate hpart hown⟩,
    fun n addr data h => ⟨execWpWriteHeld_keeper h, fun q hnew => execWpWriteHeld_rdma h hnew⟩⟩
  · exact (execCapGranuleCopyDone_next hcap hstate hbegun hleft _).trans (congrArg _ (copyDone_visible h))
  · exact (execCapGranuleCopyDone_next hcap hstate hbegun hleft _).trans (congrArg _ (copyDone_uncorrectable h))
  · exact (execCapGranuleCopyDone_next hcap hstate hbegun hleft _).trans (congrArg _ (copyDone_failed hw hst))

end Sys2Proof.Proofs
end

section
/-! SUPPORT. The start (R539 to R541, Table 14.1): each step where the one before it has ended, and what built-in self-test keeps and retires. -/

namespace Sys2Proof.Proofs

open Sys2Proof.Machine Sys2Proof.Laws

theorem mem_union_nil {l : List Nat} {k : Nat} (h : k ∈ l) : k ∈ union [] l := by
  have hkeep : ∀ (r acc : List Nat), k ∈ acc → k ∈ r.foldl ninsert acc := by
    intro r
    induction r with
    | nil => exact fun acc hk => hk
    | cons j rest ih => exact fun acc hk => ih _ (mem_ninsert.2 (.inr hk))
  have hadd : ∀ (r acc : List Nat), k ∈ r → k ∈ r.foldl ninsert acc := by
    intro r
    induction r with
    | nil => exact fun acc hk => absurd hk List.not_mem_nil
    | cons j rest ih =>
      intro acc hk
      rcases List.mem_cons.1 hk with rfl | hk
      · exact hkeep rest _ (mem_ninsert.2 (.inl rfl))
      · exact ih _ hk
  exact hadd l [] h

/-! ### Built-in self-test -/

/-- What the repairs of built-in self-test leave as it is. -/
structure BistKeeps (s t : State) : Prop where
  keeper : t.keeper = s.keeper
  mem : t.mem = s.mem
  retired : t.ledger.retiredCores = s.ledger.retiredCores

namespace BistKeeps

theorem refl (s : State) : BistKeeps s s := ⟨rfl, rfl, rfl⟩

theorem trans {s t u : State} (h : BistKeeps s t) (k : BistKeeps t u) : BistKeeps s u :=
  ⟨k.keeper.trans h.keeper, k.mem.trans h.mem, k.retired.trans h.retired⟩

theorem foldl {β : Type} {f : State → β → State} (hf : ∀ t x, BistKeeps t (f t x)) (l : List β) (s : State) :
    BistKeeps s (l.foldl f s) := by
  induction l generalizing s with
  | nil => exact refl s
  | cons x rest ih => exact (hf s x).trans (ih (f s x))

theorem foldl_fst {α β : Type} {f : State × α → β → State × α} (hf : ∀ q x, BistKeeps q.1 (f q x).1) (l : List β) (q : State × α) :
    BistKeeps q.1 (l.foldl f q).1 := by
  induction l generalizing q with
  | nil => exact refl q.1
  | cons x rest ih => exact (hf q x).trans (ih (f q x))

end BistKeeps

theorem retiredCores_report (l : Ledger) (code value unit : Nat) : (l.report code value unit).retiredCores = l.retiredCores := by
  unfold Ledger.report
  split <;> rfl

theorem retiredCores_enterRow (l : Ledger) (p row : Nat) : (l.enterRow p row).retiredCores = l.retiredCores := by
  unfold Ledger.enterRow
  split <;> rfl

theorem bistKeeps_withdrawRow (s : State) (p row : Nat) : BistKeeps s (s.withdrawRow p row) := by
  unfold State.withdrawRow
  split
  · exact .refl s
  · split
    · exact .refl s
    · exact ⟨rfl, rfl, retiredCores_report ..⟩

theorem bistKeeps_withdrawRows (s : State) (rows : List (Nat × Nat)) :
    BistKeeps s (rows.foldl (fun t e => t.withdrawRow e.1 e.2) s) := by
  refine .foldl (fun t e => ?_) rows s
  exact bistKeeps_withdrawRow t e.1 e.2

theorem bistKeeps_enterRows (s : State) (rows : List (Nat × Nat)) : BistKeeps s (s.enterRows rows).1 := by
  refine BistKeeps.foldl_fst (fun q r => ?_) _ (s, [])
  exact ⟨rfl, rfl, (retiredCores_enterRow ..).trans (retiredCores_report ..)⟩

theorem bistKeeps_repair (s : State) : BistKeeps s s.repair := by
  unfold State.repair
  extract_lets s1 s2 _ s3
  have h1 : BistKeeps s s1 := ⟨rfl, rfl, rfl⟩
  have h2 : BistKeeps s1 s2 := by
    refine .foldl (fun t e => ?_) _ s1
    exact ⟨rfl, rfl, rfl⟩
  have h3 : BistKeeps s2 s3 := ⟨rfl, rfl, rfl⟩
  refine h1.trans (h2.trans (h3.trans (.foldl (fun t p => ?_) _ s3)))
  refine .foldl (fun u r => ?_) _ t
  exact bistKeeps_withdrawRow u p r

/-- The state that has entered a core's retirement and reported it. -/
abbrev coreEntered (s : State) (p : Nat) : State := ({ s with ledger := s.ledger.retireCore p } : State).report 0x0202 1 p

theorem coreEntered_isRetired_self (s : State) (p : Nat) : (coreEntered s p).isRetired p = true := by
  rw [State.isRetired, show (coreEntered s p).ledger.retiredCores = (s.ledger.retireCore p).retiredCores from retiredCores_report ..]
  exact retireCore_any s.ledger p

theorem coreEntered_isRetired {s : State} {p : Nat} (h : s.isRetired p = true) (q : Nat) : (coreEntered s q).isRetired p = true := by
  rw [State.isRetired, show (coreEntered s q).ledger.retiredCores = (s.ledger.retireCore q).retiredCores from retiredCores_report ..,
    Ledger.retireCore]
  split
  · exact h
  · rw [List.any_append, Bool.or_eq_true]
    exact .inl h

theorem foldl_coreEntered (l : List Nat) (s : State) : (l.foldl coreEntered s).keeper = s.keeper ∧ (l.foldl coreEntered s).mem = s.mem ∧
    ∀ p, s.isRetired p = true ∨ p ∈ l → (l.foldl coreEntered s).isRetired p = true := by
  induction l generalizing s with
  | nil => exact ⟨rfl, rfl, fun p h => h.resolve_right List.not_mem_nil⟩
  | cons q rest ih =>
    obtain ⟨hkeeper, hmem, hretired⟩ := ih (coreEntered s q)
    refine ⟨hkeeper, hmem, fun p h => hretired p ?_⟩
    rcases h with h | h
    · exact .inl (coreEntered_isRetired h q)
    · rcases List.mem_cons.1 h with rfl | h
      · exact .inl (coreEntered_isRetired_self s p)
      · exact .inr h

/-- The cores that self-test finds failed are retired (R162). -/
theorem enterCores_isRetired (s : State) {ps : List Nat} {p : Nat} (h : p ∈ ps) : (s.enterCores ps).isRetired p = true := by
  refine (foldl_coreEntered _ s).2.2 p ?_
  cases hp : s.isRetired p with
  | true => exact .inl rfl
  | false => exact .inr (List.mem_filter.2 ⟨mem_union_nil h, by simp [hp]⟩)

/-- The cores, rows and slices entered and repaired by built-in self-test. -/
def bistRepaired (s : State) (r : BistReport) : State :=
  let a := (s.enterCores r.failedCores).enterRows r.failedRows
  a.2.foldl (fun (t : State) e => t.withdrawRow e.1 e.2) a.1.repair

theorem bistKeeps_repaired (s : State) (r : BistReport) : BistKeeps (s.enterCores r.failedCores) (bistRepaired s r) :=
  (bistKeeps_enterRows _ _).trans ((bistKeeps_repair _).trans (bistKeeps_withdrawRows _ _))

theorem bistRepaired_keeper (s : State) (r : BistReport) : (bistRepaired s r).keeper = s.keeper :=
  (bistKeeps_repaired s r).keeper.trans (foldl_coreEntered _ s).1

theorem bistRepaired_mem (s : State) (r : BistReport) : (bistRepaired s r).mem = s.mem :=
  (bistKeeps_repaired s r).mem.trans (foldl_coreEntered _ s).2.1

theorem bistRepaired_isRetired (s : State) {r : BistReport} {p : Nat} (h : p ∈ r.failedCores) :
    (bistRepaired s r).isRetired p = true := by
  rw [State.isRetired, (bistKeeps_repaired s r).retired]
  exact enterCores_isRetired s h

/-! ### The steps -/

section
variable {s : State}

theorem startingAt_startFail {n : Nat} (h : s.startingAt n = true) : s.keeper.startFail = 0 := by
  simp only [State.startingAt, Bool.and_eq_true, beq_iff_eq] at h
  exact h.2

theorem failStart_isRetired (s : State) (code unit : Nat) {p : Nat} (h : s.isRetired p = true) :
    (s.failStart code unit).isRetired p = true := by
  rw [State.isRetired, show (s.failStart code unit).ledger.retiredCores = s.ledger.retiredCores from retiredCores_report ..]
  exact h

/-- Built-in self-test ends its step with the repairs made; a failed comb fails the start (R522). -/
theorem execBuiltInSelfTest_starting (h : s.startingAt 2 = true) (r : BistReport) :
    let t : State := { bistRepaired s r with
      memCtl := { (bistRepaired s r).memCtl with bistDone := true }, keeper := { (bistRepaired s r).keeper with startStep := 3 } }
    execBuiltInSelfTest r s = .next (match r.failedComb with
      | some k => t.failStart 2 k
      | none => t) :=
  congrArg Host.Outcome.next (if_pos h)

theorem execFirmwareEntry_starting (h : s.startingAt 7 = true) {k : Ticket} (hk : s.keeper.loadTicket = some k) :
    execFirmwareEntry s = .next ((((s.releaseAll.runFirmware).setLocks 4).endFwLoad k stDone).settleAll) := by
  simp only [execFirmwareEntry, hk, h, if_true]

theorem execFirmwareEntry_rests (h : s.startingAt 7 = false) : execFirmwareEntry s = .next s := by
  cases hk : s.keeper.loadTicket <;> simp [execFirmwareEntry, hk, h]

/-- The memory block once the directory has been read: MEM_LAYOUT.STAGING is taken (Table 6.10). -/
def laidOutMem (s : State) : MemCtl :=
  { s.memCtl.retired s.ledger.lpGranules with staging := bits s.memCtl.layout.toNat 16 0 }

/-- The Keeper region's layout gives the Keeper its two bases, whatever they are. -/
theorem layOut_keeper (t : State) (g : Nat) :
    ∃ fw log, (t.layOut g).keeper = { t.keeper with fwBase := fw, logBase := log } := ⟨_, _, rfl⟩

theorem layOut_loadWaits (t : State) (g : Nat) : (t.layOut g).keeper.loadWaits = t.keeper.loadWaits := by
  obtain ⟨fw, log, h⟩ := layOut_keeper t g
  rw [h]

theorem endStep_loadWaits (t : State) (n : Nat) : (t.endStep n).keeper.loadWaits = t.keeper.loadWaits := rfl

/-- The directory step ends with memory at zero, the layout taken and the store ready, where no FW_LOAD waits (R223, R224). -/
theorem execDirectoryRead_starting (h : s.startingAt 4 = true) (hload : s.keeper.loadWaits = false) :
    ∃ g, execDirectoryRead s = .next (State.endStep (State.layOut { s.fresh.2 with
      mem := [], memCtl := laidOutMem s, store := { s.store with ready := true } } g) 5) := by
  refine ⟨s.fresh.1 % (4096 - layoutGranules),
    (congrArg Host.Outcome.next (if_pos h)).trans (congrArg Host.Outcome.next ?_)⟩
  extract_lets f _ m _ _ s1 s2
  have hwaits : s2.keeper.loadWaits = false :=
    (endStep_loadWaits s1 5).trans ((layOut_loadWaits _ _).trans hload)
  split
  · rename_i hload' _
    exact absurd (hwaits.symm.trans hload') Bool.false_ne_true
  · rfl

end

/-- Settles O54: each step of the start where the one before it has ended, and nothing elsewhere. -/
theorem theStartTakesItsSteps : Obligations.TheStartTakesItsSteps := by
  intro s
  refine ⟨fun h => ?_, fun h => ⟨?_, ?_⟩, fun h r => ?_, fun h => ⟨fun b => ?_, fun a => ?_, fun a b => ?_⟩, fun h hload => ?_,
    fun h k hk => ?_, fun n h => ?_⟩
  · exact ⟨_, congrArg Host.Outcome.next (if_pos h), rfl, rfl, rfl, rfl, rfl, rfl, rfl⟩
  · exact ⟨_, congrArg Host.Outcome.next (if_pos h), rfl, startingAt_startFail (s := s) h, rfl, rfl⟩
  · exact ⟨_, congrArg Host.Outcome.next (if_pos h), rfl, rfl⟩
  · refine ⟨_, execBuiltInSelfTest_starting h r, ?_⟩
    have hfail : (bistRepaired s r).keeper.startFail = 0 := by rw [bistRepaired_keeper, startingAt_startFail h]
    cases r.failedComb with
    | none => exact ⟨rfl, rfl, fun p hp => bistRepaired_isRetired s hp, hfail, bistRepaired_mem s r⟩
    | some k => exact ⟨rfl, rfl, fun p hp => failStart_isRetired _ 2 k (bistRepaired_isRetired s hp), rfl, bistRepaired_mem s r⟩
  · exact congrArg Host.Outcome.next (if_pos h)
  · exact ⟨_, congrArg Host.Outcome.next (if_pos h), rfl, rfl, startingAt_startFail (s := s) h, rfl⟩
  · exact ⟨_, congrArg Host.Outcome.next (if_pos h), rfl, rfl⟩
  · obtain ⟨g, hread⟩ := execDirectoryRead_starting h hload
    exact ⟨_, hread, rfl, rfl, rfl, rfl⟩
  · exact execFirmwareEntry_starting h hk
  · have hnot : ¬ s.startingAt n = true := Bool.eq_false_iff.1 h
    refine ⟨?_, ?_, ?_, ?_, ?_, ?_⟩ <;> rintro rfl
    · exact congrArg Host.Outcome.next (if_neg hnot)
    · exact fun ok => congrArg Host.Outcome.next (if_neg hnot)
    · exact fun r => congrArg Host.Outcome.next (if_neg hnot)
    · exact fun a b => congrArg Host.Outcome.next (if_neg hnot)
    · exact congrArg Host.Outcome.next (if_neg hnot)
    · exact execFirmwareEntry_rests h

end Sys2Proof.Proofs
end

section
/-! SUPPORT. The mailbox commands that set a register, create and release a context, report, and act on a sequence's entries (R257, R265,
R286, R294, R321, R323, R482, R483, R503, R544, R553, R557, R558, R582, R590, R613): what each take function does in the cases that the
statements name. -/

namespace Sys2Proof.Proofs

open Sys2Proof.Machine Sys2Proof.Laws

/-- The next state of a mailbox's command that it takes, by what its take function does. -/
theorem next_serve {s v : State} {mb code : Nat} {m : List Byte} {k : State → List Byte → Ticket → State} (h : s.takes mb code m)
    (hk : k (s.consume mb m) m (ticketOf mb m) = v) :
    (.next (s.serve mb code k) : Host.Outcome State Fault Refusal) = .next (v.settle mb) :=
  congrArg Host.Outcome.next ((serve_takes h k).trans (congrArg (State.settle · mb) hk))

/-- Settles O11: each command's write is what its take function ends with. -/
theorem settingCommandsTakeEffect : Obligations.SettingCommandsTakeEffect := by
  intro s mb m
  refine ⟨fun h => ?lock, fun h => ?ctxSet, fun h => ?shareMode, fun h => ?guardSet, fun h => ?traceSet⟩
  case lock => exact next_serve (k := State.takeLock) h rfl
  case ctxSet => exact next_serve (k := State.takeCtxSet) h rfl
  case shareMode => exact next_serve (k := State.takeShareMode) h rfl
  case guardSet => exact next_serve (k := State.takeGuardSet) h rfl
  case traceSet => exact next_serve (k := State.takeTraceSet) h rfl

/-! ### CTX_CREATE (R482) -/

/-- A context absent whose regions and mask are in order is entered where its granules are free. -/
theorem takeCtxCreate_entered {u : State} {m : List Byte} {t : Ticket} {gs : List Nat} {mc : MemCtl} (hregions : createRegionsOk m = true)
    (hmask : u.maskAccepted (msgContext m) (field32 m 48) = true) (habsent : u.ctx (msgContext m) = none)
    (hfree : MemCtl.takeLp MemCtl.freeLp (field m 56 8 / 0x200000) u.memCtl = some (gs, mc)) :
    u.takeCtxCreate m t = (u.createCtx (msgContext m) m gs mc).finish t stDone 0 0 := by
  simp [State.takeCtxCreate, hregions, hmask, habsent, hfree]

theorem mapGranule_frame (s : State) (c a g : Nat) (readonly : Bool) :
    ∃ x y, s.mapGranule c a g readonly = { s with mem := x, memCtl := y } := ⟨_, _, rfl⟩

/-- The mapping of a context's granules writes translation entries and MEM_INVAL alone (R221, R298). -/
theorem mapData_frame (s : State) (c : Nat) (r : CtxRegs) (gs : List Nat) :
    ∃ x y, s.mapData c r gs = { s with mem := x, memCtl := y } := by
  refine List.foldlRecOn (motive := fun t : State => ∃ x y, t = { s with mem := x, memCtl := y }) (List.range gs.length) _
    ⟨s.mem, s.memCtl, rfl⟩ ?_
  rintro _ ⟨x, y, rfl⟩ i -
  exact mapGranule_frame ..

/-- What entering a context writes: the context, its registers and, for its granules, memory and the memory controller. -/
theorem createCtx_frame (u : State) (c : Nat) (m : List Byte) (gs : List Nat) (mc : MemCtl) :
    ∃ k x y, u.createCtx c m gs mc = { u with
      free := u.free + 1
      ctxs := tset u.ctxs c (Machine.createCtx m gs)
      ctxRegs := tset u.ctxRegs c { createRegs m with kvMeta := k }
      mem := x
      memCtl := y } := by
  obtain ⟨x, y, h⟩ := mapData_frame _ c _ gs
  exact ⟨_, x, y, h⟩

/-- Settles O13: the command by `takeCtxCreate_entered`, the created context by `createCtx_frame`. -/
theorem contextCommandsTakeEffect : Obligations.ContextCommandsTakeEffect := by
  refine ⟨fun s mb m => ⟨fun h => ?create, fun h => ?release⟩, fun u c m gs mc => ?created⟩
  case create =>
    intro u c _ _ hregions hmask habsent gs mc hfree
    exact next_serve h (takeCtxCreate_entered hregions hmask habsent hfree)
  case release => exact next_serve (k := State.takeCtxRelease) h rfl
  case created =>
    obtain ⟨k, x, y, h⟩ := createCtx_frame u c m gs mc
    have hself : (u.createCtx c m gs mc).creg c = { createRegs m with kvMeta := k } := by rw [h]; exact tgetD_tset_self ..
    refine ⟨?_, ?_, ?_, ?_, ?_, fun d hd => ⟨?_, ?_⟩, ?_, ?_⟩
    · rw [h]; exact tget_tset_self ..
    · rw [hself]
    · rw [hself]; rfl
    · rw [hself]
    · rw [hself]
    · rw [h]; exact tget_tset_other _ _ hd
    · rw [h]; exact tgetD_tset_other _ _ _ hd
    · rw [h]
    · rw [h]

/-! ### Windows and reports -/

theorem mailOnly_readings {s t : State} (h : mailOnly s t) : t.readings = s.readings := by rw [h]

section
variable {u : State} {m : List Byte} {t : Ticket} {w : Window}

/-- A read of a live window leaves its message waiting on its mailbox (R465, R478). -/
theorem readWindow_readings (h : u.windowLive (domainOf t.mb) w = true) :
    (u.readWindow t m w).readings = u.readings ++ [⟨t.mb, m⟩] := by
  unfold State.windowLive at h
  unfold State.readWindow
  split at h
  · contradiction
  · next r hr =>
    simp only [h, if_true]
    exact mailOnly_readings (mailOnly_postOp ..)

/-- A live window is written, and its command ends done. -/
theorem copyOut_live {data : List Byte} {v0 : Nat} (h : u.windowLive (domainOf t.mb) w = true) :
    u.copyOut t w data v0 = (u.writeWindow (domainOf t.mb) w data).finish t stDone v0 0 := if_pos h

/-- Under firmware with no activation deferred, a FW_LOAD of a live window reads it and is the load under way (R544). -/
theorem takeFwLoad_reads (hrom : u.bootRom = false) (hdeferred : u.keeper.deferred = [])
    (hlive : u.windowLive (domainOf t.mb) (windowAt m 32) = true) :
    let w := u.readWindow t m (windowAt m 32)
    u.takeFwLoad m t = { w with keeper := { w.keeper with loadTicket := some t } } := by
  have hwaits : ((u.readWindow t m (windowAt m 32)).readings.any fun r => r.mb == t.mb) = true := by
    rw [readWindow_readings hlive]
    simp
  simp [State.takeFwLoad, hrom, hdeferred, hwaits]

/-- Under the boot ROM a FW_LOAD waits for step 5 of the start, or opens its read (R539). -/
theorem takeFwLoad_bootRom (hrom : u.bootRom = true) :
    let w := u.holdReading t.mb m
    let v : State := { w with keeper := { w.keeper with loadTicket := some t, loadWaits := decide (u.keeper.startStep < 5) } }
    u.takeFwLoad m t = if u.keeper.startStep < 5 then v else v.openBootRead t.mb m := if_pos hrom

/-- An activation of a PENDING image starts the restart, or waits for EMERGENCY to close (R553). -/
theorem takeFwActivate_pending (hpending : u.keeper.pendingImage.isSome = true) :
    u.takeFwActivate m t = if u.power.emergency = true then { u with keeper := { u.keeper with deferred := u.keeper.deferred ++ [t] } }
      else u.activateNow [t] := by
  have hsome : u.keeper.pendingImage.isNone = false := by simpa using hpending
  simp [State.takeFwActivate, hsome]

theorem takeIdentify_window (hrom : u.bootRom = false) (hattests : u.attests t.mb m = false)
    (hlive : u.windowLive (domainOf t.mb) (windowAt m 32) = true) :
    u.takeIdentify m t = (u.writeWindow (domainOf t.mb) (windowAt m 32) u.identityReport).finish t stDone 0 0 := by
  simp [State.takeIdentify, hrom, hattests, hlive]

theorem takeIdentify_bootRom {src : UdpSource} (hrom : u.bootRom = true) (hsrc : (u.mailbox t.mb).udp = some src) :
    u.takeIdentify m t = (u.transmit (.udp src u.identityReport)).finish t stDone 0 0 := by
  simp [State.takeIdentify, hrom, hsrc]

/-- An attestation reads its nonce first, except in BLANK (R582, Table 15.11). -/
theorem takeIdentify_attests (hrom : u.bootRom = false) (hattests : u.attests t.mb m = true) (hlife : u.propolis.lifecycle ≠ 0) :
    u.takeIdentify m t = u.readWindow t m { windowAt m 32 with offset := (windowAt m 32).offset + 256, length := 32 } := by
  simp [State.takeIdentify, hrom, hattests, hlife]

theorem takeSlotQuery_found {i : Nat} (hslot : u.findSlot (msgContext m) (BitVec.ofNat 64 (field m 32 8)) = some i)
    (hlive : u.windowLive (domainOf t.mb) (windowAt m 40) = true) :
    u.takeSlotQuery m t = (u.writeWindow (domainOf t.mb) (windowAt m 40) (u.slot i).bytes).finish t stDone i 0 := by
  simp [State.takeSlotQuery, hslot, hlive]

end

/-- Settles O20: each command as its mailbox takes it, in the case that the statement names. -/
theorem firmwareAndReportCommandsTakeEffect : Obligations.FirmwareAndReportCommandsTakeEffect := by
  intro s mb m
  refine ⟨fun h hnone => ?fwLoad, fun h => ?fwActivate, fun h => ?debugUnlock, fun h => ⟨?window, ?bootRom, ?attestation⟩,
    fun h => ?logRead, fun h => ?ledgerRead, fun h => ?slotQuery⟩
  case fwLoad =>
    have hserves : exec (.fwLoad mb) s = .next (s.serve mb 0x0060 State.takeFwLoad) := by simp [exec, execFwLoad, hnone]
    exact ⟨fun hrom hdeferred hlive => hserves.trans (next_serve h (takeFwLoad_reads hrom hdeferred hlive)),
      fun hrom => hserves.trans (next_serve h (takeFwLoad_bootRom hrom))⟩
  case fwActivate => exact fun hpending => next_serve h (takeFwActivate_pending hpending)
  case debugUnlock => exact next_serve (k := State.takeDebugUnlock) h rfl
  case window => exact fun hrom hattests hlive => next_serve h (takeIdentify_window hrom hattests hlive)
  case bootRom => exact fun hrom src hsrc => next_serve h (takeIdentify_bootRom hrom hsrc)
  case attestation => exact fun hrom hattests hlife => next_serve h (takeIdentify_attests hrom hattests hlife)
  case logRead => exact fun hlive => next_serve (k := State.takeLogRead) h (copyOut_live hlive)
  case ledgerRead => exact fun hlive => next_serve (k := State.takeLedgerRead) h (copyOut_live hlive)
  case slotQuery => exact fun i hslot hlive => next_serve h (takeSlotQuery_found hslot hlive)

/-! ### Sequences -/

section
variable {u : State} {m : List Byte} {t : Ticket}

/-- Uniform leading pages, a handle and a list being free, are registered, at the boundary of a running step (R321). -/
theorem takeHandleRegister_registers {i l : Nat} (hslot : u.findSlot (msgContext m) (BitVec.ofNat 64 (field m 32 8)) = some i)
    (hpos : 0 < field m 40 4) (hkv : field m 40 4 ≤ (u.slot i).kvlen) (hopen : (u.slot i).state ≠ .closing)
    (hlist : (u.slot i).list = some l) (huniform : ((u.pool (msgContext m)).uniform l (pagesOf (field m 40 4))).isSome = true)
    (hhandle : (lowestFree (u.creg (msgContext m)).handleCount ((u.pool (msgContext m)).handles.map Prod.fst)).isSome = true)
    (hfree : (u.freeList (msgContext m)).isSome = true) :
    let w : HandleWait := ⟨t, BitVec.ofNat 64 (field m 32 8), field m 40 4⟩
    u.takeHandleRegister m t = if u.stepRunning (msgContext m) = true
      then u.setPool (msgContext m) { u.pool (msgContext m) with waiting := (u.pool (msgContext m)).waiting ++ [w] }
      else u.applyHandle (msgContext m) w := by
  have hrange : ¬ (field m 40 4 = 0 ∨ (u.slot i).kvlen < field m 40 4) := by omega
  have hroom : ((lowestFree (u.creg (msgContext m)).handleCount ((u.pool (msgContext m)).handles.map Prod.fst)).isNone ||
      (u.freeList (msgContext m)).isNone) = false := by
    simp [Option.isNone_eq_false_iff.2 hhandle, Option.isNone_eq_false_iff.2 hfree]
  simp [State.takeHandleRegister, hslot, hrange, hopen, hlist, Option.isNone_eq_false_iff.2 huniform, hroom]

theorem takeHandleRelease_held (hctx : handleCtx (field m 32 8) = msgContext m)
    (hheld : ((u.pool (msgContext m)).handle (field m 32 8)).isSome = true) :
    u.takeHandleRelease m t = (u.releaseHandle (msgContext m) (bits (field m 32 8) 13 0)).finish t stDone 0 0 := by
  obtain ⟨x, hx⟩ := Option.isSome_iff_exists.1 hheld
  simp [State.takeHandleRelease, hctx, hx]

theorem takeSetReward_unset {e : SupEntry} (hentry : u.super (msgContext m) (BitVec.ofNat 64 (field m 32 8)) = some e)
    (hready : e.ready = true) (hunset : e.rewardState = 0) :
    u.takeSetReward m t = (u.setSuper (msgContext m) { e with reward := field32 m 40, rewardState := 1 }).finish t stDone 0 0 := by
  simp [State.takeSetReward, hentry, hready, hunset]

theorem takeSuperRelease_ready {e : SupEntry} (hentry : u.super (msgContext m) (BitVec.ofNat 64 (field m 32 8)) = some e)
    (hready : e.ready = true) :
    u.takeSuperRelease m t = ((u.setSuper (msgContext m) { e with released := true }).moveTail (msgContext m)).finish t stDone 0 0 := by
  simp [State.takeSuperRelease, hentry, hready]

end

/-- Settles O21: each command as its mailbox takes it, on an entry that meets its checks. -/
theorem sequenceCommandsTakeEffect : Obligations.SequenceCommandsTakeEffect := by
  intro s mb m
  refine ⟨fun h => ?handleRegister, fun h => ?handleRelease, fun h => ?setReward, fun h => ?superRelease⟩
  case handleRegister =>
    intro u c n q i l hslot hpos hkv hopen hlist huniform hhandle hfree
    exact next_serve h (takeHandleRegister_registers hslot hpos hkv hopen hlist huniform hhandle hfree)
  case handleRelease => exact fun hctx hheld => next_serve h (takeHandleRelease_held hctx hheld)
  case setReward => exact fun e hentry hready hunset => next_serve h (takeSetReward_unset hentry hready hunset)
  case superRelease => exact fun e hentry hready => next_serve h (takeSuperRelease_ready hentry hready)

end Sys2Proof.Proofs
end

section
/-! SUPPORT. Admissions (R256, R261, R480): which of its outcomes an ADMIT has, and the slot that an accepted one takes. -/

namespace Sys2Proof.Proofs

open Sys2Proof.Machine Sys2Proof.Laws

/-! ### The outcomes of an ADMIT -/

section
variable {u : State} {m : List Byte} {t : Ticket}

theorem enroll_rejected {mb st : Nat} {given : List Nat} (h : u.adCheck (msgContext m) m = some st) :
    u.enroll mb m given = u.reject mb m st := by
  unfold State.enroll
  simp only [h]

theorem enroll_accepted {mb : Nat} {given : List Nat} (h : u.adCheck (msgContext m) m = none) :
    u.enroll mb m given = u.acceptAdmit (msgContext m) m (ticketOf mb m) given := by
  unfold State.enroll
  simp only [h]

theorem takeAdmit_rejected {st : Nat} (h : u.adCheck (msgContext m) m = some st) : u.takeAdmit m t = u.reject t.mb m st := by
  unfold State.takeAdmit
  split
  · exact enroll_rejected h
  · simp only [h]

theorem takeAdmit_inline (h : u.adCheck (msgContext m) m = none) (hinline : field m 136 4 = inlinePrompt) :
    u.takeAdmit m t = u.acceptAdmit (msgContext m) m (ticketOf t.mb m) (tokensAt m 152 (adTokens m)) :=
  (if_pos hinline).trans (enroll_accepted h)

theorem takeAdmit_noTokens (h : u.adCheck (msgContext m) m = none) (hregistered : field m 136 4 ≠ inlinePrompt) (hn : adTokens m = 0) :
    u.takeAdmit m t = u.acceptAdmit (msgContext m) m (ticketOf t.mb m) [] := by
  simp only [State.takeAdmit, if_neg hregistered, h, if_pos hn]
  exact enroll_accepted h

theorem takeAdmit_registered (h : u.adCheck (msgContext m) m = none) (hregistered : field m 136 4 ≠ inlinePrompt) (hn : adTokens m ≠ 0) :
    u.takeAdmit m t = u.readPrompt t.mb m := by
  simp only [State.takeAdmit, if_neg hregistered, h, if_neg hn]

end

/-! ### What leaves the slots as they are: the Keeper's writes, with the first-touch copies they wait for (R526) -/

theorem mailOnly_slots {s t : State} (h : mailOnly s t) : t.slots = s.slots := by rw [h]

section
variable (s : State)

theorem pumpLink_slots (k n : Nat) : (s.pumpLink k n).slots = s.slots := by
  induction n generalizing s with
  | zero => rfl
  | succ n ih =>
    unfold State.pumpLink
    extract_lets
    split
    · rfl
    · exact ih _

theorem originate_slots (links : List Nat) (b : List Byte) : (s.originate links b).slots = s.slots := by
  unfold State.originate
  split
  · unfold State.sendOn
    extract_lets
    split
    · exact pumpLink_slots ..
    · rfl
  · rfl

theorem sendPart_slots (c : Capping) (off : Nat) (b : List Byte) : (s.sendPart c off b).slots = s.slots := by
  unfold State.sendPart
  split
  · unfold State.tell
    split
    · rfl
    · exact originate_slots ..
  · unfold State.writeWindow
    split
    · rfl
    · exact mailOnly_slots (mailOnly_postOp ..)

theorem clearWp_slots (ctx a : Nat) : (s.clearWp ctx a).slots = s.slots := rfl

theorem copyGranule_slots (c : Capping) (a : Nat) : (s.copyGranule c a).slots = s.slots :=
  (setCap_slots ..).trans ((clearWp_slots ..).trans (sendPart_slots ..))

theorem touchCopy_slots (ctx a n : Nat) : (s.touchCopy ctx a n).slots = s.slots := by
  refine List.foldlRecOn (motive := fun t : State => t.slots = s.slots) (rangePieces a n) _ rfl fun t ht p _ => ?_
  dsimp only
  split
  · split
    · exact (copyGranule_slots t ..).trans ht
    · exact ht
  · exact ht

theorem writePieces_slots (ps : List (Nat × Nat)) (b : List Byte) : (s.writePieces ps b).slots = s.slots := by
  induction ps generalizing s b with
  | nil => rfl
  | cons p rest ih =>
    refine (ih _ _).trans ?_
    split <;> rfl

theorem writeCtx_slots (ctx a : Nat) (b : List Byte) : (s.writeCtx ctx a b).slots = s.slots := by
  unfold State.writeCtx
  split
  · next v hv =>
    obtain ⟨ps, -, rfl⟩ := Option.map_eq_some_iff.1 hv
    exact (writePieces_slots ..).trans (touchCopy_slots ..)
  · rfl

theorem setPool_slots (c : Nat) (p : KvPool) : (s.setPool c p).slots = s.slots := by
  unfold State.setPool
  split <;> rfl

theorem reserveSuper_slots (c start n : Nat) (e : Slot) : (s.reserveSuper c start n e).2.slots = s.slots := by
  unfold State.reserveSuper
  extract_lets
  split
  · rfl
  · simp only [writeCtx_slots, setCreg_slots, setCtx_slots]

/-- Taking references to pages leaves the slots. -/
theorem holdPages_slots (c : Nat) (pages : List Nat) :
    (pages.foldl (fun (v : State) g => v.setPool c ((v.pool c).hold g)) s).slots = s.slots :=
  List.foldlRecOn (motive := fun t : State => t.slots = s.slots) pages _ rfl fun _ ht _ _ => (setPool_slots ..).trans ht

end

/-! ### An accepted admission -/

theorem lowestFree_eq_some {n i : Nat} {used : List Nat} (h : lowestFree n used = some i) :
    i < n ∧ i ∉ used ∧ ∀ j, j < i → j ∈ used := by
  obtain ⟨hfree, hlt, hleast⟩ := List.find?_range_eq_some.1 h
  exact ⟨List.mem_range.1 hlt, by simpa using hfree, fun j hj => by simpa using hleast j hj⟩

/-- An admission that passes its checks has a slot, a list and room in the super (check 9 of R261). -/
theorem adRoom_of_adCheck {u : State} {c : Nat} {m : List Byte} (h : u.adCheck c m = none) : u.adRoom c m = true := by
  by_contra hroom
  simp only [State.adCheck, Bool.eq_false_of_not_eq_true hroom, Bool.not_false, if_true] at h
  split_ifs at h

/-- What is written before the slot leaves the slots; the slot then holds what `adSlot` says, with its super entry. -/
theorem acceptAdmit_slot {u : State} {c : Nat} {m : List Byte} {i l place : Nat} (t : Ticket) (given : List Nat)
    (hslot : u.freeSlotNumber = some i) (hlist : u.freeList c = some l) (hplace : u.adSuperPlace c m = some place) :
    ∃ (v : State) (a : Nat), v.slots = u.slots ∧
      let w := v.setSlot i { u.adSlot c m t given l with supEntry := a }
      u.acceptAdmit c m t given = if w.generating = true then w.wake.bindSlot i else w.wake := by
  unfold State.acceptAdmit
  rw [hslot, hlist, hplace]
  refine ⟨_, _, ?_, rfl⟩
  have hheld : ((u.adSlot c m t given l).held.foldl (fun (v : State) g => v.setPool c ((v.pool c).hold g)) (u.takeList c l)).slots =
      u.slots := (holdPages_slots ..).trans (setPool_slots ..)
  split
  · exact hheld
  · exact (reserveSuper_slots ..).trans hheld

/-- Settles O22: the outcomes by `takeAdmit`'s cases, the slot by `acceptAdmit_slot` and `lowestFree_eq_some`. -/
theorem admitTakesEffect : Obligations.AdmitTakesEffect := by
  refine ⟨fun s mb m h => ⟨?rejected, ?inline, ?noTokens, ?registered⟩, fun u c m t given hcheck => ?accepted⟩
  case rejected => exact fun st hst => next_serve h (takeAdmit_rejected hst)
  case inline => exact fun hnone hinline => next_serve h (takeAdmit_inline hnone hinline)
  case noTokens => exact fun hnone hreg hn => next_serve h (takeAdmit_noTokens hnone hreg hn)
  case registered => exact fun hnone hreg hn => next_serve h (takeAdmit_registered hnone hreg hn)
  case accepted =>
    have hroom := adRoom_of_adCheck hcheck
    simp only [State.adRoom, Bool.and_eq_true, Option.isSome_iff_exists] at hroom
    obtain ⟨⟨⟨-, i, hslot⟩, l, hlist⟩, place, hplace⟩ := hroom
    obtain ⟨v, a, hslots, haccept⟩ := acceptAdmit_slot t given hslot hlist hplace
    obtain ⟨hi, hunused, hleast⟩ := lowestFree_eq_some hslot
    have hother : ∀ (e : Slot) (j : Nat), j ≠ i → (v.setSlot i e).slot j = u.slot j := by
      intro e j hj
      rw [setSlot_slot_other v i e j hj, State.slot, hslots, State.slot]
    refine ⟨i, _, hi, hunused, hleast, haccept, ?_⟩
    rw [setSlot_slot_self]
    exact ⟨rfl, rfl, rfl, rfl, rfl, rfl, rfl, hother _⟩

end Sys2Proof.Proofs
end

section
/-! SUPPORT. Responses to a connection's reads (R290, R453, R480, R532, R543), and the control-register commands (R296, R417, R446, R551,
R568, R590). -/

namespace Sys2Proof.Proofs

open Sys2Proof.Machine Sys2Proof.Laws

/-! ### Read responses -/

section
variable {s t : State} {n : Nat}

theorem execRdmaReadResponse_answered {d : ReadData} {why : ReadPurpose} (hread : s.takeRead n = some (why, t))
    (hanswers : s.answers d why = true) : exec (.rdmaReadResponse n d) s = .next (t.readDone n d why) := by
  simp [exec, execRdmaReadResponse, hread, hanswers]

theorem execPromptReadComplete_prompt {mb : Nat} {d : Option (List Byte)} (hread : s.takeRead n = some (.prompt mb, t)) :
    exec (.promptReadComplete n d) s = .next (t.takePrompt mb d) := by
  simp [exec, execPromptReadComplete, hread]

/-- A HELD slot's poll that is due reads its consumer word where its registration stands (R290). -/
theorem execConsumerPoll_due {i : Nat} {r : Registration} (hheld : (s.slot i).state = .held) (hidle : (s.slot i).polling = false)
    (hdue : (s.slot i).pollAt + s.necPoll.toNat ≤ s.now) (hreg : s.registration ((s.slot i).ctx + 1) (s.slot i).mirrorReg = some r) :
    exec (.consumerPoll i) s = .next ((s.setSlot i { s.slot i with pollAt := s.now, polling := true }).postOp r.qpn
      (.read (r.addr + (s.slot i).consOffset) r.rkey 4 (.consumer i))) := by
  simp [exec, execConsumerPoll, State.readConsumer, hheld, hidle, hdue, hreg]

end

/-- Settles O27: the response by the purpose of its read, the prompt's and the poll's by their own lemmas. -/
theorem readResponsesGoToWhatAsked : Obligations.ReadResponsesGoToWhatAsked := by
  refine ⟨fun s t n d why hread hanswers => ?response, fun s t n mb d hread => execPromptReadComplete_prompt hread,
    fun s i r hheld hidle hdue hreg => execConsumerPoll_due hheld hidle hdue hreg⟩
  case response =>
    rw [execRdmaReadResponse_answered hread hanswers]
    cases why <;> rfl

/-! ### Control writes -/

/-- A kick inside the armed window marks its cores (R551). -/
theorem execWdogKick_inTime {s : State} {a : Nat} (v : Word) (harmed : s.keeper.wdogArmed = some a)
    (htime : s.now < a + s.keeper.wdogCfg.toNat) :
    exec (.wdogKick v) s = .next { s with keeper := { s.keeper with kicks := s.keeper.kicks ||| BitVec.ofNat 4 v.toNat } } := by
  simp [exec, execWdogKick, harmed, htime]

/-- A write of PRP_LOCK sets the bits it names and clears none (R590). -/
theorem setLocks_bitAt (s : State) (n : Nat) {k : Nat} (hk : k < 3) :
    bitAt (s.setLocks (n % 8)).propolis.lock.toNat k = (bitAt s.propolis.lock.toNat k || bitAt n k) := by
  have hlow : (n % 8).testBit k = n.testBit k := by simpa [hk] using Nat.testBit_mod_two_pow n 3 k
  simp [State.setLocks, bitAt_eq_testBit, hlow]

/-- Acting on the code called for changes neither the request nor the host's ceiling (R568). -/
theorem retarget_codes (p : Power) (now : Nat) : (p.retarget now).request = p.request ∧ (p.retarget now).hostCeil = p.hostCeil := by
  unfold Power.retarget Power.setDivider
  split
  · exact ⟨rfl, rfl⟩
  · split
    · split <;> exact ⟨rfl, rfl⟩
    · split <;> exact ⟨rfl, rfl⟩

/-- Settles O44, command by command. -/
theorem controlWritesTakeEffect : Obligations.ControlWritesTakeEffect := by
  intro s v
  refine ⟨?mode, ?enable, ?fence, fun a harmed htime => execWdogKick_inTime v harmed htime, ?period, ?lock, ?dvfs, ?slot⟩
  case mode => simp [exec, execTrnModeWrite]
  case enable => rfl
  case fence => rfl
  case period => rfl
  case lock => exact ⟨s.setLocks (v.toNat % 8), rfl, fun k hk => setLocks_bitAt s v.toNat hk, rfl⟩
  case dvfs =>
    obtain ⟨hrequest, hceil⟩ := retarget_codes { s.power with request := bits v.toNat 1 0, hostCeil := bits v.toNat 3 2 } s.now
    exact ⟨s.writeDvfs v.toNat, rfl, hrequest, hceil, rfl⟩
  case slot => exact fun _ _ _ => rfl

end Sys2Proof.Proofs
end

section
/-! SUPPORT. The messages between a queen and her members in a step: start messages and reports (R364, R369, R438 to R441, R511), and COMMIT,
ROLLBACK and their acknowledgements (R370, R371, R444). -/

namespace Sys2Proof.Proofs

open Sys2Proof.Machine Sys2Proof.Laws

/-! ### Generation steps across the group (R439) -/

/-- The queen takes a member's report on the present run of a step where she has none from it yet. -/
theorem stepEnd_queen {s : State} {pos stamp : Nat} {t : GenStep} (r : StepEndReport) (hq : s.isQueen = true) (hpos : pos ∈ s.others)
    (ht : s.steps.find? (fun t => t.stamp.toNat == stamp && (t.phase == .running || t.phase == .coresDone)) = some t) :
    exec (.stepEnd pos s.cascade.epoch.toNat stamp r) s =
      .next (if tget t.ends pos = none then s.setStep { t with ends := tset t.ends pos r } else s) := by
  simp [exec, execStepEnd, ht, hq, hpos]

/-! ### Start messages (R438, R439) -/

/-- A queen takes no start message, and a member none of another epoch. -/
theorem stepStartMessage_dropped {s : State} {epoch : Nat} (stamp n : Nat) (o : StepOrder)
    (h : s.isQueen = true ∨ epoch ≠ s.cascade.epoch.toNat) : exec (.stepStartMessage epoch stamp n o) s = .next s := by
  rcases h with h | h <;> simp [exec, execStepStartMessage, h]

section
variable {s : State} {n : Nat} (hq : s.isQueen = false) (ha : s.cascade.state = .active) (hc : (s.ctx n).isSome = true)
  (hm : s.wake.mayStart (s.creg n).combs = true) (hi : s.invalWaits n = false)

include hq ha hc hm hi

/-- A member of an active group that may start begins the generation step ordered, where none of its context runs. That it wakes from P1 for
it is the model's choice (log 154). -/
theorem stepStartMessage_generation {run package version : Nat} {items : List WorkItem} {rows : List WorkRow} {tables : List (List Nat)}
    {pages : List PageOrder} (stamp : Nat) (lc : Bool) (hidle : ∀ t ∈ s.steps, t.ctx = n → t.phase ≠ .running) :
    exec (.stepStartMessage s.cascade.epoch.toNat stamp n (.generation lc run package version items rows tables pages)) s =
      .next (s.wake.memberStart n (BitVec.ofNat 32 stamp) lc run package version items rows tables pages) := by
  have hnone : (s.steps.any fun t => t.ctx == n && t.phase == .running) = false := by simpa using hidle
  simp [exec, execStepStartMessage, hq, ha, Option.ne_none_iff_isSome.2 hc, hm, hi, hnone]

/-- It takes its part in the learning step ordered, where its context has none and the plan's package. -/
theorem stepStartMessage_learning {plan : List Byte} {p : Package} (stamp : Nat) (lc : Bool)
    (hp : s.learnPackage n (parsePlan plan).package = some p) (hnone : s.learnStep n = none) :
    exec (.stepStartMessage s.cascade.epoch.toNat stamp n (.learning lc plan)) s =
      .next (s.wake.memberLearn n (BitVec.ofNat 32 stamp) lc (parsePlan plan) p) := by
  simp [exec, execStepStartMessage, hq, ha, Option.ne_none_iff_isSome.2 hc, hm, hi, hp, hnone]

end

/-! ### Orders and reports of a learning step -/

section
variable {s : State} {n : Nat} {t : LearnStep} (ht : s.learnStep n = some t)

include ht

/-- Once the last pass has ended, the queen sends the clip factor of the layers' folded sums of squares (R364). -/
theorem clipFactor_sends (gs : Table Word) (hq : s.isQueen = true) (hclip : t.plan.clip = true) (hpass : t.pass = t.passes)
    (hrun : t.running = false) (hf : t.clipFactor = none) :
    let f := BitVec.ofNat 32 (clipOf (foldSumsq (s.layerSumsq t gs)) t.plan.clipAt.toNat)
    exec (.clipFactor n gs) s =
      .next ((s.setLearn { t with clipFactor := some f }).tellAll kmClip (leBytes 2 n ++ leBytes 4 f.toNat)) := by
  simp [exec, execClipFactor, ht, hq, hclip, hpass, hrun, hf]

/-- The queen takes the one report of a position before she commits (R369, R441), and her own once her passes are done: that it is an event
too is the model's choice (log 101). -/
theorem staged_queen {pos : Nat} (r : StagedReport) (hq : s.isQueen = true) (hpos : pos < s.groupSize) (hfirst : tget t.staged pos = none)
    (hsent : t.commitSent = false) (hown : pos = s.position → t.passesDone = true) :
    let w := if pos = s.position then s.ownReport t else r
    let u := if w.damaged = true then s.setLearner n fun l => { l with damaged := true } else s
    exec (.staged pos s.cascade.epoch.toNat n t.plan.step r) s =
      .next ((u.writeLogp n t.plan pos w.logps).guardLearn { t with staged := tset t.staged pos w }) := by
  have hready : (pos != s.position || t.passesDone) = true := by
    by_cases h : pos = s.position
    · simp [hown h]
    · simp [h]
  simp [exec, execStaged, ht, hq, hpos, hfirst, hsent, hready]

/-- A member takes each replay order of its epoch once (R441). -/
theorem replay_member (g k : Nat) (hq : s.isQueen = false) : exec (.replay s.cascade.epoch.toNat n g k) s =
    .next (if t.orders.contains (g, k) = true then s else s.setLearn { t with orders := t.orders ++ [(g, k)] }) := by
  cases h : t.orders.contains (g, k) <;> simp [exec, execReplay, ht, hq, h, -List.contains_eq_mem]

/-- The queen takes the result of the next run that she has ordered from a member (R511). -/
theorem replayResult_queen {pos g k : Nat} (faulted : Bool) (fp : Long) (flags : BitVec 7) (hq : s.isQueen = true)
    (hpos : pos = s.replayPos g k) (hmember : pos ≠ s.position)
    (hdue : (t.guarded.any fun x => x.micro == g && x.runs.length + 1 == k && decide (k ≤ x.asked)) = true) :
    exec (.replayResult pos s.cascade.epoch.toNat n g k faulted fp flags) s = .next (s.takeReplay t g k ⟨faulted, fp, flags, []⟩) := by
  subst hpos
  simp [exec, execReplayResult, ht, hq, hmember, hdue, -List.any_eq_true]

end

/-- Settles O49, message by message. -/
theorem groupStepMessagesTakeEffect : Obligations.GroupStepMessagesTakeEffect := by
  refine ⟨fun s pos stamp r t hq hpos ht => ?_,
    fun s n stamp lc hq ha hc hm hi => ⟨fun run package version items rows tables pages => stepStartMessage_generation hq ha hc hm hi stamp lc,
      fun plan p => stepStartMessage_learning hq ha hc hm hi stamp lc⟩,
    fun s n stamp epoch o => stepStartMessage_dropped stamp n o,
    fun s n t ht => ⟨clipFactor_sends ht, fun pos r => staged_queen ht r, replay_member ht,
      fun pos g k faulted fp flags => replayResult_queen ht faulted fp flags⟩⟩
  rw [stepEnd_queen r hq hpos ht]
  exact ⟨fun hnone => by rw [if_pos hnone], fun hsome => by rw [if_neg (Option.ne_none_iff_isSome.2 hsome)]⟩

/-! ### COMMIT and ROLLBACK (R370, R371, R444) -/

/-- A queen takes no COMMIT and no ROLLBACK, and a member none of another epoch. -/
theorem commit_dropped {s : State} {epoch : Nat} (n step : Nat) (b : CommitBody) (h : s.isQueen = true ∨ epoch ≠ s.cascade.epoch.toNat) :
    exec (.commit epoch n step b) s = .next s := by
  rcases h with h | h <;> simp [exec, execCommit, h]

theorem rollback_dropped {s : State} {epoch : Nat} (n step base : Nat) (h : s.isQueen = true ∨ epoch ≠ s.cascade.epoch.toNat) :
    exec (.rollback epoch n step base) s = .next s := by
  rcases h with h | h <;> simp [exec, execRollback, h]

section
variable {s : State} {n step base : Nat} (hq : s.isQueen = false)

include hq

/-- A member carries out COMMIT of the staged step whose number and base agree, and acknowledges it. -/
theorem commit_member {t : LearnStep} (maxima : Table Word) (ht : s.learnStep n = some t) (hok : s.acceptsCommit t step base = true) :
    exec (.commit s.cascade.epoch.toNat n step ⟨base, maxima⟩) s = .next (((((s.applyCommit t maxima
      [(s.ownReport t).masterMax]).eraseLearn n).tell s.queenPos kmAck t.fields).sweepVersions n).retireDue.settleReleases) := by
  simp [exec, execCommit, hq, ht, hok]

/-- A member carries out ROLLBACK of the staged step whose number and base agree, and acknowledges it. -/
theorem rollback_member {t : LearnStep} (ht : s.learnStep n = some t) (hok : s.acceptsCommit t step base = true) :
    exec (.rollback s.cascade.epoch.toNat n step base) s =
      .next (((((s.stopLearn t).eraseLearn n).tell s.queenPos kmAck t.fields).sweepVersions n).retireDue.settleReleases) := by
  simp [exec, execRollback, hq, ht, hok]

variable (hno : ∀ t, s.learnStep n = some t → s.acceptsCommit t step base = false)

include hno

/-- A member refuses COMMIT where no staged step agrees with it. -/
theorem commit_refused (maxima : Table Word) :
    exec (.commit s.cascade.epoch.toNat n step ⟨base, maxima⟩) s = .next (s.refuseCommit n step) := by
  cases ht : s.learnStep n with
  | none => simp [exec, execCommit, hq, ht]
  | some t => simp [exec, execCommit, hq, ht, hno t ht]

/-- A member refuses ROLLBACK where no staged step agrees with it. -/
theorem rollback_refused : exec (.rollback s.cascade.epoch.toNat n step base) s = .next (s.refuseCommit n step) := by
  cases ht : s.learnStep n with
  | none => simp [exec, execRollback, hq, ht]
  | some t => simp [exec, execRollback, hq, ht, hno t ht]

end

/-! ### The banks and the acknowledgements -/

/-- A change of a present context's learner is what is read of it then. -/
theorem setLearner_learnerOf {s : State} {c : Nat} (f : Learner → Learner) (hc : (s.ctx c).isSome = true) :
    (s.setLearner c f).learnerOf c = f (s.learnerOf c) := by
  obtain ⟨x, hx⟩ := Option.isSome_iff_exists.1 hc
  simp only [State.setLearner, hx]
  simp [State.learnerOf]

theorem setLearner_mem (s : State) (c : Nat) (f : Learner → Learner) : (s.setLearner c f).mem = s.mem := by
  unfold State.setLearner
  split <;> rfl

/-- A commit makes the other bank current and its step the last, and writes no memory (R370). -/
theorem applyCommit_switches {s : State} {t : LearnStep} (maxima : Table Word) (masters : List (Table Word))
    (hc : (s.ctx t.ctx).isSome = true) :
    ((s.applyCommit t maxima masters).learnerOf t.ctx).cur = !(s.learnerOf t.ctx).cur ∧
      ((s.applyCommit t maxima masters).learnerOf t.ctx).lastStep = t.plan.step ∧ (s.applyCommit t maxima masters).mem = s.mem := by
  rw [State.applyCommit, setLearner_learnerOf _ hc]
  exact ⟨rfl, rfl, setLearner_mem _ _ _⟩

/-- The queen notes each member's acknowledgement, and finishes the commit with the last that she waits for (R370). -/
theorem ack_queen {s : State} {n pos : Nat} {t : LearnStep} (ht : s.learnStep n = some t) (hq : s.isQueen = true)
    (hsent : t.commitSent = true) (hpos : pos ∈ s.others) :
    let w := { t with acks := ninsert t.acks pos }
    exec (.ack pos s.cascade.epoch.toNat n t.plan.step) s = .next (
      if (s.others.all fun p => w.acks.contains p || s.cascade.lost.contains p) = true then (s.setLearn w).finishCommit w
      else s.setLearn w) := by
  simp [exec, execAck, ht, hq, hsent, hpos]

/-- Settles O50, message by message. -/
theorem commitsAreAtomic : Obligations.CommitsAreAtomic := by
  refine ⟨fun s n step base maxima hq =>
      ⟨fun t ht hok => ⟨commit_member hq maxima ht hok, rollback_member hq ht hok⟩,
        fun hno => ⟨commit_refused hq hno maxima, rollback_refused hq hno⟩⟩,
    fun s n step base epoch h => ⟨fun maxima => commit_dropped n step ⟨base, maxima⟩ h, rollback_dropped n step base h⟩,
    fun s t ws ms => applyCommit_switches ws ms, fun s n pos t => ack_queen⟩

end Sys2Proof.Proofs
end

section
/-! SUPPORT. The commands that set the power state and the switch mode, and what entering a power state changes (R390, R559 to R561). -/

namespace Sys2Proof.Proofs

open Sys2Proof.Machine Sys2Proof.Laws

/-- A power state that R560 lets the module enter is entered, under the host's ceiling. -/
theorem takePowerSet_permitted {u : State} {m : List Byte} {t : Ticket} (h : bits (field m 32 1) 1 0 = 0 ∨
      bits (field m 32 1) 1 0 = u.keeper.powerState ∨
        (u.powerBusy = false ∧ (bits (field m 32 1) 1 0 = 2 → u.cascade.state = .active → u.groupSize ≤ 1))) :
    u.takePowerSet m t = (State.enterPower
      { u with power := ({ u.power with hostCeil := bits (field m 32 1) 3 2 } : Power).retarget u.now }
      (bits (field m 32 1) 1 0)).finish t stDone 0 0 := by
  unfold State.takePowerSet
  refine if_neg fun hrefused => ?_
  simp only [Bool.and_eq_true, Bool.or_eq_true, bne_iff_ne, beq_iff_eq, decide_eq_true_eq] at hrefused
  obtain ⟨⟨hup, hother⟩, hheld⟩ := hrefused
  obtain hzero | hsame | ⟨hidle, hgroup⟩ := h
  · exact hup hzero
  · exact hother hsame
  · obtain hbusy | ⟨⟨htwo, hactive⟩, hmembers⟩ := hheld
    · exact absurd (hbusy.symm.trans hidle) (by decide)
    · exact absurd (hgroup htwo hactive) (by omega)

/-- With no turn and no load under way a change of switch mode is kept for the boundary and told to the members (R390). That it takes effect at
once where nothing runs is the model's choice (log 99). -/
theorem takeSwitchMode_kept {u : State} {m : List Byte} {t : Ticket} (hturn : u.turns.turn = none) (hload : u.loadingNow = false) :
    u.takeSwitchMode m t =
      (({ u with turns := { u.turns with modeWait := some (field m 32 1 == 1, t) } } : State).tellAll kmOrder m).settleIdle :=
  if_neg (by simp [hturn, hload])

/-- The links as P2 leaves them: down (R559). -/
theorem links_down {t : Table Link} {k : Nat} {l : Link}
    (h : tget (t.map fun e => (e.1, { e.2 with up := false, matched := false })) k = some l) : l.up = false := by
  obtain ⟨x, -, rfl⟩ := Option.map_eq_some_iff.1 ((tget_map (fun x : Link => { x with up := false, matched := false }) t k).symm.trans h)
  rfl

/-- Another power state entered: scrubbing, self-refresh and the links follow it, and memory stays (R559, R561). -/
theorem enterPower_other {s : State} {n : Nat} (h : n ≠ s.keeper.powerState) :
    (s.enterPower n).keeper.powerState = n ∧ (s.enterPower n).keeper.selfRefresh = (n == 2) ∧
      (s.enterPower n).memCtl.scrubPaused = (n == 2) ∧
      (n = 2 → ∀ k l, tget (s.enterPower n).cascade.links k = some l → l.up = false) ∧
      (n ≠ 2 → (s.enterPower n).cascade = s.cascade) ∧ (s.enterPower n).mem = s.mem := by
  rw [State.enterPower, if_neg h]
  by_cases hn : n = 2
  · rw [if_pos hn]
    exact ⟨rfl, rfl, rfl, fun _ _ _ => links_down, fun hnot => absurd hn hnot, rfl⟩
  · rw [if_neg hn]
    exact ⟨rfl, rfl, rfl, fun htwo => absurd htwo hn, fun _ => rfl, rfl⟩

/-- Settles O12: the two commands as their mailbox takes them, and a power state entered by `enterPower_other`. -/
theorem modeCommandsTakeEffect : Obligations.ModeCommandsTakeEffect := by
  refine ⟨fun s mb m => ⟨fun htakes => ?power, fun htakes => ?switch⟩, fun s n => enterPower_other⟩
  case power => exact fun hallowed => next_serve htakes (takePowerSet_permitted hallowed)
  case switch => exact fun hturn hload => next_serve htakes (takeSwitchMode_kept hturn hload)

end Sys2Proof.Proofs
end

section
/-! SUPPORT. The commands that load packs, supply their shards and turn the group (R392, R395, R411, R490): each where its checks pass. -/

namespace Sys2Proof.Proofs

open Sys2Proof.Machine Sys2Proof.Laws

section
variable {u : State} {m : List Byte} {t : Ticket}

/-! ### LOAD and SHARD_SUPPLY -/

/-- A LOAD that passes the checks of R411 is accepted. -/
theorem takeLoad_accepted {x : Ctx} {mf : List Byte} {k : Nat} {kind : LoadKind} (hctx : u.ctx (msgContext m) = some x)
    (hwriting : u.packWriting (field m 32 8) = false) (hdeleting : u.packDeleting (field m 32 8) = false)
    (hmf : u.loadManifest (field m 32 8) = some mf) (hsound : x.manifestOk mf u.groupSize = true)
    (hdata : x.inData (field m 40 8) (16 * mfShards mf) = true) (hkind : x.loadKind mf = some (k, kind))
    (hfields : u.loadFieldsOk (msgContext m) k kind m mf = true)
    (hpermitted : u.loadPermitted (msgContext m) k kind (if kind = .adapter then u.loadIndex (msgContext m) m else none) = true) :
    u.takeLoad m t = u.acceptLoad t m mf (msgContext m) k kind := by
  simp [State.takeLoad, hwriting, hdeleting, hctx, hmf, hsound, hdata, hkind, hfields, hpermitted]

section
variable {r : ShardRequest} {l : Loading} (hr : u.request m = some r) (hopen : r.ended = false) (hl : u.openLoad r.packId = some l)

include hr hopen hl

/-- A decline makes the host source absent (R490). -/
theorem takeShardSupply_declined (hdecline : field m 36 4 = 1) : u.takeShardSupply m t =
    ((u.endRequests r.packId (some r.shard)).loadShard l r.shard (.absent 3) none).finishTransfer t r stDone := by
  simp [State.takeShardSupply, hr, hopen, hl, hdecline]

/-- A live window that is long enough is read at the length asked for (R490). -/
theorem takeShardSupply_reads (hsupply : field m 36 4 ≠ 1) (hlong : u.requestLength r ≤ (windowAt m 40).length)
    (hlive : u.windowLive (domainOf t.mb) (windowAt m 40) = true) :
    u.takeShardSupply m t = u.readWindow t m { windowAt m 40 with length := u.requestLength r } := by
  simp [State.takeShardSupply, hr, hopen, hl, hsupply, hlive, Nat.not_lt.2 hlong]

end

/-! ### TURN_LEARN and TURN_GEN -/

section
variable (hturn : u.turns.turn = none) (hhalted : u.halted = false) (hcapturing : u.capturing = false)

include hturn hhalted hcapturing

/-- A permitted turn to learning is put in place and told to the members (R392). -/
theorem takeTurnLearn_permitted {p : Package} (hp : u.packageAt (msgContext m) (field m 32 1) = some p) (hkind : p.kind = .learning)
    (hphase : u.generating = true) : u.takeTurnLearn m t =
      ((u.wake.setTurn (.accepted .learn t (msgLc m) (field m 32 1) 0 0)).tellAll kmOrder m).settleIdle := by
  simp [State.takeTurnLearn, hp, hkind, hphase, hturn, hhalted, hcapturing]

/-- A permitted turn that restores is put in place and told to the members (R395). -/
theorem takeTurnGen_restore (hphase : u.generating = false) (hkind : field m 32 1 = 2) : u.takeTurnGen m t =
    ((u.wake.setTurn (.accepted .restore t (msgLc m) (field m 33 1) 0 (field m 48 8))).tellAll kmOrder m).settleIdle := by
  simp [State.takeTurnGen, hphase, hturn, hhalted, hcapturing, hkind]

/-- A permitted FULL or ADAPTER turn whose map passes and whose kin is free is accepted (R395). -/
theorem takeTurnGen_mapped {x : Ctx} {b : List Byte} (hphase : u.generating = false) (hkind : field m 32 1 ≠ 2)
    (hctx : u.ctx (msgContext m) = some x) (hmap : u.turnMapOk (msgContext m) x m = some b) :
    let turn := Turn.accepted (if field m 32 1 = 0 then .full else .adapter) t (msgLc m) (field m 33 1) (field m 34 2) (field m 48 8)
    u.turnBusy (msgContext m) (field m 33 1) turn.kin = false → u.takeTurnGen m t = (u.acceptTurn turn m b).settleIdle := by
  intro turn hfree
  simp [State.takeTurnGen, hphase, hturn, hhalted, hcapturing, hkind, hctx, hmap, turn, hfree]

end

end

/-- Settles O17: each command as its mailbox takes it, where its checks pass. -/
theorem loadAndTurnCommandsTakeEffect : Obligations.LoadAndTurnCommandsTakeEffect := by
  refine fun s mb m => ⟨fun h => ?load, fun h => ?supply, fun h => ?learn, fun h => ?gen⟩
  case load =>
    intro u c id x mf k kind hctx hwriting hdeleting hmf hsound hdata hkind hfields hpermitted
    exact next_serve h (takeLoad_accepted hctx hwriting hdeleting hmf hsound hdata hkind hfields hpermitted)
  case supply =>
    exact fun r l hr hopen hl => ⟨fun hdecline => next_serve h (takeShardSupply_declined hr hopen hl hdecline),
      fun hsupply hlong hlive => next_serve h (takeShardSupply_reads hr hopen hl hsupply hlong hlive)⟩
  case learn =>
    exact fun p hp hkind hphase hturn hhalted hcapturing =>
      next_serve h (takeTurnLearn_permitted hturn hhalted hcapturing hp hkind hphase)
  case gen =>
    exact fun hphase hturn hhalted hcapturing => ⟨fun hkind => next_serve h (takeTurnGen_restore hturn hhalted hcapturing hphase hkind),
      fun hkind x b hctx hmap hfree => next_serve h (takeTurnGen_mapped hturn hhalted hcapturing hphase hkind hctx hmap hfree)⟩

end Sys2Proof.Proofs
end

section
/-! SUPPORT. What leaves the base versions of a context as they are: messages to the group, the Keeper's writes with the first-touch copies that they
wait for (R526), translation entries, and the binding of slots (R262). -/

namespace Sys2Proof.Proofs

open Sys2Proof.Machine Sys2Proof.Laws

theorem versions_of_ctxs {s t : State} (h : t.ctxs = s.ctxs) (d : Nat) : t.versions d .base = s.versions d .base := by
  simp only [State.versions, State.ctx, h]

theorem setCtx_versions_self (s : State) (d : Nat) (x : Ctx) : (s.setCtx d x).versions d .base = x.versions := by
  simp [State.versions]

theorem setCtx_versions_other (s : State) {c d : Nat} (x : Ctx) (h : d ≠ c) : (s.setCtx c x).versions d .base = s.versions d .base := by
  simp [State.versions, State.ctx, tget_tset_other _ _ h]

/-- The base versions of context `d` are `vs`. A lemma `HasBase.<operation>` says that the operation leaves them so. -/
def HasBase (d : Nat) (vs : List Version) (s : State) : Prop := s.versions d .base = vs

section
variable {d : Nat} {vs : List Version} {s : State}

theorem HasBase.of_ctxs {t : State} (h : HasBase d vs s) (hctxs : t.ctxs = s.ctxs) : HasBase d vs t :=
  (versions_of_ctxs hctxs d).trans h

theorem HasBase.mail {t : State} (h : HasBase d vs s) (k : mailOnly s t) : HasBase d vs t := h.of_ctxs (by rw [k])

theorem HasBase.ite {c : Prop} [Decidable c] {a b : State} (ha : HasBase d vs a) (hb : HasBase d vs b) :
    HasBase d vs (if c then a else b) := by
  split <;> assumption

theorem HasBase.any {p : Version → Bool} (h : HasBase d vs s) (hp : vs.any p = true) : (s.versions d .base).any p = true := by
  rw [h]
  exact hp

theorem HasBase.foldl {β : Type} {f : State → β → State} {l : List β} (h : HasBase d vs s)
    (hf : ∀ {t x}, HasBase d vs t → HasBase d vs (f t x)) : HasBase d vs (l.foldl f s) := by
  induction l generalizing s with
  | nil => exact h
  | cons x rest ih => exact ih (hf h)

/-- A context written back with its own versions. -/
theorem HasBase.setCtx {c : Nat} {x y : Ctx} (h : HasBase d vs s) (hx : s.ctx c = some x) (hversions : y.versions = x.versions) :
    HasBase d vs (s.setCtx c y) := by
  unfold HasBase at *
  by_cases hd : d = c
  · subst hd
    rw [setCtx_versions_self, hversions, ← h, State.versions, hx]
  · rwa [setCtx_versions_other _ _ hd]

/-! ### Messages to the group -/

theorem HasBase.pumpLink {k n : Nat} (h : HasBase d vs s) : HasBase d vs (s.pumpLink k n) := by
  induction n generalizing s with
  | zero => exact h
  | succ n ih =>
    unfold State.pumpLink
    extract_lets
    split
    · exact h
    · exact ih (h.of_ctxs rfl)

theorem HasBase.originate {links : List Nat} {b : List Byte} (h : HasBase d vs s) : HasBase d vs (s.originate links b) := by
  unfold State.originate
  split
  · exact HasBase.ite (HasBase.pumpLink (h.of_ctxs rfl)) h
  · exact h

theorem HasBase.tell {pos kind : Nat} {fields : List Byte} (h : HasBase d vs s) : HasBase d vs (s.tell pos kind fields) :=
  .ite h (.originate (h.of_ctxs rfl))

theorem HasBase.tellAll {kind : Nat} {fields : List Byte} (h : HasBase d vs s) : HasBase d vs (s.tellAll kind fields) :=
  .ite (h.foldl fun ht => ht.tell) h

/-! ### The Keeper's writes -/

theorem HasBase.changeXent {c a : Nat} {e : Xent} (h : HasBase d vs s) : HasBase d vs (s.changeXent c a e) := h.of_ctxs rfl

theorem HasBase.postOp {n : Nat} {op : OutOp} (h : HasBase d vs s) : HasBase d vs (s.postOp n op) := h.mail (mailOnly_postOp ..)

theorem HasBase.sendPart {c : Capping} {off : Nat} {b : List Byte} (h : HasBase d vs s) : HasBase d vs (s.sendPart c off b) := by
  unfold State.sendPart State.writeWindow
  refine .ite h.tell ?_
  split
  · exact h
  · exact h.postOp

theorem HasBase.copyGranule {c : Capping} {a : Nat} (h : HasBase d vs s) : HasBase d vs (s.copyGranule c a) := h.sendPart.of_ctxs rfl

theorem HasBase.touchCopy {c a n : Nat} (h : HasBase d vs s) : HasBase d vs (s.touchCopy c a n) :=
  h.foldl fun {t _} ht => by
    split
    · exact .ite (ht.copyGranule.of_ctxs rfl) ht
    · exact ht

theorem HasBase.writePieces {ps : List (Nat × Nat)} {b : List Byte} (h : HasBase d vs s) : HasBase d vs (s.writePieces ps b) := by
  induction ps generalizing s b with
  | nil => exact h
  | cons p rest ih => exact ih (.ite (h.of_ctxs rfl) h)

theorem HasBase.writeCtx {c a : Nat} {b : List Byte} (h : HasBase d vs s) : HasBase d vs (s.writeCtx c a b) := by
  unfold State.writeCtx
  split
  · next hv =>
    obtain ⟨ps, -, rfl⟩ := Option.map_eq_some_iff.1 hv
    exact h.touchCopy.writePieces
  · exact h

theorem HasBase.writeOwned {c a : Nat} {b : List Byte} (h : HasBase d vs s) : HasBase d vs (s.writeOwned c a b) := by
  unfold State.writeOwned
  split
  exacts [h.touchCopy.writePieces, h]

/-! ### KV pages and slots -/

theorem HasBase.setPool {c : Nat} {p : KvPool} (h : HasBase d vs s) : HasBase d vs (s.setPool c p) := by
  unfold State.setPool
  split
  · next hx => exact h.setCtx hx rfl
  · exact h

theorem HasBase.setEntry {c m i : Nat} {g : Option Nat} (h : HasBase d vs s) : HasBase d vs (s.setEntry c m i g) :=
  .ite h.setPool h.setPool.writeOwned

theorem HasBase.adoptPages {c m k : Nat} {gs : List Nat} (h : HasBase d vs s) : HasBase d vs (s.adoptPages c m k gs) := by
  induction gs generalizing s k with
  | nil => exact h
  | cons g rest ih => exact ih h.setEntry

theorem HasBase.setSlot {i : Nat} {e : Slot} (h : HasBase d vs s) : HasBase d vs (s.setSlot i e) := h.of_ctxs (setSlot_ctxs ..)

theorem HasBase.dropEntry {c m i : Nat} {busy : Bool} (h : HasBase d vs s) : HasBase d vs (s.dropEntry c m i busy) := by
  unfold State.dropEntry
  split
  exacts [h, h.setEntry.setPool]

theorem HasBase.releaseList {c m : Nat} {busy : Bool} (h : HasBase d vs s) : HasBase d vs (s.releaseList c m busy) := by
  unfold State.releaseList State.dropEntries
  exact (h.foldl fun ht => ht.dropEntry).setPool

theorem HasBase.setSuper {c : Nat} {e : SupEntry} (h : HasBase d vs s) : HasBase d vs (s.setSuper c e) := by
  unfold State.setSuper
  split
  · exact h
  · next hx => exact .writeCtx (.setCtx h hx rfl)

theorem HasBase.syncSuper {i : Nat} (h : HasBase d vs s) : HasBase d vs (s.syncSuper i) := by
  unfold State.syncSuper
  extract_lets
  split
  exacts [h, .ite h h.setSuper]

theorem HasBase.ringWrite {i : Nat} {rec' : Bool → List Byte} (h : HasBase d vs s) : HasBase d vs (s.ringWrite i rec') := by
  unfold State.ringWrite
  extract_lets _ _ _ _ s2
  have hs2 : HasBase d vs s2 := h.of_ctxs rfl
  refine .ite h ?_
  split
  exacts [hs2, hs2.postOp]

theorem HasBase.closeSlot {i status : Nat} (h : HasBase d vs s) : HasBase d vs (s.closeSlot i status) := by
  unfold State.closeSlot
  extract_lets e s1
  have hs1 : HasBase d vs s1 := h.setSlot.ringWrite
  refine .ite h ?_
  split
  exacts [hs1, .ite hs1 hs1.setSuper]

theorem HasBase.freeSlot {i : Nat} {origin : Bool} {fault : Word} (h : HasBase d vs s) : HasBase d vs (s.freeSlot i origin fault) := by
  unfold State.freeSlot
  extract_lets e busy s1 s2 s3
  have hs1 : HasBase d vs s1 := h.mail (mailOnly_answer ..)
  have hs2 : HasBase d vs s2 := by
    dsimp only [s2]
    split
    exacts [hs1.releaseList, hs1]
  have hs3 : HasBase d vs s3 := hs2.foldl fun ht => ht.setPool
  exact .ite h (hs3.of_ctxs rfl)

theorem HasBase.endDamagedSlot {i : Nat} (h : HasBase d vs s) : HasBase d vs (s.endDamagedSlot i) := .ite h.closeSlot.freeSlot h

theorem HasBase.bindSlot {i : Nat} (h : HasBase d vs s) : HasBase d vs (s.bindSlot i) := by
  unfold State.bindSlot
  extract_lets +onlyGivenNames _ _ _
  split
  · refine .ite h ?_
    extract_lets +onlyGivenNames _ _ _ _ _ _ _ _ _ s2 _ _ s3 _ _ s4 _
    have hs2 : HasBase d vs s2 := h.setSlot.adoptPages.foldl fun ht => ht.setPool
    have hs3 : HasBase d vs s3 := hs2.setPool.adoptPages
    have hs4 : HasBase d vs s4 := hs3.setSlot.syncSuper
    exact hs4.setPool.endDamagedSlot
  · exact h

theorem HasBase.bindWaiting {c : Nat} (h : HasBase d vs s) : HasBase d vs (s.bindWaiting c) := .ite (h.foldl fun ht => ht.bindSlot) h

end

end Sys2Proof.Proofs
end

section
/-! SUPPORT. The commands that retire, grant and revoke versions and release adapter indices (R381, R404, R409, R410): each where its checks pass. -/

namespace Sys2Proof.Proofs

open Sys2Proof.Machine Sys2Proof.Laws

section
variable {u : State} {m : List Byte} {t : Ticket}

/-! ### VERSION_RETIRE, VERSION_REVOKE and ADAPTER_RELEASE -/

/-- A RETAINED version is removed, where no step and no reader of its context holds it. That the command ends at once, and a held version is
removed at the boundary, is the model's choice (log 114). -/
theorem takeVersionRetire_retained {k : Kin} {v : Version}
    (hk : k = if field m 36 2 = 0xFFFF then .base else .adapter (field m 36 2)) (hv : u.version (msgContext m) k (field m 34 2) = some v)
    (hpackage : k = .base → v.package = field m 32 1) (hstate : v.state = .retained)
    (hreaders : k = .base → u.readers (msgContext m) k (field m 34 2) = 0) :
    let w := (u.goneSlots (msgContext m) k (field m 34 2)).tellAll kmOrder m
    u.takeVersionRetire m t =
      (if w.stepRunning (msgContext m) = true ∨ w.readers (msgContext m) k (field m 34 2) ≠ 0 then w
        else w.removeVersion (msgContext m) k (field m 34 2)).finish t stDone 0 0 := by
  unfold State.takeVersionRetire
  simp only [← hk, hv]
  rw [if_neg (by simpa using hpackage), if_neg (by simpa [hstate] using hreaders)]
  simp only [Bool.or_eq_true, bne_iff_ne]

/-- A granted version is taken from its grantee (R410). -/
theorem takeVersionRevoke_granted {v : Version} {o : Nat × Nat} (hv : u.version (field m 36 2) .base (field m 34 2) = some v)
    (howner : v.owner = some o) (hmine : o.1 = msgContext m) :
    let w := (u.goneSlots (field m 36 2) .base (field m 34 2)).tellAll kmOrder m
    u.takeVersionRevoke m t = (if w.stepRunning (field m 36 2) = true then w.putVersion (field m 36 2) .base { v with state := .retained }
      else w.removeVersion (field m 36 2) .base (field m 34 2)).finish t stDone 0 0 := by
  simp [State.takeVersionRevoke, hv, howner, hmine]

section
variable {x : Adapter} (hx : tget u.adapters (field m 32 2) = some x) (hctx : x.ctx = msgContext m)
  (hfree : u.adapterNamed (msgContext m) (field m 32 2) = false)

include hx hctx hfree

/-- While a step of the context runs, the release waits for its boundary: the model's choice (log 159). -/
theorem takeAdapterRelease_waits (hrunning : u.stepRunning (msgContext m) = true) : u.takeAdapterRelease m t = u.awaitBoundary t m := by
  simp [State.takeAdapterRelease, hx, hctx, hfree, hrunning]

/-- Otherwise the index and its versions go at once (R404). -/
theorem takeAdapterRelease_frees (hidle : u.stepRunning (msgContext m) = false) :
    let w := x.versions.foldl (fun t v => t.removeVersion (msgContext m) (.adapter (field m 32 2)) v.tag) u
    u.takeAdapterRelease m t =
      (State.tellAll { w with adapters := terase w.adapters (field m 32 2) } kmOrder m).finish t stDone 0 0 := by
  simp [State.takeAdapterRelease, hx, hctx, hfree, hidle]

end

/-! ### VERSION_GRANT (R409) -/

theorem setCtx_isSome {s : State} {d : Nat} (c : Nat) (x : Ctx) (h : (s.ctx d).isSome = true) : ((s.setCtx c x).ctx d).isSome = true := by
  by_cases hd : d = c
  · subst hd
    simp
  · rwa [State.ctx, setCtx_ctxs, tget_tset_other _ _ hd]

theorem setVersions_isSome {s : State} {d : Nat} (c : Nat) (vs : List Version) (h : (s.ctx d).isSome = true) :
    ((s.setVersions c .base vs).ctx d).isSome = true := by
  unfold State.setVersions
  dsimp only
  split
  · exact setCtx_isSome _ _ h
  · exact h

theorem giveTag_isSome {s : State} {d : Nat} (c : Nat) (h : (s.ctx d).isSome = true) : ((s.giveTag c .base).2.ctx d).isSome = true := by
  unfold State.giveTag
  dsimp only
  split
  · exact setCtx_isSome _ _ h
  · exact h

theorem setVersions_versions {s : State} {d : Nat} (vs : List Version) (h : (s.ctx d).isSome = true) :
    (s.setVersions d .base vs).versions d .base = vs := by
  obtain ⟨x, hx⟩ := Option.isSome_iff_exists.1 h
  simp only [State.setVersions, hx]
  exact setCtx_versions_self ..

theorem markReadonly_ctxs (s : State) (c : Nat) (v : Version) (ro : Bool) : (s.markReadonly c v ro).ctxs = s.ctxs := by
  refine List.foldlRecOn (motive := fun t : State => t.ctxs = s.ctxs) (placeGranules v.shards) _ rfl fun t ht a _ => ?_
  dsimp only
  split <;> exact ht

section
variable {x y : Ctx} {v : Version} {l : Loaded} {k : Nat} (hx : u.ctx (msgContext m) = some x) (hy : u.ctx (field m 36 2) = some y)
  (hv : u.version (msgContext m) .base (field m 34 2) = some v) (hl : tget x.packages (field m 32 1) = some l)
  (hk : y.packageSlot l.package.packageId = some k) (hcurrent : v.state = .current) (hpackage : v.package = field m 32 1)
  (hshared : v.askedShared = true) (hplaced : v.shelved = false) (hother : field m 36 2 ≠ msgContext m)
  (hnone : u.currentOf (field m 36 2) .base k = none) (hroom : y.versions.length < 16)

include hx hy hv hl hk hcurrent hpackage hshared hplaced hother hnone hroom

/-- While a step of the owner or of the grantee runs, the grant waits for the boundary: the model's choice (log 159). -/
theorem takeVersionGrant_waits (hrunning : u.stepRunning (msgContext m) = true ∨ u.stepRunning (field m 36 2) = true) :
    u.takeVersionGrant m t = u.awaitBoundary t m := by
  simp [State.takeVersionGrant, hx, hy, hv, hl, hk, hcurrent, hpackage, hshared, hplaced, hother, hnone, Nat.not_le.2 hroom, hrunning]

/-- Otherwise the grantee gets a version that names its owner, and what follows leaves it there. -/
theorem takeVersionGrant_gives (hidle : u.stepRunning (msgContext m) = false) (hidle' : u.stepRunning (field m 36 2) = false) :
    ∃ w : State, u.takeVersionGrant m t = w.finish t stDone (u.giveTag (field m 36 2) .base).1 0 ∧
      ((w.versions (field m 36 2) .base).any fun w => w.owner == some (msgContext m, v.tag)) = true := by
  simp only [State.takeVersionGrant, hx, hy, hv, hl, hk, Option.bind_some]
  rw [if_neg (by simp [hcurrent, hpackage, hshared, hplaced, hother, hnone]), if_neg (Nat.not_le.2 hroom), if_neg (by simp [hidle, hidle'])]
  refine ⟨_, rfl, HasBase.any (.bindWaiting (.tellAll (.foldl (setVersions_versions _ ?_) fun ht => ht.changeXent))) (by simp)⟩
  rw [State.ctx, markReadonly_ctxs]
  exact setVersions_isSome _ _ (giveTag_isSome _ (by rw [hy]; rfl))

end

end

/-- Settles O18: each command as its mailbox takes it, where its checks pass. -/
theorem versionCommandsTakeEffect : Obligations.VersionCommandsTakeEffect := by
  refine fun s mb m => ⟨fun h => ?retire, fun h => ?grant, fun h => ?revoke, fun h => ?release⟩
  case retire => exact fun v hv hpackage hstate hreaders => next_serve h (takeVersionRetire_retained rfl hv hpackage hstate hreaders)
  case grant =>
    intro u c d x y v l k hx hy hv hl hk hcurrent hpackage hshared hplaced hother hnone hroom
    refine ⟨fun hrunning => next_serve h
      (takeVersionGrant_waits hx hy hv hl hk hcurrent hpackage hshared hplaced hother hnone hroom hrunning), fun hidle hidle' => ?_⟩
    obtain ⟨w, hw, howner⟩ :=
      takeVersionGrant_gives hx hy hv hl hk hcurrent hpackage hshared hplaced hother hnone hroom hidle hidle'
    exact ⟨w, next_serve h hw, howner⟩
  case revoke => exact fun v o hv howner hmine => next_serve h (takeVersionRevoke_granted hv howner hmine)
  case release =>
    exact fun x hx hctx hfree => ⟨fun hrunning => next_serve h (takeAdapterRelease_waits hx hctx hfree hrunning),
      fun hidle => next_serve h (takeAdapterRelease_frees hx hctx hfree hidle)⟩

end Sys2Proof.Proofs
end

section
/-! SUPPORT. How turns and loads end: members' readiness, shards' events, host requests that expire, and the ends of loads (R392, R400, R412,
R415, R490). -/

namespace Sys2Proof.Proofs

open Sys2Proof.Machine Sys2Proof.Laws

/-! ### Turns -/

section
variable {s : State} {t : Turn} (ht : s.turns.turn = some t)

include ht

theorem turnShardsPresent_waits (hmissing : ∃ p ∈ t.shards, p.status ≠ some stDone) : exec .turnShardsPresent s = .next s := by
  have hsome : (t.shards.all fun p => p.status == some stDone) = false := by simpa using hmissing
  simp [exec, execTurnShardsPresent, ht, hsome]

variable (hbegun : t.begun = true)

include hbegun

/-- The queen notes a position of the group that is ready, and ends the turn with the last (R392). That her own readiness is an event too is
the model's choice (log 94). -/
theorem turnMemberReady_noted {pos : Nat} (hq : s.isQueen = true) (hkind : t.kind = .learn) (hpos : pos < s.groupSize) :
    let w := { t with ready := ninsert t.ready pos }
    exec (.turnMemberReady pos) s = .next (if w.ready.length < s.groupSize then s.setTurn w else s.doneLearn w) := by
  simp [exec, execTurnMemberReady, ht, hkind, hbegun, hq, Nat.not_le.2 hpos]

/-- The queen switches the group once every shard of a turn to generation is there. -/
theorem turnShardsPresent_switches (hq : s.isQueen = true) (hkind : t.kind ≠ .learn) (hall : ∀ p ∈ t.shards, p.status = some stDone) :
    exec .turnShardsPresent s = .next (s.switchTurn t) := by
  have hdone : (t.shards.all fun p => p.status == some stDone) = true := by simpa using hall
  simp [exec, execTurnShardsPresent, ht, hbegun, hq, hkind, hdone, -List.all_eq_true]

/-- A shard event that names no pack is one of a shard of the turn to generation. -/
theorem shardEnd_ofTurn (hkind : t.kind ≠ .learn) (shard : Nat) (d : Delivery) (reads : List FlashRead) :
    exec (.shardEnd 0 shard ⟨d, reads⟩) s = .next (s.turnShard t shard d) := by
  simp [exec, execShardEnd, ht, hbegun, hkind]

end

/-! ### Loads -/

section
variable {s : State} {id : Nat} {l : Loading} (hid : id ≠ 0) (hl : s.openLoad id = some l)

include hid hl

/-- A shard of a load takes a delivery from one of a load's sources, but host bytes found corrupt do more. -/
theorem shardEnd_ofLoad {d : Delivery} (shard : Nat) (reads : List FlashRead) (hsource : ∀ c, deliverySource d = some c → c < 4)
    (hnothost : d ≠ .corrupt 3) : exec (.shardEnd id shard ⟨d, reads⟩) s = .next (s.readShard l shard d reads) := by
  have hload : ((deliverySource d).any fun c => decide (4 ≤ c)) = false := by
    cases hd : deliverySource d with
    | none => rfl
    | some c => simpa using hsource c hd
  simp only [exec, execShardEnd, hid, hload, hl, decide_false, Bool.or_self, Bool.false_eq_true, if_false]

/-- Host bytes found corrupt end their SHARD_SUPPLY too (R490). -/
theorem shardEnd_hostCorrupt (shard : Nat) (reads : List FlashRead) : exec (.shardEnd id shard ⟨.corrupt 3, reads⟩) s =
    .next ((s.readShard l shard (.corrupt 3) reads).supplyCorrupt id shard) := by
  simp [exec, execShardEnd, hid, hl, deliverySource]

end

section
variable {s : State} {n : Nat} {r : ShardRequest} (hr : s.turns.requests.find? (fun r => r.request == n && !r.ended) = some r)

include hr

/-- A request whose wait has run out makes the host source absent (R412). -/
theorem hostWaitExpiry_absent {l : Loading} (hdue : r.asked + s.turns.hostWait.toNat ≤ s.now) (hl : s.openLoad r.packId = some l) :
    exec (.hostWaitExpiry n) s = .next ((s.endRequests r.packId (some r.shard)).loadShard l r.shard (.absent 3) none) := by
  simp only [exec, execHostWaitExpiry, hr, if_pos hdue, hl]

theorem hostWaitExpiry_waits (hearly : s.now < r.asked + s.turns.hostWait.toNat) : exec (.hostWaitExpiry n) s = .next s := by
  simp only [exec, execHostWaitExpiry, hr, if_neg (Nat.not_le.2 hearly)]

end

section
variable {s : State} {id : Nat} {l : Loading} (hq : s.isQueen = true) (hrestore : l.restore = false)
  (hl : s.turns.loads.find? (fun l => l.packId == id && !l.waitsSwitch && l.shards.all fun p => p.status.isSome) = some l)

include hq hrestore hl

/-- A load with a failed shard fails with the first one's status (R415). -/
theorem loadEnd_fails {st : Nat} (hfailed : firstFailed l.shards = some st) : exec (.loadEnd id) s = .next (s.failLoad l st) := by
  simp [exec, execLoadEnd, hl, hrestore, hq, hfailed, -List.all_eq_true]

/-- A load whose every shard is there is done, and its members are told (R415). -/
theorem loadEnd_done (hall : firstFailed l.shards = none) : exec (.loadEnd id) s =
    .next (((s.doneLoad l).tellEnd l.ticket stDone).finish l.ticket stDone l.results.1 l.results.2) := by
  simp only [exec, execLoadEnd, hl, hrestore, hq, hall, Bool.not_true, Bool.false_eq_true, if_false]

end

/-- Settles O51: turns and loads event by event. -/
theorem turnsAndLoadsEnd : Obligations.TurnsAndLoadsEnd := by
  refine ⟨fun s t ht hbegun hq => ⟨fun hkind pos => turnMemberReady_noted ht hbegun hq hkind,
      turnShardsPresent_switches ht hbegun hq, fun _ => turnShardsPresent_waits ht, shardEnd_ofTurn ht hbegun⟩,
    fun s id shard l hid hl reads => ⟨fun d => shardEnd_ofLoad hid hl shard reads, shardEnd_hostCorrupt hid hl shard reads⟩,
    fun s n r hr => ⟨fun hdue l => hostWaitExpiry_absent hr hdue, hostWaitExpiry_waits hr⟩,
    fun s id l hq hrestore hl => ⟨fun st => loadEnd_fails hq hrestore hl, loadEnd_done hq hrestore hl⟩⟩

end Sys2Proof.Proofs
end

section
/-! SUPPORT. The group commands: formation, queen move and dissolve (R428 to R430, R432), each where its checks pass. -/

namespace Sys2Proof.Proofs

open Sys2Proof.Machine Sys2Proof.Laws

section
variable {u : State} {m : List Byte} {t : Ticket}

/-- A module of no group and no contexts begins to form the group. That its links are enabled is the model's choice (log 109). -/
theorem takeGroupForm_begins (hstate : u.cascade.state = .none) (hctxs : u.ctxs = []) (hok : u.formOk m = true) :
    u.takeGroupForm m t = (State.groupEvent { u with cascade := { u.cascade with
      enable := true, state := .forming, group := groupWord m, epoch := field32 m 36, formTicket := some t
      formTick := u.now, readyFrom := [] } } 0xFF).settleReady := by
  simp [State.takeGroupForm, hstate, hctxs, hok]

/-- A formed and quiet group takes a later epoch with its queen and her successor. -/
theorem takeQueenMove_moves (hstate : u.cascade.state = .active ∨ u.cascade.state = .fenced)
    (hepoch : u.cascade.epoch.toNat < field m 32 4) (hqueen : field m 36 1 < u.groupSize) (hnext : field m 37 1 < u.groupSize)
    (hdistinct : field m 36 1 = field m 37 1 → u.groupSize ≤ 1) (hquiet : u.groupBusy = false) :
    u.takeQueenMove m t = (State.groupEvent { u with cascade := { u.cascade with
      epoch := field32 m 32
      group := BitVec.ofNat 64 (setBits (setBits u.cascade.group.toNat 43 38 (field m 36 1)) 49 44 (field m 37 1))
      formTick := u.now, beats := [] } } 0xFF).finish t stDone 0 0 := by
  have hformed : ¬(u.cascade.state = .none ∨ u.cascade.state = .forming) := by
    rcases hstate with h | h <;> simp [h]
  have hfields : ¬(field m 32 4 ≤ u.cascade.epoch.toNat ∨ u.groupSize ≤ field m 36 1 ∨ u.groupSize ≤ field m 37 1 ∨
      (1 < u.groupSize ∧ field m 36 1 = field m 37 1)) := by omega
  simp only [State.takeQueenMove, hformed, hfields, hquiet, if_false, Bool.false_eq_true]

/-- A quiet ACTIVE group is left. -/
theorem takeGroupDissolve_quiet (hstate : u.cascade.state = .active) (hquiet : u.groupBusy = false) :
    u.takeGroupDissolve m t = ((u.leaveGroup.groupEvent 0xFF).finish t stDone 0 0).settleIdle.settleReleases := by
  simp [State.takeGroupDissolve, hstate, hquiet]

end

/-- Settles O16: each command as its mailbox takes it, where its checks pass. -/
theorem groupCommandsTakeEffect : Obligations.GroupCommandsTakeEffect := by
  refine fun s mb m => ⟨fun h => ?form, fun h => ?move, fun h => ?dissolve⟩
  case form => exact fun hstate hctxs hok => next_serve h (takeGroupForm_begins hstate hctxs hok)
  case move =>
    exact fun hstate hepoch hqueen hnext hdistinct hquiet =>
      next_serve h (takeQueenMove_moves hstate hepoch hqueen hnext hdistinct hquiet)
  case dissolve => exact fun hstate hquiet => next_serve h (takeGroupDissolve_quiet hstate hquiet)

end Sys2Proof.Proofs
end

section
/-! SUPPORT. Packets on the device links (R422, R434 to R436): what a packet's checks make of it, and LACK. -/

namespace Sys2Proof.Proofs

open Sys2Proof.Machine Sys2Proof.Laws

section
variable {s : State} {k : Nat} {b : List Byte}

/-! ### A packet's checks -/

theorem acknowledged_cascade (s : State) (k : Nat) (b : List Byte) (ty : Nat) :
    (s.acknowledged k b ty).cascade = { s.cascade with
      links := tset s.cascade.links k { s.link k with expectSeq := ((s.link k).expectSeq + 1) % 65536 } } := rfl

/-- A whole packet in order, of its command's type, is acknowledged and then goes by its position and its epoch; a HELLO is handled at
once. -/
theorem receive_inOrder {ty : Nat} (h : State → State) (hup : (s.link k).up = true) (hmatched : ty = 6 ∨ (s.link k).matched = true)
    (hwhole : pkWhole b = true) (hseq : pkSeq b = (s.link k).expectSeq) (htype : pkType b = ty) :
    let v := s.acknowledged k b ty
    s.receive k b ty h = if ty = 6 then h v else if s.cascade.state = .none then v.answerStale b
      else if pkDst b != s.position then v.forward k b
      else if decide (ty ≤ 3) && pkEpoch b != s.cascade.epoch.toNat then v.answerStale b else h v := by
  have hcarries : (!(s.link k).up || (ty != 6 && !(s.link k).matched)) = false := by
    rcases hmatched with rfl | hm
    · simp [hup]
    · simp [hup, hm]
  have hkept : (!pkWhole b || pkSeq b != (s.link k).expectSeq) = false := by simp [hwhole, hseq]
  have hty : (pkType b != ty) = false := by simp [htype]
  simp only [State.receive, hcarries, hkept, hty, Bool.false_eq_true, if_false]
  rfl

/-- A packet for this module under the group's epoch is acknowledged and has its effect. -/
theorem receive_takes {ty : Nat} (hp : s.takesPacket k b ty) (h : State → State) : s.receive k b ty h = h (s.acknowledged k b ty) := by
  obtain ⟨hup, hmatched, hwhole, hseq, htype, hgroup, hdst, hepoch⟩ := hp
  have hcurrent : (decide (ty ≤ 3) && pkEpoch b != s.cascade.epoch.toNat) = false := by
    simpa [imp_iff_or_not, or_comm] using hepoch
  simp [receive_inOrder h hup (.inr hmatched) hwhole hseq htype, hgroup, hdst, hcurrent]

/-- A HELLO is taken whatever its epoch and before its link carries other packets (R434). -/
theorem receive_hello (h : State → State) (hup : (s.link k).up = true) (hwhole : pkWhole b = true)
    (hseq : pkSeq b = (s.link k).expectSeq) (htype : pkType b = 6) : s.receive k b 6 h = h (s.acknowledged k b 6) :=
  receive_inOrder h hup (.inl rfl) hwhole hseq htype

/-- A packet that is not whole, or not the next in order, is answered with a NAK (R422). -/
theorem receive_nak {ty : Nat} (h : State → State) (hup : (s.link k).up = true) (hmatched : (s.link k).matched = true)
    (hbad : pkWhole b = false ∨ pkSeq b ≠ (s.link k).expectSeq) : s.receive k b ty h = s.sendLack k none true := by
  have hnak : (!pkWhole b || pkSeq b != (s.link k).expectSeq) = true := by simpa using hbad
  simp [State.receive, hup, hmatched, -Bool.or_eq_true, hnak]

/-- A packet of the running stamp is delivered. -/
theorem byStamp_current {deliver : State → State} (ty : Nat) (hstamp : pkStamp b = s.cascade.current.toNat) :
    (s.acknowledged k b ty).byStamp k b deliver = deliver (s.acknowledged k b ty) := by
  rw [State.byStamp, acknowledged_cascade, if_pos hstamp]

/-! ### The commands that receive a packet -/

/-- The commands of packets that carry data or act under the group. -/
def packetCommands (k : Nat) (b : List Byte) (kind : ControlKind) : List Instr :=
  [.data k b, .signal k b, .control k b kind, .done k b, .stale k b]

/-- Each of them receives its packet. -/
theorem packetCommand_receives {kind : ControlKind} {c : Instr} (hc : c ∈ packetCommands k b kind) (s : State) :
    ∃ ty h, exec c s = .next (s.receive k b ty h) := by
  simp only [packetCommands, List.mem_cons, List.not_mem_nil, or_false] at hc
  rcases hc with rfl | rfl | rfl | rfl | rfl <;> exact ⟨_, _, rfl⟩

theorem packetCommand_nak {kind : ControlKind} {c : Instr} (hc : c ∈ packetCommands k b kind) (hup : (s.link k).up = true)
    (hmatched : (s.link k).matched = true) (hbad : pkWhole b = false ∨ pkSeq b ≠ (s.link k).expectSeq) :
    exec c s = .next (s.sendLack k none true) := by
  obtain ⟨ty, h, hexec⟩ := packetCommand_receives hc s
  rw [hexec, receive_nak h hup hmatched hbad]

theorem packetCommand_linkDown {kind : ControlKind} {c : Instr} (hc : c ∈ packetCommands k b kind) (hdown : (s.link k).up = false) :
    exec c s = .next s := by
  obtain ⟨ty, h, hexec⟩ := packetCommand_receives hc s
  rw [hexec, receive_ignored s k b ty h hdown]

/-! ### LACK -/

/-- The link once a LACK without NAK has come: what it acknowledges is freed and its credit added. -/
def lackedLink (l : Link) (b : List Byte) : Link :=
  let left := l.unacked.filter fun x => !seqDone (pkTag b) x
  { l with
    unacked := left
    credits := addCredits l.credits (pkAddr b)
    replays := if left.length < l.unacked.length then 0 else l.replays }

/-- A LACK without NAK frees what it acknowledges, and the link sends what its credits allow (R421, R422). -/
theorem lack_acknowledges (hup : (s.link k).up = true) (hwhole : pkWhole b = true) (htype : pkType b = 7)
    (hnak : bitAt (pkAddr b) 48 = false) :
    exec (.lack k b) s = .next ((s.setLink k (lackedLink (s.link k) b)).pumpLink k (lackedLink (s.link k) b).waiting.length) := by
  simp [exec, execLack, lackedLink, hup, hwhole, htype, hnak, b2n]

end

/-- Settles O52: packets in order by `receive_takes`, the others by `packetCommand_nak` and `packetCommand_linkDown`. -/
theorem linkPacketsHaveTheirEffect : Obligations.LinkPacketsHaveTheirEffect := by
  refine ⟨fun s k b => ⟨fun hp hstamp => ?data, fun hp hstamp => ?signal, fun hp => ?byStamp, fun kind hp => ?control, fun hp => ?done,
    fun hp => ?stale, fun hup hwhole hseq htype => ?hello, fun kind c hc => ⟨packetCommand_nak hc, packetCommand_linkDown hc⟩⟩,
    fun s k b hup hwhole htype hnak => ⟨_, lack_acknowledges hup hwhole htype hnak, rfl, rfl, rfl, hup⟩⟩
  case data => exact congrArg Host.Outcome.next ((receive_takes hp _).trans (byStamp_current 1 hstamp))
  case signal => exact congrArg Host.Outcome.next ((receive_takes hp _).trans (byStamp_current 2 hstamp))
  case hello => exact congrArg Host.Outcome.next (receive_hello _ hup hwhole hseq htype)
  all_goals exact congrArg Host.Outcome.next (receive_takes hp _)

end Sys2Proof.Proofs
end

section
/-! SUPPORT. How the group forms, beats and loses modules (R430, R434, R446, R447). -/

namespace Sys2Proof.Proofs

open Sys2Proof.Machine Sys2Proof.Laws

/-! ### What sending and posting leave of a link and of the group -/

theorem setLink_linkUp (s : State) (k : Nat) (l : Link) : (s.setLink k l).linkUp k = l.up := by
  rw [State.linkUp, setLink_link_self]

/-- Sending from a link's transmit queue leaves the link up or down. -/
theorem pumpLink_linkUp (s : State) (k n : Nat) : (s.pumpLink k n).linkUp k = s.linkUp k := by
  induction n generalizing s with
  | zero => rfl
  | succ n ih =>
    unfold State.pumpLink
    extract_lets l
    split
    · rfl
    · refine (ih _).trans ?_
      simp [State.linkUp, State.link, Link.spend, l]

theorem sendOn_linkUp {s : State} {k : Nat} (b : List Byte) (hup : s.linkUp k = true) : (s.sendOn k b).linkUp k = true := by
  have hlink : (s.link k).up = true := hup
  simp only [State.sendOn, hlink, if_true, pumpLink_linkUp, setLink_linkUp]

theorem mailOnly_cascade {s t : State} (h : mailOnly s t) : t.cascade = s.cascade := by rw [h]

theorem mailOnly_groupEvent (s : State) (lost : Nat) : mailOnly s (s.groupEvent lost) := mailOnly_eventAdmin ..

section
variable {s : State}

/-! ### Formation (R430, R434) -/

/-- A used link that trains comes up and says HELLO. -/
theorem deviceLinkTrained_comesUp {k : Nat} (henable : s.cascade.enable = true) (hused : s.linkUsed k = true)
    (hdown : s.linkUp k = false) (hpower : s.keeper.powerState ≠ 2) (hgroup : s.cascade.state = .forming ∨ s.cascade.state = .active) :
    exec (.deviceLinkTrained k) s =
      .next ((s.setLink k { (s.link k).drop with up := true }).sendOn k (s.helloPacket k)) := by
  have hmember : (s.cascade.state == .forming || s.cascade.state == .active) = true := by simpa using hgroup
  simp [exec, execDeviceLinkTrained, henable, hused, hdown, hpower, -Bool.or_eq_true, hmember]

/-- The queen notes a member of the group's epoch that is READY. -/
theorem ready_noted {pos : Nat} (hstate : s.cascade.state = .forming) (hq : s.isQueen = true) (hpos : pos ∈ s.others) :
    exec (.ready pos s.cascade.epoch.toNat) s =
      .next (State.settleForming { s with cascade := { s.cascade with readyFrom := ninsert s.cascade.readyFrom pos } }) := by
  simp [exec, execReady, hstate, hq, hpos]

theorem settleForming_queen (hstate : s.cascade.state = .forming) (hq : s.isQueen = true) :
    s.settleForming = if s.groupSize ≤ s.cascade.readyFrom.length then (s.tellAll kmActive []).activate else s := by
  simp [State.settleForming, hstate, hq]

theorem active_member (hstate : s.cascade.state = .forming) (hq : s.isQueen = false) :
    exec (.active s.cascade.epoch.toNat) s = .next s.activate := by
  simp [exec, execActive, hstate, hq]

/-- A module without a GROUP_FORM to end becomes ACTIVE and posts it; memory stays. -/
theorem activate_untold (hticket : s.cascade.formTicket = none) : s.activate.cascade.state = .active ∧ s.activate.mem = s.mem := by
  simp only [State.activate, hticket]
  have hmail := mailOnly_groupEvent { s with cascade := { s.cascade with
    state := .active, formTick := s.now, beats := [], formTicket := none } } 0xFF
  exact ⟨congrArg Cascade.state (mailOnly_cascade hmail), (mailOnly_memory hmail).trans rfl⟩

section
variable {epoch : Nat} (hepoch : epoch ≠ s.cascade.epoch.toNat)

include hepoch

theorem active_otherEpoch : exec (.active epoch) s = .next s := by
  simp [exec, execActive, hepoch]

theorem ready_otherEpoch (pos : Nat) : exec (.ready pos epoch) s = .next s := by
  simp [exec, execReady, hepoch]

end

/-! ### The wait for formation (R430) -/

section
variable (hstate : s.cascade.state = .forming) (hdue : s.cascade.formTick + s.cascade.formWait.toNat ≤ s.now)

include hstate hdue

/-- A formation not ACTIVE in time leaves the group, and its GROUP_FORM ends LINK_DOWN. -/
theorem formWaitExpiry_endsCommand {t : Ticket} (ht : s.cascade.formTicket = some t) :
    exec .formWaitExpiry s = .next ((s.leaveGroup.finish t stLinkDown 0 0).groupEvent 0xFF) := by
  simp [exec, execFormWaitExpiry, hstate, hdue, ht]

theorem formWaitExpiry_leaves (hnone : s.cascade.formTicket = none) :
    exec .formWaitExpiry s = .next (s.leaveGroup.groupEvent 0xFF) := by
  simp [exec, execFormWaitExpiry, hstate, hdue, hnone]

end

theorem formWaitExpiry_early (hearly : s.now < s.cascade.formTick + s.cascade.formWait.toNat) : exec .formWaitExpiry s = .next s := by
  simp [exec, execFormWaitExpiry, hearly]

/-! ### Heartbeats and links that go down (R446, R447) -/

section
variable {pos : Nat} (hgroup : s.cascade.state = .active ∨ s.cascade.state = .fenced) (hpartner : s.beatsWith pos = true)

include hgroup hpartner

theorem heartbeat_noted :
    exec (.heartbeat pos) s = .next { s with cascade := { s.cascade with beats := tset s.cascade.beats pos s.now } } := by
  have hformed : (s.cascade.state == .active || s.cascade.state == .fenced) = true := by simpa using hgroup
  simp [exec, execHeartbeat, -Bool.or_eq_true, hformed, hpartner]

/-- A partner is lost once as many of its heartbeats are missed as the limit, and not before. -/
theorem heartbeatLoss_byMisses : exec (.heartbeatLoss pos) s =
    .next (if bits s.cascade.hbCfg.toNat 23 16 ≤ s.missedBeats pos then s.takeLost pos else s) := by
  have hformed : (s.cascade.state == .active || s.cascade.state == .fenced) = true := by simpa using hgroup
  simp [exec, execHeartbeatLoss, -Bool.or_eq_true, hformed, hpartner]

end

theorem heartbeatSend_active (hstate : s.cascade.state = .active) (hmode : s.keeper.mode = .running) : exec .heartbeatSend s =
    .next (if s.isQueen = true then s.tellAll kmHeartbeat [] else s.tell s.queenPos kmHeartbeat []) := by
  simp [exec, execHeartbeatSend, hstate, hmode]

theorem fenceLink_ofDown {k : Nat} (cause : Nat) (hdown : (s.link k).up = false) : s.fenceLink k cause = s := by
  simp [State.fenceLink, hdown]

end

/-- Settles O53, event by event. -/
theorem theGroupForms : Obligations.TheGroupForms := by
  refine fun s => ⟨fun k henable hused hdown hpower hgroup => ?trained, fun pos => ready_noted, settleForming_queen, active_member,
    activate_untold, fun epoch hepoch => ⟨active_otherEpoch hepoch, ready_otherEpoch hepoch⟩, fun hstate hdue =>
    ⟨fun t => formWaitExpiry_endsCommand hstate hdue, formWaitExpiry_leaves hstate hdue⟩, formWaitExpiry_early,
    fun pos hgroup hpartner => ?beats, heartbeatSend_active, fun k cause => ?down⟩
  case trained =>
    refine ⟨_, deviceLinkTrained_comesUp henable hused hdown hpower hgroup, rfl, sendOn_linkUp _ ?_⟩
    exact setLink_linkUp ..
  case beats =>
    have hmisses := heartbeatLoss_byMisses hgroup hpartner
    exact ⟨heartbeat_noted hgroup hpartner, fun hlost => by rw [hmisses, if_pos hlost],
      fun hfew => by rw [hmisses, if_neg (Nat.not_le.2 hfew)]⟩
  case down => exact ⟨rfl, fun hdown => congrArg Host.Outcome.next (fenceLink_ofDown _ hdown)⟩

end Sys2Proof.Proofs
end

section
/-! SUPPORT. The numbers handed out (R453, R485), the common checks of Table 12.7, and the mailbox commands that set up the port, bind mailboxes,
register windows and load packages (R453, R456, R478, R484, R485, R487, R491). -/

namespace Sys2Proof.Proofs

open Sys2Proof.Machine Sys2Proof.Laws

/-! ### Numbers handed out -/

/-- The search passes over used numbers alone, and stops at an unused one or when its fuel is spent. -/
theorem skipUsed_passes {n k : Nat} (used : List Nat) (hk : k < n) (fuel : Nat) :
    ∃ j ≤ fuel, skipUsed n used k fuel = (k + j) % n ∧ (∀ i < j, (k + i) % n ∈ used) ∧ (j < fuel → (k + j) % n ∉ used) := by
  induction fuel generalizing k with
  | zero => exact ⟨0, le_rfl, (Nat.mod_eq_of_lt hk).symm, by simp, by simp⟩
  | succ fuel ih =>
    by_cases hused : k ∈ used
    · obtain ⟨j, hj, hstop, hpassed, hfree⟩ := ih (Nat.mod_lt (k + 1) (by omega))
      have hshift : ∀ i, ((k + 1) % n + i) % n = (k + (i + 1)) % n := fun i => by
        rw [Nat.mod_add_mod, Nat.add_assoc, Nat.add_comm 1 i]
      simp only [hshift] at hstop hpassed hfree
      refine ⟨j + 1, by omega, by simp [skipUsed, hused, hstop], fun i hi => ?_, fun h => hfree (by omega)⟩
      cases i with
      | zero => simpa [Nat.mod_eq_of_lt hk] using hused
      | succ i => exact hpassed i (by omega)
    · exact ⟨0, by omega, by simp [skipUsed, hused, Nat.mod_eq_of_lt hk], by simp, by simp [Nat.mod_eq_of_lt hk, hused]⟩

/-- Numbers from `k` on, modulo a space at least as large as their count, are distinct. -/
theorem add_mod_injOn (n k m : Nat) (hm : m ≤ n) : Set.InjOn (fun i => (k + i) % n) (Finset.range m) := by
  intro i hi j hj hij
  simp only [Finset.coe_range, Set.mem_Iio] at hi hj
  have hmod : i ≡ j [MOD n] := Nat.ModEq.add_left_cancel' k hij
  exact hmod.eq_of_lt_of_lt (by omega) (by omega)

/-- As many steps as numbers are used do not leave an unused one behind: one more would be used than there are. -/
theorem skipUsed_unused {n k : Nat} {used : List Nat} (hk : k < n) (hspace : used.length < n) :
    skipUsed n used k used.length ∉ used := by
  obtain ⟨j, hj, hstop, hpassed, hfree⟩ := skipUsed_passes used hk used.length
  rw [hstop]
  rcases hj.lt_or_eq with hlt | rfl
  · exact hfree hlt
  · intro hmem
    have hall : ∀ i ∈ Finset.range (used.length + 1), (k + i) % n ∈ used.toFinset := fun i hi => by
      rcases (Nat.lt_succ_iff.1 (Finset.mem_range.1 hi)).lt_or_eq with hlt | rfl
      · exact List.mem_toFinset.2 (hpassed i hlt)
      · exact List.mem_toFinset.2 hmem
    have hcard := Finset.card_le_card_of_injOn _ hall (add_mod_injOn n k _ hspace)
    rw [Finset.card_range] at hcard
    exact absurd (hcard.trans (List.toFinset_card_le used)) (by omega)

theorem skipUsed_lt {n k : Nat} (used : List Nat) (hk : k < n) (fuel : Nat) : skipUsed n used k fuel < n := by
  obtain ⟨j, -, hstop, -⟩ := skipUsed_passes used hk fuel
  exact hstop ▸ Nat.mod_lt _ (by omega)

/-- Settles O8: the search ends below `n`, and as many steps as numbers are used reach an unused one. -/
theorem numbersHandedOutAreUnused : Obligations.NumbersHandedOutAreUnused := by
  intro s n used hspace
  have hstart : Config.freeValue s.free % n < n := Nat.mod_lt _ (by omega)
  exact ⟨skipUsed_lt used hstart _, skipUsed_unused hstart hspace⟩

/-! ### The common checks (Table 12.7) -/

/-- Every mailbox command but FW_LOAD is served under its own code. -/
theorem mailboxCommand_serves {e : (Nat → Instr) × Nat} (he : e ∈ mailboxCommands) (mb : Nat) :
    e = (.fwLoad, 0x0060) ∨ ∃ k, ∀ s : State, exec (e.1 mb) s = .next (s.serve mb e.2 k) := by
  simp only [mailboxCommands, List.cons_append, List.nil_append] at he
  fin_cases he
  any_goals exact .inl rfl
  all_goals exact .inr ⟨_, fun _ => rfl⟩

section
variable {s : State} {mb code : Nat} {m : List Byte} {r : CommandRow}

/-- A command that fails a common check is consumed and ended with that check's status. -/
theorem serve_rejected {status : Nat} (k : State → List Byte → Ticket → State) (hhead : s.headCommand mb code = some (m, r))
    (hcheck : s.commonCheck mb m r = some status) : s.serve mb code k = ((s.consume mb m).reject mb m status).settle mb := by
  simp only [State.serve, hhead, hcheck]

theorem serve_absent (k : State → List Byte → Ticket → State) (hhead : s.headCommand mb code = none) : s.serve mb code k = s := by
  simp only [State.serve, hhead]

end

/-- Settles O6: each command but FW_LOAD by the cases of the mailbox service, FW_LOAD by the load under way besides. -/
theorem mailboxCommandsPassTheirChecksFirst : Obligations.MailboxCommandsPassTheirChecksFirst := by
  have hfwLoad : ∀ (s : State) (mb : Nat), exec (.fwLoad mb) s =
    .next (if s.keeper.loadTicket.isSome = true then s else s.serve mb 0x0060 State.takeFwLoad) := fun _ _ => rfl
  refine ⟨fun e he s mb status m r hhead hcheck hload => ?rejected, fun e he s mb hhead => ?waits, fun s mb hload => ?loading⟩
  case rejected =>
    rcases mailboxCommand_serves he mb with rfl | ⟨k, hexec⟩
    · simp [hfwLoad, hload, serve_rejected _ hhead hcheck]
    · rw [hexec, serve_rejected k hhead hcheck]
  case waits =>
    rcases mailboxCommand_serves he mb with rfl | ⟨k, hexec⟩
    · rw [hfwLoad, serve_absent _ hhead, ite_self]
    · rw [hexec, serve_absent k hhead]
  case loading => rw [hfwLoad, if_pos hload]

/-! ### Port, connections, bindings and registrations -/

section
variable {u : State} {m : List Byte} {t : Ticket} {q : Qp}

theorem takeQpCreate_room (hroom : u.port.qps.length < 4096) :
    let a := u.pickNumber (2 ^ 24) (u.port.qps.map Prod.fst)
    let rkey := Config.freeValue (u.free + 1) % 2 ^ 32
    u.takeQpCreate m t = (({ u with free := u.free + 2 } : State).setQp a.1 (qpOf m rkey u.now)).finish t stDone a.1 rkey :=
  if_neg (by omega)

theorem takeQpDestroy_unnamed (hexists : (u.qp (field m 32 4)).isSome = true) (hfree : u.qpNamed (field m 32 4) = false) :
    u.takeQpDestroy m t = (u.eraseQp (field m 32 4)).finish t stDone 0 0 := by
  simp [State.takeQpDestroy, Option.isNone_eq_false_iff.2 hexists, hfree]

/-- A usable connection of the mailbox's own binds it where it is stopped or has nothing announced (R484). -/
theorem takeMboxBind_usable (hqp : u.qp (field m 36 4) = some q) (hown : q.mb = field m 32 2) (hok : q.error = false)
    (hidle : (u.mailbox (field m 32 2)).stopped = true ∨ (u.mailbox (field m 32 2)).announced = 0) :
    u.takeMboxBind m t = ((u.setMailbox (field m 32 2) ((u.mailbox (field m 32 2)).rebind (bindingOf m))).flush (field m 32 2)).finish
      t stDone 0 0 := by
  have hrests : (!(u.mailbox (field m 32 2)).stopped && (u.mailbox (field m 32 2)).announced != 0) = false := by
    rcases hidle with h | h <;> simp [h]
  simp [State.takeMboxBind, hqp, hown, hok, hrests]

/-- A connection of the mailbox's domain is registered under a number that the domain does not use (R485). -/
theorem takeMemRegister_room (hqp : u.qp (field m 32 4) = some q) (hdom : domainOf q.mb = domainOf t.mb)
    (hroom : (tgetD u.regs (domainOf t.mb) []).length < 4096) :
    let mine := tgetD u.regs (domainOf t.mb) []
    let n := (u.pickNumber 4096 (mine.map Prod.fst)).1
    let r : Registration := ⟨field m 32 4, bitAt (field m 36 1) 0, bitAt (field m 36 1) 1, field m 40 8, field m 48 4, field m 56 8⟩
    u.takeMemRegister m t =
      State.finish { u with free := u.free + 1, regs := tset u.regs (domainOf t.mb) (tset mine n r) } t stDone n 0 := by
  simp [State.takeMemRegister, hqp, hdom, Nat.not_le.2 hroom, State.pickNumber]

theorem takeMemDeregister_unnamed (hexists : (u.registration (domainOf t.mb) (field m 32 4)).isSome = true)
    (hfree : u.regNamed (domainOf t.mb) (field m 32 4) = false) :
    u.takeMemDeregister m t = State.finish { u with
      regs := tset u.regs (domainOf t.mb) (terase (tgetD u.regs (domainOf t.mb) []) (field m 32 4)) } t stDone 0 0 := by
  simp [State.takeMemDeregister, Option.isNone_eq_false_iff.2 hexists, hfree]

end

/-- Settles O9: each command as its mailbox takes it, where its checks pass. -/
theorem portCommandsTakeEffect : Obligations.PortCommandsTakeEffect := by
  intro s mb m
  refine ⟨fun h => ?netConfig, fun h hroom => ?qpCreate, fun h hexists hfree => ?qpDestroy⟩
  case netConfig => exact next_serve (k := State.takeNetConfig) h rfl
  case qpCreate => exact next_serve h (takeQpCreate_room hroom)
  case qpDestroy => exact next_serve h (takeQpDestroy_unnamed hexists hfree)

/-- Settles O10: each command as its mailbox takes it, where its checks pass. -/
theorem bindingCommandsTakeEffect : Obligations.BindingCommandsTakeEffect := by
  intro s mb m
  refine ⟨fun h => ?bind, fun h => ?register, fun h => ?deregister⟩
  case bind => exact fun q hqp hown hok hidle => next_serve h (takeMboxBind_usable hqp hown hok hidle)
  case register => exact fun q hqp hdom hroom => next_serve h (takeMemRegister_room hqp hdom hroom)
  case deregister => exact fun hexists hfree => next_serve h (takeMemDeregister_unnamed hexists hfree)

/-! ### Packages and cancels -/

section
variable {u : State} {m : List Byte} {t : Ticket} {w : Window}

/-- A window whose registration or connection is gone ends its message (R454). -/
theorem readWindow_dead (h : u.windowLive (domainOf t.mb) w = false) : u.readWindow t m w = u.finish t stLinkDown 0 0 := by
  unfold State.windowLive at h
  unfold State.readWindow
  split at h
  · rfl
  · simp only [h, Bool.false_eq_true, if_false]

/-- A window over a usable connection is read by one RDMA READ, its message waiting (R465, R478). -/
theorem readWindow_live {r : Registration} (hreg : u.registration (domainOf t.mb) w.reg = some r) (hlive : u.qpUsable r.qpn = true) :
    let v := u.setMailbox t.mb { u.mailbox t.mb with busy := true }
    u.readWindow t m w = State.postOp { v with readings := u.readings ++ [⟨t.mb, m⟩] } r.qpn
      (.read (r.addr + w.offset) r.rkey w.length (.window t.mb)) := by
  simp [State.readWindow, hreg, hlive]

/-- A package that nothing names waits for the boundary of a running step, else is removed (R487). -/
theorem takePackageUnload_unnamed {x : Ctx} {l : Loaded} (hctx : u.ctx (msgContext m) = some x)
    (hloaded : tget x.packages (field m 32 1) = some l) (hfirst : l.unloading = none)
    (hslots : ((u.ctxSlots (msgContext m)).all fun i => (u.slot i).package != field m 32 1) = true)
    (hbusy : u.packageBusy (msgContext m) (field m 32 1) = false) (hgranted : u.packageGranted (msgContext m) (field m 32 1) = false)
    (hlearning : u.turns.learning ≠ some (msgContext m, field m 32 1)) :
    u.takePackageUnload m t = if u.stepRunning (msgContext m) = true
      then u.setCtx (msgContext m) { x with packages := tset x.packages (field m 32 1) { l with unloading := some t } }
      else u.removePackage (msgContext m) (field m 32 1) t := by
  have hslots' : ((u.ctxSlots (msgContext m)).any fun i => (u.slot i).package == field m 32 1) = false := by
    simpa using hslots
  simp [State.takePackageUnload, hctx, hloaded, hfirst, hslots', hbusy, hgranted, hlearning]

section
variable (hmay : t.mb < 16 ∨ field m 32 1 = 1)

include hmay

/-- Any mailbox may cancel a sequence, and one without a context any item (R491). -/
theorem cancel_permitted : (decide (16 ≤ t.mb) && field m 32 1 != 1) = false := by
  rcases hmay with h | h <;> simp [h]

theorem takeCancel_found {v : State} (hfound : u.cancelTarget (msgContext m) (field m 32 1) (field m 40 8) = some v) :
    u.takeCancel m t = (v.settleIdle.finish t stDone 1 0).settleReleases := by
  simp only [State.takeCancel, cancel_permitted hmay, hfound, Bool.false_eq_true, if_false]

theorem takeCancel_absent (hnone : u.cancelTarget (msgContext m) (field m 32 1) (field m 40 8) = none) :
    u.takeCancel m t = u.finish t stDone 0 0 := by
  simp only [State.takeCancel, cancel_permitted hmay, hnone, Bool.false_eq_true, if_false]

end

/-- A package that passes its checks, its granules being free, is mapped and enters its slot. -/
theorem packageWindow_enters {v : State} {p : Package} {gs : List (Nat × Nat)} {x y : Ctx} (hctx : u.ctx (msgContext m) = some x)
    (hfree : tget x.packages (field m 56 1) = none) (hcontract : contractOk p.contract = true) (hkind : kindCode p.kind = field m 57 1)
    (hsound : packageSound p = true) (hgeom : (u.creg (msgContext m)).geomFits p = true) (hregion : u.regionOk (msgContext m) x p = true)
    (htake : u.takeGranules (msgContext m) (fun _ => false) (learnRegion p) = some (gs, v))
    (hmapped : (v.mapGrans (msgContext m) (fun _ => false) gs).ctx (msgContext m) = some y) :
    u.packageWindow t m (.package p) = ((v.mapGrans (msgContext m) (fun _ => false) gs).setCtx (msgContext m)
      { y with packages := tset y.packages (field m 56 1) ⟨p, none⟩ }).finish t stDone 0 0 := by
  simp [State.packageWindow, hctx, hfree, hcontract, hkind, hsound, hgeom, hregion, htake, hmapped]

end

/-- Settles O14: the commands as their mailbox takes them, the window by the state of its connection, and the package read. -/
theorem packageCommandsTakeEffect : Obligations.PackageCommandsTakeEffect := by
  refine ⟨fun s mb m => ⟨fun h => ?load, fun h => ?unload, fun h hmay => ?cancel⟩,
    fun u t m w => ⟨readWindow_dead, fun r => readWindow_live⟩, fun u v t m p gs x y => packageWindow_enters⟩
  case load => exact next_serve (k := State.takePackageLoad) h rfl
  case unload =>
    intro u c k x l hctx hloaded hfirst hslots hbusy hgranted hlearning
    exact next_serve h (takePackageUnload_unnamed hctx hloaded hfirst hslots hbusy hgranted hlearning)
  case cancel =>
    intro u
    cases hfound : u.cancelTarget (msgContext m) (field m 32 1) (field m 40 8) with
    | some v => exact next_serve h (takeCancel_found hmay hfound)
    | none => exact next_serve h (takeCancel_absent hmay hfound)

end Sys2Proof.Proofs
end

section
/-! SUPPORT. What arrives at the Ethernet port: a stopped mailbox's datagram (R464, R470), inbound RDMA (R457, R458), congestion (R455),
acknowledgement and retransmission (R453, R454), and the port's own link and answers (R451, R452). -/

namespace Sys2Proof.Proofs

open Sys2Proof.Machine Sys2Proof.Laws

/-! ### A SUBMIT to a stopped mailbox -/

/-- The source that mailbox 2 is bound to. -/
def submitter : UdpSource := ⟨1, 1⟩

/-- A module after reset but for mailbox 2, bound to that source and stopped. -/
def stoppedState : State :=
  { State.reset with mailboxes := [(2, { Mailbox.reset with udp := some submitter, stopped := true })] }

/-- A SUBMIT of one slot for mailbox 2, of count 0. -/
def oneSlotSubmit : List Byte := [1, 0, 2, 0, 0, 0, 0, 0, 1, 0] ++ zeros 262

/-- The ring slots that mailbox `mb` holds in the next state of a command. -/
def nextSlots (mb : Nat) : Host.Outcome State Fault Refusal → Nat
  | .next t => (t.mailbox mb).ring.length
  | .fault _ => 0
  | .refused _ => 0

/-- The command takes no slot into the stopped mailbox's ring. -/
theorem oneSlotSubmit_notTaken : nextSlots 2 (exec (.udpSubmit submitter true oneSlotSubmit) stoppedState) = 0 := by decide +kernel

/-- Refutes O23: a SUBMIT to a stopped mailbox is answered and takes no slot (R464), where the statement has its slots taken into the ring of
every mailbox. -/
theorem not_submissionsReachTheirMailbox : ¬ Obligations.SubmissionsReachTheirMailbox := by
  intro h
  obtain ⟨-, -, hudp⟩ := h
  obtain ⟨hsubmit, -⟩ := hudp stoppedState submitter oneSlotSubmit
  have hslots := congrArg (nextSlots 2) (hsubmit (by decide +kernel) (by decide +kernel) (by decide +kernel))
  rw [oneSlotSubmit_notTaken] at hslots
  exact absurd hslots (by decide +kernel)

/-! ### Packets on a connection -/

section
variable {s : State} {h : Roce} {q : Qp}

/-- A whole packet on a usable connection is handled. -/
theorem onPacket_arrives (ha : s.arrives h q) (k : State → Qp → State) : s.onPacket h k = k s q := by
  obtain ⟨hintact, hqp, hok⟩ := ha
  simp [State.onPacket, hintact, hqp, hok]

/-! ### Inbound RDMA (R457, R458, R526) -/

section
variable {addr rkey len : Nat} {data : List Byte}

theorem rdmaWrite_window (ha : s.arrives h q) (hwindow : inWindow q.mb addr data.length = true) :
    exec (.rdmaWriteInbound h addr rkey data) s = .next ((s.touchRegion.setMailbox q.mb
      ((s.mailbox q.mb).putBytes (addr - windowBase q.mb) data)).transmit (.roceAck h.qpn)) := by
  simp [exec, execRdmaWriteInbound, onPacket_arrives ha, hwindow]

/-- A write that resolves in its context's LPDDR5X range is made and acknowledged, or waits where capping protects it (R219, R457). -/
theorem rdmaWrite_memory (ha : s.arrives h q) (hwindow : inWindow q.mb addr data.length = false) (hpower : s.keeper.powerState ≠ 2)
    (hfirst : inLp addr = true) (hlast : inLp (addr + data.length - 1) = true) {c : Nat} {t : State}
    (hctx : s.rdmaContext q rkey = some c) (hwrite : s.writeRange (.ctx c) addr data = some t) :
    exec (.rdmaWriteInbound h addr rkey data) s = .next (if s.rangeHeld (.ctx c) addr data.length = true
      then { s with guard := { s.guard with heldWrites := s.guard.heldWrites ++ [⟨c, addr, data, none, some h.qpn⟩] } }
      else t.transmit (.roceAck h.qpn)) := by
  simp [exec, execRdmaWriteInbound, onPacket_arrives ha, hwindow, hpower, hfirst, hlast, hctx, hwrite]

theorem rdmaWrite_unreached (ha : s.arrives h q) (hwindow : inWindow q.mb addr data.length = false) (hpower : s.keeper.powerState ≠ 2)
    (hnone : inLp addr = false ∨ s.rdmaContext q rkey = none) :
    exec (.rdmaWriteInbound h addr rkey data) s = .next (s.transmit (.remoteAccessNak h.qpn)) := by
  rcases hnone with hout | hctx
  · simp [exec, execRdmaWriteInbound, onPacket_arrives ha, hwindow, hpower, hout]
  · simp [exec, execRdmaWriteInbound, onPacket_arrives ha, hwindow, hpower, hctx]

/-- A read that resolves is answered, with free bytes where it meets an uncorrectable error (R228). -/
theorem rdmaRead_memory {m : MemOutcome} (ha : s.arrives h q) (hpower : s.keeper.powerState ≠ 2) (hfirst : inLp addr = true)
    (hlast : inLp (addr + len - 1) = true) {c : Nat} {ps : List (Nat × Nat)} {u : State} {b : Bool}
    (hctx : s.rdmaContext q rkey = some c) (hres : s.resolveRange (.ctx c) addr len false = some ps)
    (herr : s.readErrors ps none m = (u, b)) :
    let d := ps.flatMap fun p => s.read p.1 p.2
    exec (.rdmaReadInbound ⟨h, m⟩ addr rkey len) s = .next (if b = true then u.transmit (.readResponse h.qpn d)
      else ({ u with free := u.free + 1 } : State).transmit (.readResponse h.qpn (slice (Config.freeBytes s.free d) 0 len))) := by
  cases b <;> simp [exec, execRdmaReadInbound, onPacket_arrives ha, hpower, hfirst, hlast, hctx, hres, herr]

theorem rdmaRead_unreached (m : MemOutcome) (ha : s.arrives h q) (hpower : s.keeper.powerState ≠ 2)
    (hnone : inLp addr = false ∨ s.rdmaContext q rkey = none) :
    exec (.rdmaReadInbound ⟨h, m⟩ addr rkey len) s = .next (s.transmit (.remoteAccessNak h.qpn)) := by
  rcases hnone with hout | hctx
  · simp [exec, execRdmaReadInbound, onPacket_arrives ha, hpower, hout]
  · simp [exec, execRdmaReadInbound, onPacket_arrives ha, hpower, hctx]

end

/-! ### Congestion (R455) -/

theorem ceMarkedPacket_arrives (ha : s.arrives h q) : exec (.ceMarkedPacket h) s = .next (
    if (∀ t, q.lastCnp = some t → t + bits s.port.cc.toNat 7 0 * 100 ≤ s.now)
    then (s.setQp h.qpn { q with lastCnp := some s.now }).transmit (.cnp h.qpn) else s) := by
  refine (congrArg Host.Outcome.next (onPacket_arrives ha _)).trans (congrArg _ (if_congr ?_ rfl rfl))
  cases q.lastCnp with
  | none => simp
  | some t =>
    simp only [decide_eq_true_eq, Option.some.injEq, forall_eq']
    exact Iff.rfl

theorem cnpReceived_arrives (ha : s.arrives h q) : exec (.cnpReceived h) s = .next (s.setQp h.qpn
    { q with rate := max (q.rate / 2) (65536 / 2 ^ bits s.port.cc.toNat 19 16), calm := s.now }) :=
  congrArg Host.Outcome.next (onPacket_arrives ha _)

theorem rateRecoverExpiry_connection {n : Nat} (hqp : s.qp n = some q) : exec (.rateRecoverExpiry n) s = .next (
    if q.calm + bits s.port.cc.toNat 15 8 * 100 ≤ s.now
    then s.setQp n { q with rate := min 65536 (q.rate + 65536 / 16), calm := s.now } else s) := by
  simp only [exec, execRateRecoverExpiry, hqp]
  rfl

/-! ### Acknowledgement and retransmission (R453, R454) -/

section
variable {n : Nat} (hqp : s.qp n = some q) (hok : q.error = false)

include hqp hok

theorem roceAckReceived_ack (psn : Nat) : exec (.roceAckReceived n psn false) s = .next ((s.setQp n
    { q with unacked := q.unacked.drop (q.acked psn q.unacked), tries := 0 }).pump n) := by
  simp [exec, execRoceAckReceived, hqp, hok]

theorem roceAckReceived_nak (psn : Nat) : exec (.roceAckReceived n psn true) s = .next ((s.resend n
    { q with unacked := q.unacked.drop (q.acked ((psn + 2 ^ 24 - 1) % 2 ^ 24) q.unacked) }).pump n) := by
  simp only [exec, execRoceAckReceived, hqp, hok, Bool.false_eq_true, if_false, if_true]

theorem roceAckTimeout_resends (hdue : q.ackDue s.now = true) (hleft : q.tries < q.retry) :
    exec (.roceAckTimeout n) s = .next (s.resend n { q with tries := q.tries + 1 }) := by
  simp [exec, execRoceAckTimeout, hqp, hok, hdue, hleft]

theorem qpError_retriesExhausted (hdue : q.ackDue s.now = true) (hspent : q.retry ≤ q.tries) :
    exec (.qpError n .retriesExhausted) s = .next (s.qpFails n q) := by
  simp [exec, execQpError, hqp, hok, hdue, hspent]

theorem qpError_remoteAccess (hopen : q.unacked ≠ []) : exec (.qpError n .remoteAccess) s = .next (s.qpFails n q) := by
  simp [exec, execQpError, hqp, hok, hopen]

end

/-- The oldest operation's age against the ack timeout, 4.096 µs × 2^ACK_T (Table 12.2). -/
theorem ackDue_cons {now : Nat} {u : Unacked} {rest : List Unacked} (h : q.unacked = u :: rest)
    (hage : 10 * u.sentAt + 4096 * 2 ^ q.ackT ≤ 10 * now) : q.ackDue now = true := by
  simp [Qp.ackDue, h, hage]

end

/-- Settles O24: writes to the window and to memory, reads by what they meet, and accesses that reach nothing. -/
theorem inboundRdmaReachesItsMemory : Obligations.InboundRdmaReachesItsMemory := by
  intro s h addr rkey len data q ha
  refine ⟨rdmaWrite_window ha, fun hwindow hpower hfirst hlast c t => rdmaWrite_memory ha hwindow hpower hfirst hlast,
    fun hpower hfirst hlast c ps m u b => rdmaRead_memory ha hpower hfirst hlast, fun hpower => ⟨fun hwindow => ?write, fun hnone m => ?read⟩⟩
  case write => exact rdmaWrite_unreached ha hwindow hpower
  case read => exact rdmaRead_unreached m ha hpower hnone

/-- Settles O25: a marked packet, a notification received, and a recovery period. -/
theorem congestionFollowsR455 : Obligations.CongestionFollowsR455 := by
  intro s h q ha
  have hqp : s.qp h.qpn = some q := ha.2.1
  exact ⟨ceMarkedPacket_arrives ha, cnpReceived_arrives ha, rateRecoverExpiry_connection hqp⟩

/-- Settles O26: an ACK, a NAK, a timeout by the retries left, and a remote access error. -/
theorem reliableConnectionsRetry : Obligations.ReliableConnectionsRetry := by
  intro s n psn q hqp hok
  refine ⟨roceAckReceived_ack hqp hok psn, fun r hr => ?nak, fun u rest hunacked hage => ?timeout, qpError_remoteAccess hqp hok⟩
  case nak => exact hr ▸ roceAckReceived_nak hqp hok psn
  case timeout =>
    have hdue := ackDue_cons hunacked hage
    exact ⟨roceAckTimeout_resends hqp hok hdue, qpError_retriesExhausted hqp hok hdue⟩

/-! ### The port's link (R452) -/

section
variable {s : State}

theorem ethLinkUp_training (lanes : BitVec 8) (htrain : s.port.training = true) : exec (.ethLinkUp lanes) s =
    .next { s with port := { s.port with up := true, training := false, lanes := lanes } } := by
  simp [exec, execEthLinkUp, htrain]

theorem ethLinkWaitExpiry_fallsBack (htrain : s.port.training = true) (hdown : s.port.up = false) (hspeed : s.port.speed = 0)
    (hfast : s.port.slow = false) (hdue : s.port.trainAt + s.port.linkWait.toNat ≤ s.now) : exec .ethLinkWaitExpiry s =
      .next { s with port := { s.port with fault := setBit32 s.port.fault 3, slow := true, trainAt := s.now } } := by
  simp [exec, execEthLinkWaitExpiry, State.ethFault, htrain, hdown, hspeed, hfast, hdue]

/-- What falls with the link: its lanes, pauses and held frames, with LINK_DOWN set and the occurrence reported. -/
theorem ethDown_eq (s : State) : s.ethDown = { s with
    port := { s.port with
      up := false, lanes := 0, paused := 0, waiting := [], fault := setBit32 s.port.fault 1
      training := bitAt s.port.ctrl.toNat 0, trainAt := s.now }
    ledger := s.ledger.report 0x0302 s.port.lanes.toNat noUnit } := by
  simp only [State.ethDown, State.ethFault, State.report]

theorem ethLinkDown_up (hup : s.port.up = true) : exec .ethLinkDown s = .next s.ethDown := by
  simp [exec, execEthLinkDown, hup]

/-- A legal write of ETH_CTRL takes its value and trains the port anew, taking down a link that was up (R452). -/
theorem writeEthCtrl_legal {v : Word} (hlegal : bits v.toNat 2 1 ≠ 3) :
    let u := if s.port.up then s.ethDown else s
    s.writeEthCtrl v = { u with port := { u.port with
      ctrl := v &&& 7, slow := bits v.toNat 2 1 == 2, training := bitAt v.toNat 0, trainAt := s.now } } :=
  if_neg hlegal

/-- A link that was up is down after the write, and no connection ends by itself (R454). -/
theorem writeEthCtrl_link {v : Word} (hlegal : bits v.toNat 2 1 ≠ 3) :
    (s.port.up = true → (s.writeEthCtrl v).port.up = false) ∧ (s.writeEthCtrl v).port.qps = s.port.qps := by
  rw [writeEthCtrl_legal hlegal]
  cases hup : s.port.up <;> simp [ethDown_eq, hup]

theorem writeEthCtrl_illegal {v : Word} (hillegal : bits v.toNat 2 1 = 3) : s.writeEthCtrl v = s.ignored 0x816000000 none :=
  if_pos hillegal

end

/-! ### Priority flow control (R451) -/

/-- The number whose first `n` bits `f` gives. -/
def bitSum (f : Nat → Bool) (n : Nat) : Nat := ((List.range n).map fun k => b2n (f k) * 2 ^ k).sum

theorem bitSum_succ (f : Nat → Bool) (n : Nat) : bitSum f (n + 1) = 2 ^ n * b2n (f n) + bitSum f n := by
  simp [bitSum, List.range_succ, Nat.add_comm, Nat.mul_comm]

theorem bitSum_lt (f : Nat → Bool) (n : Nat) : bitSum f n < 2 ^ n := by
  induction n with
  | zero => exact Nat.one_pos
  | succ n ih =>
    rw [bitSum_succ, pow_succ]
    cases f n <;> simp [b2n] <;> omega

theorem bitAt_bitSum (f : Nat → Bool) {n k : Nat} (hk : k < n) : bitAt (bitSum f n) k = f k := by
  rw [bitAt_eq_testBit]
  induction n with
  | zero => exact absurd hk (Nat.not_lt_zero k)
  | succ n ih =>
    rw [bitSum_succ, Nat.testBit_two_pow_mul_add _ (bitSum_lt f n)]
    split
    · next hlt => exact ih hlt
    · obtain rfl : k = n := by omega
      cases f k <;> simp [b2n]

/-- The priorities paused after a pause frame: of the lossless ones, those that it enables go by their quanta. -/
def pausedAfter (p : Port) (enable : BitVec 8) (quanta : List Nat) (k : Nat) : Bool :=
  bitAt p.pfc.toNat k && if bitAt enable.toNat k then (quanta[k]?).getD 0 != 0 else bitAt p.paused.toNat k

/-- A pause frame sets the paused priorities and releases what no pause holds. -/
theorem pfcPauseFrame_port (s : State) (enable : BitVec 8) (quanta : List Nat) : exec (.pfcPauseFrame enable quanta) s = .next { s with
    port := Port.release { s.port with paused := BitVec.ofNat 8 (bitSum (pausedAfter s.port enable quanta) 8) } } := rfl

theorem bitAt_ofNat8_bitSum (f : Nat → Bool) {k : Nat} (hk : k < 8) : bitAt (BitVec.ofNat 8 (bitSum f 8)).toNat k = f k := by
  rw [BitVec.toNat_ofNat, Nat.mod_eq_of_lt (bitSum_lt f 8), bitAt_bitSum f hk]

/-- Releasing frames changes no pause. -/
theorem release_pauses (p : Port) (f : EthFrame) : p.release.pauses f = p.pauses f := rfl

theorem release_waiting (p : Port) : ∀ w ∈ p.release.waiting, p.release.pauses w.frame = true :=
  fun w hw => (release_pauses p w.frame).trans (List.mem_filter.1 hw).2

/-- Settles O28: link events, ETH_CTRL, pause frames by the bits that they set, and the port's own answers. -/
theorem theEthernetPortFollowsItsEvents : Obligations.TheEthernetPortFollowsItsEvents := by
  intro s
  refine ⟨ethLinkUp_training, ethLinkWaitExpiry_fallsBack, fun hup => ?down, fun v hlegal => ?ctrl,
    fun v hillegal => congrArg Host.Outcome.next (writeEthCtrl_illegal hillegal), fun enable quanta => ?pause,
    fun _ _ _ => rfl, fun _ _ => rfl, fun _ _ _ _ => rfl⟩
  case down => exact ⟨_, (ethLinkDown_up hup).trans (congrArg _ (ethDown_eq s)), rfl, rfl, rfl⟩
  case ctrl =>
    obtain ⟨hdown, hqps⟩ := writeEthCtrl_link (s := s) hlegal
    have hport := congrArg State.port (writeEthCtrl_legal (s := s) hlegal)
    exact ⟨_, rfl, congrArg Port.ctrl hport, congrArg Port.training hport, congrArg Port.slow hport, hdown, hqps⟩
  case pause =>
    exact ⟨_, pfcPauseFrame_port s enable quanta, fun k hk => bitAt_ofNat8_bitSum _ hk, release_waiting _, rfl, rfl⟩

end Sys2Proof.Proofs
end

section
/-! SUPPORT. Restarts of the Keeper (R545 to R551): the image that a restart loads, and what a restart counts. -/

namespace Sys2Proof.Proofs

open Sys2Proof.Machine Sys2Proof.Laws

/-! ### Restarts -/

section
variable {s : State}

theorem watchdogExpiry_due {core : Nat} (hmode : s.keeper.mode = .running) (hdue : s.watchdogDue core = true) :
    exec (.watchdogExpiry core) s = .next (s.beginRestart 1 core) :=
  congrArg Host.Outcome.next (if_pos (by simp [hmode, hdue]))

theorem watchdogExpiry_notDue {core : Nat} (hdue : s.watchdogDue core = false) : exec (.watchdogExpiry core) s = .next s :=
  congrArg Host.Outcome.next (if_neg (by simp [hdue]))

theorem keeperResume_loaded (hmode : s.keeper.mode = .restarting) (hstep : s.keeper.startStep = 7) : exec .keeperResume s =
    .next (((s.runFirmware.endForRestart.postActivated.drawAlert.keptDoorbellsNow.settleAll).settleIdle).settleReleases) :=
  congrArg Host.Outcome.next (if_pos (by simp [hmode, hstep]))

section
variable (hmode : s.keeper.mode = .restarting) (hstep : s.keeper.startStep = 6)
include hmode hstep

theorem keeperRestart_noImage (himage : s.restartImage = none) : exec .keeperRestart s = .next s.stayInBoot := by
  simp [exec, execKeeperRestart, hmode, hstep, himage]

theorem keeperRestart_verified {i j : Image} {a : Nat} {u : State} (himage : s.restartImage = some (i, a))
    (hcheck : s.checkImage (s.read a i.length) = (u, .ok j)) :
    exec .keeperRestart s = .next (u.loadImage j (s.read a i.length)) := by
  simp [exec, execKeeperRestart, hmode, hstep, himage, hcheck]

/-- An image that no longer verifies leaves the Keeper in the boot ROM: the model's choice (log 51). -/
theorem keeperRestart_unverified {i : Image} {a status : Nat} {u : State} (himage : s.restartImage = some (i, a))
    (hcheck : s.checkImage (s.read a i.length) = (u, .error status)) : exec .keeperRestart s = .next u.stayInBoot := by
  simp [exec, execKeeperRestart, hmode, hstep, himage, hcheck]

end

end

/-- Settles O55: the causes as their commands take them, and a restart by the image that it finds. -/
theorem theKeeperRestarts : Obligations.TheKeeperRestarts := by
  refine fun s core => ⟨watchdogExpiry_due, watchdogExpiry_notDue, fun hruns => ?faults, fun hrests => ?none,
    fun hmode hstep => ⟨keeperRestart_noImage hmode hstep, fun i a himage => ⟨?verified, ?unverified⟩⟩, keeperResume_loaded,
    fun cause _ => ⟨rfl, rfl, rfl⟩, rfl, rfl⟩
  case faults => exact ⟨congrArg Host.Outcome.next (if_pos hruns), congrArg Host.Outcome.next (if_pos hruns)⟩
  case none =>
    have hnot : ¬ s.keeperRuns = true := Bool.eq_false_iff.1 hrests
    exact ⟨congrArg Host.Outcome.next (if_neg hnot), congrArg Host.Outcome.next (if_neg hnot)⟩
  case verified => exact fun u j hcheck => keeperRestart_verified hmode hstep himage hcheck
  case unverified => exact fun u status hcheck => keeperRestart_unverified hmode hstep himage hcheck

end Sys2Proof.Proofs
end

section
/-! SUPPORT. Power Guard and the divider (R561 to R569): what a change of ceiling, a POWER event and the pursuit of the code called for change. -/

namespace Sys2Proof.Proofs

open Sys2Proof.Machine Sys2Proof.Laws

/-! ### The divider -/

/-- Between two records of Power Guard only the divider and the raise of VCORE under way differ. -/
def dividerOnly (p q : Power) : Prop :=
  q = { p with divider := q.divider, target := q.target, raiseAt := q.raiseAt, dvfsCount := q.dvfsCount }

theorem dividerOnly_setDivider (p : Power) (c : Nat) : dividerOnly p (p.setDivider c) := by
  unfold Power.setDivider
  split <;> rfl

theorem dividerOnly_retarget (p : Power) (now : Nat) : dividerOnly p (p.retarget now) := by
  unfold Power.retarget
  split
  · rfl
  · split
    · exact dividerOnly_setDivider p _
    · split <;> rfl

theorem dividerOnly_guardRise (p : Power) (now : Nat) : dividerOnly p (p.guardRise now) := by
  unfold Power.guardRise
  split
  · exact dividerOnly_retarget p now
  · split
    · exact dividerOnly_setDivider { p with target := none } _
    · rfl

/-- What a record shares with one that differs in the divider and the raise: the ceiling, the junction reading and the clamped rails. -/
theorem dividerOnly_readings {p q : Power} (h : dividerOnly p q) :
    q.ceiling = p.ceiling ∧ q.temp = p.temp ∧ q.clamped = p.clamped := by
  rw [h]
  exact ⟨rfl, rfl, rfl⟩

@[simp] theorem setDivider_divider (p : Power) (c : Nat) : (p.setDivider c).divider = c := by
  unfold Power.setDivider
  split
  · next h => exact h.symm
  · rfl

@[simp] theorem setDivider_target (p : Power) (c : Nat) : (p.setDivider c).target = p.target := by
  unfold Power.setDivider
  split <;> rfl

@[simp] theorem setDivider_raiseHeld (p : Power) (c : Nat) : (p.setDivider c).raiseHeld = p.raiseHeld := by
  unfold Power.setDivider
  split <;> rfl

@[simp] theorem setDivider_wanted (p : Power) (c : Nat) : (p.setDivider c).wanted = p.wanted := by
  unfold Power.setDivider
  split <;> rfl

/-- A divider at the code called for stays, and no raise begins. -/
theorem retarget_settled {p : Power} {now : Nat} (hwanted : p.divider = p.wanted) : p.retarget now = p := by
  simp [Power.retarget, hwanted]

/-- With raises held off, the divider follows a slower code only (R569). -/
theorem retarget_held {p : Power} (now : Nat) (hnone : p.target = none) (hheld : p.raiseHeld = true) :
    (p.retarget now).target = none ∧ (p.retarget now).raiseHeld = true ∧ (p.retarget now).divider = max p.divider p.wanted := by
  unfold Power.retarget
  rw [hnone, hheld]
  by_cases hslower : p.divider < p.wanted
  · simp [hslower, hnone, hheld, hslower.le]
  · simp [hslower, hnone, hheld, Nat.max_eq_left (Nat.le_of_not_lt hslower)]

/-! ### POWER events and the ceiling -/

/-- A POWER event notes its cause, and posts to mailboxes and the Ledger alone (R567). -/
theorem powerEvent_mail (s : State) (cause unit : Nat) : ∃ t : State, ∃ l : Ledger,
    mailOnly { s with power := { s.power with causeCode := cause } } t ∧ s.powerEvent cause unit = { t with ledger := l } :=
  ⟨_, _, mailOnly_eventAdmin { s with power := { s.power with causeCode := cause } } 0x0006 cause (junction32 s.power.temp), rfl⟩

theorem powerEvent_keeps (s : State) (cause unit : Nat) :
    (s.powerEvent cause unit).power = { s.power with causeCode := cause } ∧ (s.powerEvent cause unit).mem = s.mem ∧
      (s.powerEvent cause unit).pins = s.pins ∧ (s.powerEvent cause unit).keeper.mode = s.keeper.mode ∧
      (s.powerEvent cause unit).keeper.deferred = s.keeper.deferred := by
  obtain ⟨t, l, hmail, h⟩ := powerEvent_mail s cause unit
  rw [h, hmail]
  exact ⟨rfl, rfl, rfl, rfl, rfl⟩

/-- A ceiling that is set holds its code; the junction reading, the clamped rails and memory stay. -/
theorem setCeiling_sets (s : State) (code cause unit : Nat) :
    (s.setCeiling code cause unit).power.ceiling = code ∧ (s.setCeiling code cause unit).power.temp = s.power.temp ∧
      (s.setCeiling code cause unit).power.clamped = s.power.clamped ∧ (s.setCeiling code cause unit).mem = s.mem := by
  unfold State.setCeiling
  extract_lets p up p1 p2
  split
  · next hsame => exact ⟨hsame.symm, rfl, rfl, rfl⟩
  · have hdivider : dividerOnly p1 p2 := by
      dsimp only [p2]
      split
      · exact dividerOnly_guardRise p1 _
      · exact dividerOnly_retarget p1 _
    obtain ⟨hceiling, htemp, hclamped⟩ := dividerOnly_readings hdivider
    obtain ⟨hpower, hmem, -⟩ := powerEvent_keeps (State.drawAlert { s with power := p2 }) cause unit
    rw [hpower, hmem]
    exact ⟨hceiling, htemp, hclamped, rfl⟩

theorem applyFloor_ceiling (s : State) : s.applyFloor.power.ceiling = max s.power.ceiling s.power.floor := by
  unfold State.applyFloor
  split
  · next hbelow => exact (setCeiling_sets ..).1.trans (Nat.max_eq_right hbelow.le).symm
  · next habove => exact (Nat.max_eq_left (Nat.le_of_not_lt habove)).symm

theorem applyFloor_above {s : State} (h : s.power.floor ≤ s.power.ceiling) : s.applyFloor = s := if_neg (Nat.not_lt.2 h)

/-! ### Readings -/

/-- The state whose divider follows the code called for. -/
abbrev retargeted (s : State) : State := { s with power := s.power.retarget s.now }

/-- The state that has taken a window's readings. -/
abbrev readingsTaken (s : State) (r : PowerReadings) : State :=
  { s with power := { s.power with
    temp := tempWord r.tj r.sensor, watts := BitVec.ofNat 32 (r.watts % 65536), railMv := r.railMv, railAmps := r.railAmps
    raiseHeld := false } }

/-- The ceiling that a window's readings give, no lower than the floor (R564). -/
abbrev windowCeiling (s : State) (r : PowerReadings) : Nat :=
  max (readingsTaken s r).power.floor ((readingsTaken s r).power.afterWindow r).1

/-- The state that has clamped a rail at a current. -/
abbrev railClamped (s : State) (rail amps : Nat) : State :=
  { s with power := { s.power with
    railAmps := s.power.railAmps.set rail amps
    clamped := ninsert s.power.clamped rail
    clamps := if s.power.clamped.contains rail then s.power.clamps else s.power.clamps + 1 } }

/-- The state whose rail falls back to a current. -/
abbrev railReleased (s : State) (rail amps : Nat) : State :=
  { s with power := { s.power with
    railAmps := s.power.railAmps.set rail amps
    clamped := s.power.clamped.filter fun r => r != rail } }

section
variable {s : State} (h : s.clocked = true)
include h

/-- A window's end sets the ceiling that its readings give, and the divider follows (R564, R569). -/
theorem pgdWindowEnd_clocked (r : PowerReadings) : ∃ cause unit,
    exec (.pgdWindowEnd r) s = .next (retargeted ((readingsTaken s r).setCeiling (windowCeiling s r) cause unit)) := by
  have hclocked : ¬ (!s.clocked) = true := by simp [h]
  by_cases hfloor : ((readingsTaken s r).power.afterWindow r).1 < (readingsTaken s r).power.floor
  · refine ⟨0x08, causeUnit 0x08 r.sensor 0, congrArg Host.Outcome.next ((if_neg hclocked).trans (congrArg retargeted ?_))⟩
    rw [windowCeiling, Nat.max_eq_left hfloor.le]
    exact if_pos hfloor
  · refine ⟨((readingsTaken s r).power.afterWindow r).2, causeUnit ((readingsTaken s r).power.afterWindow r).2 r.sensor 0,
      congrArg Host.Outcome.next ((if_neg hclocked).trans (congrArg retargeted ?_))⟩
    rw [windowCeiling, Nat.max_eq_right (Nat.le_of_not_lt hfloor)]
    exact if_neg hfloor

theorem railCurrentClamp_over {rail amps : Nat} (hrail : rail < 6) (hover : railClamp rail < amps) :
    exec (.railCurrentClamp rail amps) s = .next (
      if s.power.ceiling < 3 then (railClamped s rail amps).setCeiling 3 0x03 rail
      else if s.power.clamped.contains rail then railClamped s rail amps else (railClamped s rail amps).powerEvent 0x03 rail) :=
  congrArg Host.Outcome.next (if_neg (by simp [h, hrail, hover]))

theorem railClampRelease_under {rail amps : Nat} (hclamped : rail ∈ s.power.clamped) (hunder : amps ≤ railClamp rail) :
    exec (.railClampRelease rail amps) s = .next ((railReleased s rail amps).powerEvent 0x03 rail) :=
  congrArg Host.Outcome.next (if_neg (by simp [h, hclamped, hunder]))

/-- EMERGENCY closes where no activation waits for it (R566). -/
theorem emergencyClose_due (hopen : s.power.emergency = true) (hzero : s.power.ceiling = 0) (hdue : s.power.zeroTick + 10000000 ≤ s.now)
    (hnone : s.keeper.mode ≠ .running ∨ s.keeper.deferred = []) :
    exec .emergencyClose s =
      .next ((State.drawAlert { s with power := { s.power with emergency := false } }).powerEvent 0x05 noUnit) := by
  refine congrArg Host.Outcome.next ((if_pos (by simp [h, hopen, hzero, hdue])).trans (if_neg ?_))
  obtain ⟨-, -, -, hmode, hdeferred⟩ :=
    powerEvent_keeps (State.drawAlert { s with power := { s.power with emergency := false } }) 0x05 noUnit
  rw [hmode, hdeferred]
  obtain hmode | hdeferred := hnone
  · simp [State.drawAlert, hmode]
  · simp [State.drawAlert, hdeferred]

theorem vcoreReached_reaches {mv n : Nat} (htarget : s.power.target = some n) (hreached : vcoreMin n ≤ mv) :
    exec (.vcoreReached mv) s = .next { s with power :=
      (({ s.power with railMv := s.power.railMv.set 0 mv, target := none } : Power).setDivider n).retarget s.now } := by
  simp [exec, execVcoreReached, h, htarget, hreached]

theorem vcoreReached_below {mv n : Nat} (htarget : s.power.target = some n) (hbelow : mv < vcoreMin n) :
    exec (.vcoreReached mv) s = .next (State.applyFloor { s with power := { s.power with railMv := s.power.railMv.set 0 mv } }) := by
  simp [exec, execVcoreReached, h, htarget, Nat.not_le.2 hbelow]

end

/-- Settles O56: each command by the equation of its case, its readings by what the ceiling's change and a POWER event keep. -/
theorem powerGuardFollowsItsReadings : Obligations.PowerGuardFollowsItsReadings := by
  intro s
  refine ⟨fun h r => ?window, fun h rail amps hrail hover => ?clamp, fun h rail amps hclamped hunder => ?release,
    fun h hopen hzero hdue hnone => ?close, fun hearly => ?early,
    fun h mv n htarget => ⟨fun hreached hwanted => ?raised, fun hbelow => ?below⟩, fun hraising hlate => ?late, fun hp2 hidle => ?idle⟩
  case window =>
    obtain ⟨cause, unit, hexec⟩ := pgdWindowEnd_clocked h r
    obtain ⟨hceiling, htemp, -, hmem⟩ := setCeiling_sets (readingsTaken s r) (windowCeiling s r) cause unit
    obtain ⟨hceiling', htemp', -⟩ :=
      dividerOnly_readings (dividerOnly_retarget ((readingsTaken s r).setCeiling (windowCeiling s r) cause unit).power _)
    exact ⟨_, hexec, hceiling'.trans hceiling, htemp'.trans htemp, hmem⟩
  case clamp =>
    have hclamped : rail ∈ (railClamped s rail amps).power.clamped := mem_ninsert.2 (.inl rfl)
    refine ⟨_, railCurrentClamp_over h hrail hover, ?_⟩
    split
    · obtain ⟨hceiling, -, hkept, hmem⟩ := setCeiling_sets (railClamped s rail amps) 3 0x03 rail
      exact ⟨hceiling, hkept ▸ hclamped, hmem⟩
    · split
      · exact ⟨rfl, hclamped, rfl⟩
      · obtain ⟨hpower, hmem, -⟩ := powerEvent_keeps (railClamped s rail amps) 0x03 rail
        rw [hpower, hmem]
        exact ⟨rfl, hclamped, rfl⟩
  case release =>
    refine ⟨_, railClampRelease_under h hclamped hunder, ?_⟩
    rw [(powerEvent_keeps (railReleased s rail amps) 0x03 rail).1]
    exact ⟨fun hmem => by simp at hmem, rfl⟩
  case close =>
    refine ⟨_, emergencyClose_due h hopen hzero hdue hnone, ?_⟩
    obtain ⟨hpower, -, hpins, -⟩ :=
      powerEvent_keeps (State.drawAlert { s with power := { s.power with emergency := false } }) 0x05 noUnit
    rw [hpower, hpins]
    exact ⟨rfl, Bool.false_or _⟩
  case early => exact congrArg Host.Outcome.next (if_neg (by simp [Nat.not_le.2 hearly]))
  case raised =>
    refine ⟨_, vcoreReached_reaches h htarget hreached, ?_⟩
    rw [retarget_settled (by rw [setDivider_divider, setDivider_wanted]; exact hwanted)]
    exact ⟨setDivider_divider _ n, setDivider_target _ n⟩
  case below => exact ⟨_, vcoreReached_below h htarget hbelow, applyFloor_ceiling _, applyFloor_above⟩
  case late =>
    obtain ⟨htarget, hheld, hdivider⟩ := retarget_held (p := { s.power with target := none, raiseHeld := true }) s.now rfl rfl
    exact ⟨_, congrArg Host.Outcome.next (if_pos (by simp [hraising, hlate])), htarget, hheld, hdivider⟩
  case idle => exact congrArg Host.Outcome.next (if_pos (by simp [hp2, hidle]))

end Sys2Proof.Proofs
end

section
/-! SUPPORT. Pins and supplies (R565, R600, R607, R625 to R630): module reset, loss of main power, and the stops. -/

namespace Sys2Proof.Proofs

open Sys2Proof.Machine Sys2Proof.Laws

/-! ### The Ledger's save (R600, R607) -/

theorem endWindow_seconds (l : Ledger) : l.endWindow.seconds = l.seconds := by
  unfold Ledger.endWindow
  extract_lets l1 l2
  have h1 : l1.seconds = l.seconds := by
    dsimp only [l1]
    split <;> rfl
  refine List.foldlRecOn (motive := fun k : Ledger => k.seconds = l.seconds) l1.summaries _ h1 fun k hk e _ => ?_
  split <;> exact hk

theorem settleWindow_seconds (l : Ledger) : l.settleWindow.seconds = l.seconds := by
  unfold Ledger.settleWindow
  split
  · exact endWindow_seconds l
  · rfl

theorem take_seconds (l : Ledger) (code value unit : Nat) : (l.take code value unit).seconds = l.seconds := by
  refine Eq.trans ?_ (settleWindow_seconds l)
  unfold Ledger.take
  extract_lets l1 l2
  split
  · split <;> split <;> rfl
  · rfl

/-- Taking what the intake holds leaves the operating time as it is. -/
theorem drain_seconds (l : Ledger) : l.drain.seconds = l.seconds := by
  refine List.foldlRecOn (motive := fun k : Ledger => k.seconds = l.seconds) l.intake _ rfl fun k hk o _ => ?_
  exact (take_seconds k _ _ _).trans hk

/-- A loss of main power saves the operating time as it stands. -/
theorem lose_seconds (l : Ledger) : l.lose.seconds = l.seconds ∧ l.lose.savedSeconds = l.lose.seconds :=
  ⟨drain_seconds l, rfl⟩

/-! ### What holds the module unclocked -/

section
variable {s : State}

theorem clocked_unpowered (h : s.pins.pwrGood = false) : s.clocked = false := by simp [State.clocked, h]

theorem clocked_inReset (h : s.pins.modReset = true) : s.clocked = false := by simp [State.clocked, h]

theorem clocked_heldByReference (h : s.pins.refclkHold = true) : s.clocked = false := by simp [State.clocked, h]

theorem clocked_stopped {cause : Nat} (h : s.power.stopped = some cause) : s.clocked = false := by simp [State.clocked, h]

end

/-! ### Packs, reset and the stops -/

/-- A reset keeps the packs on the NAND, with their manifests and data. -/
theorem restart_packs (w : Store) : w.restart.packs.map (fun e => (e.1, e.2.manifest, e.2.data)) =
    w.packs.map (fun e => (e.1, e.2.manifest, e.2.data)) := by
  simp [Store.restart]

section
variable {s : State}

/-- A level of 10 µs or more is a module reset (R629). -/
theorem modResetNAssert_long (haux : s.pins.vaux = true) (hout : s.pins.modReset = false) {n : Nat} (hlong : 10000 ≤ n) :
    exec (.modResetNAssert n) s = .next (State.resetMain { s with pins := { s.pins with modReset := true } }) := by
  have hseen : ¬ (s.pins.modReset || decide (n < 1000)) = true := by simp [hout]; omega
  have haux' : ¬ (!s.pins.vaux) = true := by simp [haux]
  exact (if_neg hseen).trans ((if_neg haux').trans (if_neg (Nat.not_lt.2 hlong)))

/-- The Keeper after a reset is in P3 where main power is lost or a stop holds, else in P0: for a stop the model's choice (log 156). -/
theorem resetMain_keeper (s : State) : s.resetMain.keeper = { State.reset.keeper with
    powerState := if s.pins.pwrGood = true ∧ s.power.stopped = none then 0 else 3 } := by
  simp [State.resetMain, State.reset]

/-- A reference lost while main power is up and out of reset enters the reset condition (R630). -/
theorem refclkLoss_holds (hclk : s.pins.refclk = true) (hpower : s.pins.pwrGood = true) (hout : s.pins.modReset = false) :
    exec .refclkLoss s = .next (State.resetMain { s with pins := { s.pins with refclk := false, refclkHold := true } }) :=
  congrArg Host.Outcome.next ((if_neg (by simp [hclk])).trans (if_pos (by simp [hpower, hout])))

theorem powerLoss_main (hpower : s.pins.pwrGood = true) {cause : PowerLossCause} (hcause : cause ≠ .vauxSag) :
    exec (.powerLoss cause) s = .next { s.loseMain with ledger := s.loseMain.ledger.lose } :=
  congrArg Host.Outcome.next ((if_neg hcause).trans (if_pos hpower))

end

/-- Settles O57, pin by pin; what a reset keeps is `restart_packs`, what a loss of power saves `lose_seconds`. -/
theorem pinsPowerAndResetTheModule : Obligations.PinsPowerAndResetTheModule := by
  intro s kept
  have hpacks := restart_packs s.store
  refine ⟨rfl, rfl, fun haux hdown => ?rise, fun hpower hruns => ?rails, fun hpower cause hcause => ?loss, fun haux => ?auxLoss,
    fun haux hout n hlong => ?assert, fun hreset => ?release, fun hclk hpower hout => ?reference,
    fun h => ⟨fun sensor => ?thermal, fun rail hrail => ?voltage⟩⟩
  case rise => exact ⟨_, congrArg Host.Outcome.next (if_pos (by simp [haux, hdown])), rfl, rfl, rfl, rfl, rfl, rfl⟩
  case rails => exact congrArg Host.Outcome.next (if_pos (by simp [hpower, hruns]))
  case loss =>
    obtain ⟨hseconds, hsaved⟩ := lose_seconds s.loseMain.ledger
    exact ⟨_, powerLoss_main hpower hcause, rfl, clocked_unpowered rfl, rfl, rfl, rfl, hseconds, hsaved, rfl, hpacks, rfl⟩
  case auxLoss => exact ⟨_, congrArg Host.Outcome.next ((if_pos rfl).trans (if_pos haux)), rfl, rfl⟩
  case assert =>
    exact ⟨_, modResetNAssert_long haux hout hlong, rfl, clocked_inReset rfl, rfl, rfl, hpacks, rfl, resetMain_keeper _⟩
  case release => exact ⟨_, congrArg Host.Outcome.next (if_pos hreset), rfl, rfl, rfl, rfl, rfl⟩
  case reference =>
    exact ⟨_, refclkLoss_holds hclk hpower hout, rfl, clocked_heldByReference rfl, rfl, rfl, hpacks⟩
  case thermal => exact ⟨_, congrArg Host.Outcome.next (if_pos h), rfl, clocked_stopped rfl, rfl, rfl, rfl, hpacks⟩
  case voltage =>
    exact ⟨_, congrArg Host.Outcome.next (if_pos (by simp [h, hrail])), rfl, clocked_stopped rfl, rfl, rfl, rfl, hpacks⟩

end Sys2Proof.Proofs
end

section
/-! SUPPORT. The end of a wipe (R584, R588): what WIPE_COMPLETE answers by what asked for the wipe, and what the wipe leaves in memory and on
the cores. -/

namespace Sys2Proof.Proofs

open Sys2Proof.Machine Sys2Proof.Laws

/-! ### What the wipe leaves (R588) -/

section
variable {s : State}

/-- Of the memory, only the firmware's image slots and the log ring outlive the wipe. -/
theorem memGet_wipeMemory_outside {a : Nat} (hfw : a < s.keeper.fwBase.toNat ∨ s.keeper.fwBase.toNat + 0x400000 ≤ a)
    (hlog : a < s.keeper.logBase.toNat ∨ s.keeper.logBase.toNat + logBytes ≤ a) : memGet s.wipeMemory.mem a = 0 := by
  refine memGet_unlisted fun c hc hca => ?_
  obtain ⟨-, hkept⟩ := List.mem_filter.1 hc
  simp only [hca, Bool.or_eq_true, Bool.and_eq_true, decide_eq_true_eq] at hkept
  omega

theorem tget_wipeMemory_cores (s : State) (p : Nat) : tget s.wipeMemory.cores p = (tget s.cores p).map Core.wipe :=
  tget_map Core.wipe s.cores p

/-! ### WIPE_COMPLETE -/

/-- The module wiped, with the wipe no longer under way. -/
def wiped (s : State) : State := { s.wipeMemory with propolis := { s.propolis with wiping := none, wipeTo := none } }

/-- Without a wipe, or with a context left, WIPE_COMPLETE changes nothing. -/
theorem wipeComplete_ignored (h : s.propolis.wiping = none ∨ s.ctxs ≠ []) : exec .wipeComplete s = .next s := by
  change execWipeComplete s = _
  cases hw : s.propolis.wiping with
  | none => simp only [execWipeComplete, hw]
  | some k =>
    have hctxs : s.ctxs ≠ [] := h.resolve_left (by simp [hw])
    simp [execWipeComplete, hw, hctxs]

section
variable {k : Ticket} (hw : s.propolis.wiping = some k) (hctxs : s.ctxs = [])
include hw hctxs

/-- A wipe for a debug token ends at D2. -/
theorem wipeComplete_debug (hto : s.propolis.wipeTo = none) : exec .wipeComplete s =
    .next { (wiped s).finish k stDone 0 0 with propolis := { (wiped s).propolis with level := 2 } } := by
  change execWipeComplete s = _
  simp only [execWipeComplete, hw, hctxs, hto]
  rfl

/-- A wipe for a lifecycle token ends in the lifecycle it asked for; at lifecycle 3 the packs are gone. -/
theorem wipeComplete_lifecycle {n : Nat} (hto : s.propolis.wipeTo = some n) : exec .wipeComplete s =
    .next ((State.setLifecycle (if n = 3 then { wiped s with store := { (wiped s).store with packs := [] } } else wiped s) n).finish
      k stDone 0 0) := by
  change execWipeComplete s = _
  simp only [execWipeComplete, hw, hctxs, hto]
  rfl

end

end

/-- Settles O60: WIPE_COMPLETE by what asked for the wipe, then what a wiped memory and a wiped core hold. -/
theorem wipesClearTheModule : Obligations.WipesClearTheModule := by
  refine ⟨fun s k hw hctxs => ⟨wipeComplete_debug hw hctxs, fun n hto hn => ?other, fun hto => ?third⟩,
    fun _ => wipeComplete_ignored, fun _ _ => memGet_wipeMemory_outside, fun s p c hc => ?stores⟩
  case other => exact (wipeComplete_lifecycle hw hctxs hto).trans (by rw [if_neg hn]; rfl)
  case third => exact (wipeComplete_lifecycle hw hctxs hto).trans (by rw [if_pos rfl]; rfl)
  case stores =>
    rw [tget_wipeMemory_cores] at hc
    obtain ⟨c', -, rfl⟩ := Option.map_eq_some_iff.1 hc
    exact ⟨rfl, rfl⟩

end Sys2Proof.Proofs
end

section
/-! SUPPORT. The Ledger's summaries (R604) and its commands (R599, R600, R603, R605), and the management port's requests (R613, R614, R620). -/

namespace Sys2Proof.Proofs

open Sys2Proof.Machine Sys2Proof.Laws

/-! ### One occurrence in a summary (R604) -/

theorem histBin_lt (v : Nat) : histBin v < 16 := by
  unfold histBin
  split <;> omega

/-- One more occurrence raises the count of its value's bin and of no other. -/
theorem add_hist_getD {o : Summary} (hlen : o.hist.length = 16) (value unit sec pc b : Nat) :
    ((o.add value unit sec pc).hist[b]?).getD 0 = (o.hist[b]?).getD 0 + (if b = histBin value then 1 else 0) := by
  change ((o.hist.set (histBin value) _)[b]?).getD 0 = _
  by_cases hb : b = histBin value
  · simp [hb, hlen, histBin_lt]
  · rw [List.getElem?_set_ne (Ne.symm hb), if_neg hb, Nat.add_zero]

theorem add_hist_length (o : Summary) (value unit sec pc : Nat) : (o.add value unit sec pc).hist.length = o.hist.length :=
  List.length_set

theorem add_maxUnit (o : Summary) (value unit sec pc : Nat) :
    (o.add value unit sec pc).maxUnit = if o.count = 0 ∨ o.max < value then BitVec.ofNat 32 unit else o.maxUnit := by
  simp [Summary.add]

/-! ### One occurrence in the Ledger (R604) -/

section
variable {l : Ledger} {code : Nat} (value unit sec : Nat)

/-- A code with a summary, or with room for one, counts under itself. -/
theorem ledgerAdd_fits (h : (tget l.summaries code).isSome = true ∨ l.summaries.length < 512) :
    l.add code value unit sec = { l with
      summaries := tset l.summaries code ((tgetD l.summaries code (.empty code)).add value unit sec l.powerCycles) } := by
  have hfits : ((tget l.summaries code).isSome || decide (l.summaries.length < 512)) = true := by simpa using h
  simp [Ledger.add, hfits]

/-- A further code counts under SUMMARY_FULL, with the code as its value. -/
theorem ledgerAdd_full (hnew : tget l.summaries code = none) (hfull : 512 ≤ l.summaries.length) :
    l.add code value unit sec = { l with
      summaries := tset l.summaries 0x0004 ((tgetD l.summaries 0x0004 (.empty 0x0004)).add code noUnit sec l.powerCycles) } := by
  have hfits : ((tget l.summaries code).isSome || decide (l.summaries.length < 512)) = false := by simpa [hnew] using hfull
  simp [Ledger.add, hfits]

/-- An occurrence changes its own summary, or that of SUMMARY_FULL, and no other. -/
theorem tget_ledgerAdd_other {k : Nat} (hk : k ≠ code) (hk4 : k ≠ 0x0004) :
    tget (l.add code value unit sec).summaries k = tget l.summaries k := by
  refine tget_tset_other _ _ ?_
  split
  · exact hk
  · exact hk4

end

/-- Settles O58: the summary that counts the occurrence, by whether the code fits, and the summaries it leaves. -/
theorem summariesFollowR604 : Obligations.SummariesFollowR604 := by
  intro l code value unit sec held o
  refine ⟨fun hfits hlen => ?fits, fun hnew hfull => ?full, fun k hk hk4 => tget_ledgerAdd_other value unit sec hk hk4⟩
  case fits =>
    refine ⟨o.add value unit sec l.powerCycles, ?_, rfl, rfl, rfl, rfl, rfl, rfl, rfl, add_maxUnit o .., ?_, fun b _ => ?_⟩
    · rw [ledgerAdd_fits value unit sec hfits]
      exact tget_tset_self ..
    · rw [add_hist_length, hlen]
    · exact add_hist_getD hlen ..
  case full =>
    rw [ledgerAdd_full value unit sec hnew hfull]
    exact tget_tset_self ..

/-! ### What taking the intake leaves (R603 to R606) -/

/-- The Ledger without what taking an occurrence writes: its summaries and flush marks, its window, and its records. -/
def untaken (l : Ledger) : Ledger :=
  { l with
    summaries := []
    flushed := []
    windowStart := 0
    partialWindow := false
    droppedWindow := 0
    written := 0
    records := []
    fault := 0 }

theorem endWindow_untaken (l : Ledger) : untaken l.endWindow = untaken l := by
  unfold Ledger.endWindow
  extract_lets l1 l2
  have h1 : untaken l1 = untaken l := by
    dsimp only [l1]
    split <;> rfl
  change untaken l2 = untaken l
  refine List.foldlRecOn (motive := fun k => untaken k = untaken l) l1.summaries _ h1 fun k hk e _ => ?_
  split <;> exact hk

theorem settleWindow_untaken (l : Ledger) : untaken l.settleWindow = untaken l := by
  unfold Ledger.settleWindow
  split
  · exact endWindow_untaken l
  · rfl

theorem take_untaken (l : Ledger) (code value unit : Nat) : untaken (l.take code value unit) = untaken l := by
  refine Eq.trans ?_ (settleWindow_untaken l)
  unfold Ledger.take
  extract_lets l1 l2
  split
  · split <;> split <;> rfl
  · rfl

/-- Taking what the intake holds empties it; beside that it changes only what an occurrence writes. -/
theorem drain_untaken (l : Ledger) : untaken l.drain = untaken { l with intake := [] } :=
  List.foldlRecOn (motive := fun k => untaken k = untaken { l with intake := [] }) l.intake _ rfl
    fun k hk _ _ => (take_untaken k _ _ _).trans hk

theorem drain_intake (l : Ledger) : l.drain.intake = [] := (congrArg Ledger.intake (drain_untaken l) :)

theorem drain_powerCycles (l : Ledger) : l.drain.powerCycles = l.powerCycles :=
  (congrArg Ledger.powerCycles (drain_untaken l) :)

theorem settleWindow_powerCycles (l : Ledger) : l.settleWindow.powerCycles = l.powerCycles :=
  (congrArg Ledger.powerCycles (settleWindow_untaken l) :)

/-- A report enters the intake or is dropped: the counts of operation stay. -/
theorem report_counts (l : Ledger) (code value unit : Nat) :
    (l.report code value unit).seconds = l.seconds ∧ (l.report code value unit).powerCycles = l.powerCycles := by
  unfold Ledger.report
  split <;> exact ⟨rfl, rfl⟩

/-! ### The Ledger's commands (R599, R600, R605) -/

section
variable {s : State}

theorem summaryWindowEnd_eq (s : State) : exec .summaryWindowEnd s = .next { s with
    ledger := if s.ledger.windowStart + 600 ≤ s.ledger.seconds then s.ledger.endWindow else s.ledger } := by
  simp [exec, execSummaryWindowEnd, Ledger.settleWindow, Ledger.windowDue]

theorem operatingSecond_powered (h : s.pins.pwrGood = true) : exec .operatingSecond s = .next { s with
    ledger := { s.ledger.drain with seconds := min (s.ledger.drain.seconds + 1) (2 ^ 40 - 1) } } :=
  congrArg Host.Outcome.next (if_pos h)

/-- The Ledger at a minute boundary, before its save: the junction is reported, the intake taken, and a window that is due ended. -/
def minuteLedger (s : State) : Ledger :=
  (s.ledger.report 0x0600 (junctionValue s.power.temp) (bits s.power.temp.toNat 21 16)).drain.settleWindow

theorem operatingMinuteSave_due (h : s.pins.pwrGood = true) (hmin : s.ledger.seconds % 60 = 0) :
    exec .operatingMinuteSave s = .next { s with ledger := (minuteLedger s).save } :=
  congrArg Host.Outcome.next (if_pos (by simp [h, hmin]))

theorem minuteLedger_counts (s : State) :
    (minuteLedger s).seconds = s.ledger.seconds ∧ (minuteLedger s).powerCycles = s.ledger.powerCycles := by
  obtain ⟨hseconds, hcycles⟩ := report_counts s.ledger 0x0600 (junctionValue s.power.temp) (bits s.power.temp.toNat 21 16)
  exact ⟨(settleWindow_seconds _).trans ((drain_seconds _).trans hseconds),
    (settleWindow_powerCycles _).trans ((drain_powerCycles _).trans hcycles)⟩

/-- Without main power operating time stands still and nothing is saved. -/
theorem operatingTime_unpowered (h : s.pins.pwrGood = false) :
    exec .operatingSecond s = .next s ∧ exec .operatingMinuteSave s = .next s :=
  ⟨congrArg Host.Outcome.next (if_neg (by simp [h])), congrArg Host.Outcome.next (if_neg (by simp [h]))⟩

/-! ### The management port (R613, R614, R620) -/

theorem mctpControl_answered (h : s.pins.vaux = true) (r : List Byte) : exec (.mctpControl r) s =
    .next (s.mgmtSend (Config.freeBytes 16 (leBytes 1 s.pins.smbAddress ++ r))) :=
  congrArg Host.Outcome.next (if_pos h)

theorem pldmRequest_answered (h : s.pins.vaux = true) {r : List Byte} (htype : pldmType r = 2 ∨ pldmType r = 4) :
    exec (.pldmRequest r) s = .next (s.mgmtSend
      (Config.freeBytes 17 (s.sensorBytes ++ leBytes 6 s.port.mac.toNat ++ leBytes 4 Config.idcode.toNat ++ r))) :=
  congrArg Host.Outcome.next (if_pos (by simpa [h] using htype))

theorem mgmtLedgerRead_answered (h : s.pins.vaux = true) (r : List Byte) :
    exec (.mgmtLedgerRead r) s = .next (s.mgmtSend (s.mgmtAnswer r)) :=
  congrArg Host.Outcome.next (if_pos h)

/-- A read of the record ring by FROM is answered with WRITTEN and up to four records (R614). -/
theorem mgmtAnswer_records {r : List Byte} (hlen : r.length = 9) (hcmd : field r 0 1 = 1) (hring : bitAt (field r 1 8) 63 = false) :
    s.mgmtAnswer r = leBytes 1 0 ++ leBytes 8 s.ledger.written ++ leBytes 1 (s.ledger.readRecords (field r 1 8) 4).length ++
      (s.ledger.readRecords (field r 1 8) 4).flatMap id := by
  simp [State.mgmtAnswer, State.mgmtRecords, hlen, hcmd, hring]

/-- Without auxiliary power the port is silent. -/
theorem management_silent (h : s.pins.vaux = false) (r : List Byte) : exec (.mctpControl r) s = .next s ∧
    exec (.pldmRequest r) s = .next s ∧ exec (.mgmtLedgerRead r) s = .next s := by
  refine ⟨congrArg Host.Outcome.next (if_neg ?_), congrArg Host.Outcome.next (if_neg ?_), congrArg Host.Outcome.next (if_neg ?_)⟩ <;>
    simp [h]

end

/-- Settles O59, command by command. -/
theorem ledgerAndManagementTakeEffect : Obligations.LedgerAndManagementTakeEffect := by
  intro s
  refine ⟨fun _ _ _ => rfl, ⟨_, summaryWindowEnd_eq s, rfl⟩, fun hpower => ?second, fun hpower hmin => ?minute,
    operatingTime_unpowered, fun haux r => ⟨⟨_, mctpControl_answered haux r⟩, fun htype => ⟨_, pldmRequest_answered haux htype⟩,
      fun hlen hcmd hring => ?read⟩, management_silent⟩
  case second =>
    have hseconds : min (s.ledger.drain.seconds + 1) (2 ^ 40 - 1) = min (s.ledger.seconds + 1) (2 ^ 40 - 1) := by rw [drain_seconds]
    exact ⟨_, operatingSecond_powered hpower, hseconds, drain_intake s.ledger, rfl⟩
  case minute =>
    obtain ⟨hseconds, hcycles⟩ := minuteLedger_counts s
    exact ⟨_, operatingMinuteSave_due hpower hmin, hseconds, hcycles, rfl⟩
  case read => rw [mgmtLedgerRead_answered haux, mgmtAnswer_records hlen hcmd hring]

end Sys2Proof.Proofs
end

section
/-! SUPPORT. The machine as a whole: a step of a filled queue, the one command that can stop it (R629), and the registers after reset. -/

namespace Sys2Proof.Proofs

open Sys2Proof Sys2Proof.Machine Sys2Proof.Laws

/-- Settles O1: by the second case of `step`. -/
theorem stepRunsTheFrontCommand : Obligations.StepRunsTheFrontCommand := by
  intro c rest s hqueue
  simp only [step, hqueue]

/-- Every other command's meaning is a next state, whatever the state: only MOD_RESET_N_ASSERT can answer anything else. -/
theorem exec_answers {c : Instr} (hother : ∀ n, c ≠ .modResetNAssert n) (s : State) : ∃ t, exec c s = .next t := by
  cases c with
  | modResetNAssert n => exact absurd rfl (hother n)
  | _ => exact ⟨_, rfl⟩

/-- A low level of MOD_RESET_N is unseen, kept for the return of auxiliary power, forbidden, or a module reset (R629). -/
theorem modResetNAssert_answers (n : Nat) (s : State) : (∃ t, exec (.modResetNAssert n) s = .next t) ∨
    (1000 ≤ n ∧ n < 10000 ∧ s.pins.vaux = true ∧ s.pins.modReset = false ∧
      exec (.modResetNAssert n) s = .fault .undefinedResetPulse) := by
  change (∃ t, execModResetNAssert n s = .next t) ∨ (_ ∧ _ ∧ _ ∧ _ ∧ execModResetNAssert n s = .fault .undefinedResetPulse)
  unfold execModResetNAssert
  split
  case isTrue => exact .inl ⟨_, rfl⟩
  case isFalse hseen =>
    split
    case isTrue => exact .inl ⟨_, rfl⟩
    case isFalse haux =>
      split
      case isTrue hshort =>
        obtain ⟨hout, hlong⟩ : s.pins.modReset = false ∧ 1000 ≤ n := by simpa using hseen
        exact .inr ⟨hlong, hshort, by simpa using haux, hout, rfl⟩
      case isFalse => exact .inl ⟨_, rfl⟩

/-- Settles O3: MOD_RESET_N_ASSERT by its level, and every other command by its meaning. -/
theorem onlyAForbiddenResetPulseStops : Obligations.OnlyAForbiddenResetPulseStops := by
  intro c s
  by_cases hpulse : ∃ n, c = .modResetNAssert n
  case pos =>
    obtain ⟨n, rfl⟩ := hpulse
    exact (modResetNAssert_answers n s).imp_right fun hstop => ⟨n, rfl, hstop⟩
  case neg => exact .inl (exec_answers (fun n hn => hpulse ⟨n, hn⟩) s)

/-- In the reset state every register of the list reads its reset value: a closed fact, evaluated register by register. -/
theorem regRead_reset : ∀ e ∈ resetRegisters, State.reset.regRead e.1 = some e.2 := by decide +kernel

/-- Settles O5: reset lists nothing in memory and nothing in the queue, and its registers are `regRead_reset`. -/
theorem resetLeavesTheTabledValues : Obligations.ResetLeavesTheTabledValues := ⟨rfl, rfl, regRead_reset⟩

end Sys2Proof.Proofs
end
